-- ==== Sys2Proof/Syntax.lean ====
section
/-! DEFINITION. Instructions: the shared fields of an instruction word (R69 to R76), the arguments of the steps that are no
instruction words, and the one inductive with a constructor for every row of the opcode table. -/

namespace Sys2Proof

/-- Operand types (R72); codes 13 to 15 are ILLEGAL. -/
inductive Ty where
  | i32 | n32 | i64 | n64 | f32 | f16 | bf16 | bf16x2 | f16x2 | i8x4 | n8x4 | b32 | b64
  deriving DecidableEq, Repr

/-- Rounding field (R52); code 7 is ILLEGAL. -/
inductive Rnd where
  | dyn | rne | rtz | rdn | rup | rna | rsr
  deriving DecidableEq, Repr

/-- The extension word EXT (R76). -/
structure Ext where
  num1 : BitVec 8
  num2 : BitVec 8
  fslot : BitVec 3
  fslotb : BitVec 3
  ovf : BitVec 2
  xsub : BitVec 8
  deriving DecidableEq, Repr

/-- What follows the base word (R75). -/
inductive Tail where
  | none
  | imm32 (w : Word)
  | ext (e : Ext)
  | imm64 (d : DWord)
  | extImm (e : Ext) (w : Word)
  deriving DecidableEq, Repr

/-- The fields of an instruction word that its opcode does not fix (R69, R76). `a`, `b`, `c` and `d` are operand codes of
R73, or hold what the opcode's description puts there. -/
structure Fields where
  gneg : Bool
  gnum : BitVec 3
  u : Bool
  d : BitVec 8
  a : BitVec 8
  b : BitVec 8
  c : BitVec 8
  rnd : Rnd
  ty : Ty
  hold : BitVec 2
  he : BitVec 2
  fex : BitVec 3
  mod : BitVec 2
  tail : Tail
  deriving DecidableEq, Repr

/-- The EXT word, all zero where the instruction has none. -/
def Fields.ext (f : Fields) : Ext :=
  match f.tail with
  | .ext e => e
  | .extImm e _ => e
  | _ => ⟨0, 0, 0, 0, 0, 0⟩

/-- Length in bytes (R66, R75). -/
def Fields.len (f : Fields) : Nat :=
  match f.tail with
  | .none => 8
  | .imm32 _ => 12
  | .ext _ => 12
  | .imm64 _ => 16
  | .extImm _ _ => 16

/-- A contribution or resync that reaches a meeting unit from another device or a packet (R387). -/
structure MeetReq where
  obj : DWord
  op : Nat          -- 0 contribution, 1 resync, 2 round poll, 3 round wait; of a packet sent to a peer also 4 INIT, 5 FINI
  rank : Nat
  tag : Nat
  data : List Word
  dev : Nat
  deriving DecidableEq, Repr

/-- Where the next request at a meeting unit comes from: the device's own queue, or a peer. -/
inductive MeetSource where
  | queued (i : Nat)
  | remote (r : MeetReq)
  deriving DecidableEq, Repr

/-- A rank of another device that has arrived at a collective instance, with the descriptor fields that members must agree
in, the bytes of its source and its poisoned elements (R369, R370, R383); `killed` where it is the abort of a killed rank (R376). An AMERGE holds HD in `ety` and ROWS in `count`. -/
structure RemoteRank where
  rank : Nat
  amerge : Bool
  kind : Nat
  rop : Nat
  ety : Nat
  count : Nat
  root : Nat
  flags : Nat
  source : List Byte
  poison : List Nat
  killed : Bool := false
  deriving DecidableEq, Repr

/-- Header of a report-protocol request (R453). -/
structure ReportHdr where
  version : Byte
  op : Byte
  len : BitVec 16
  xid : Word
  devid : DWord
  deriving DecidableEq, Repr

/-- An unlock token (R455). -/
structure Token where
  format : Word
  lcs : Byte
  reserved : BitVec 24
  devid : DWord
  nonce : BitVec 256
  siglen : Word
  sig : List Byte
  deriving DecidableEq, Repr

/-- What the pilot does to a context: it switches to another whose partition meets it (R346), or performs an operation of CTXOP through its
control port: the operation's code, the slot and the two arguments (R354, R355). -/
inductive PilotReq where
  | switchTo (dst : Nat)
  | op (code slot b c : Nat)
  deriving DecidableEq, Repr

/-- The capability that a debug request names, and its target context (R431). -/
structure DebugReq where
  arr : DWord
  granule : Nat
  ctx : Nat
  deriving DecidableEq, Repr

/-- A register that a debug request names (R431): operand codes of R73 for v, s and x kinds, and the other kinds of R20. -/
inductive DebugReg where
  | v (n : Nat) | s (n : Nat) | p (n : Nat) | g (n : Nat) | x (n : Nat) | o (n : Nat) | t (n : Nat)
  | mode | pedKey | pedPos | k (n : Nat) | l (n : Nat)
  deriving DecidableEq, Repr

/-- An object that system software asks the Harbourmaster to create (R335). -/
structure ObjectReq where
  ctx : Nat
  name : DWord
  vbase : Nat
  extent : Nat
  pin : Bool
  caparr : Bool
  checked : Bool
  home : Nat
  shofs : Nat
  deriving DecidableEq, Repr

/-- An error that a protected structure detects (R434): where it lies, and whether ECC corrects it. -/
inductive ErrorSite where
  | vreg (gid reg thread : Nat)
  | sreg (gid reg : Nat)
  | pregs (gid n : Nat)
  | gregs (gid n : Nat)
  | xreg (gid n thread : Nat)
  | kreg (gid n : Nat)
  | mode (gid : Nat)
  | l1 (core : Nat)
  | vault (wg granule : Nat)
  | acc (wg index : Nat)
  | l2 (slice granule : Nat)
  | shadow (slice ctx : Nat)
  | hbm (stack granule : Nat)
  | scaleCache (core : Nat)
  | tableEntry (ctx : Option Nat) (die : Nat)
  | dieLink (down : Bool) (lower higher : Nat)
  | quayLink (port : Nat)
  | hostPort (port : Nat)
  | saveArea (ctx : Nat)
  | ringEntry (ctx : Nat)
  deriving DecidableEq, Repr

/-- What a member device's Harbourmaster answers to a key exchange (R448). -/
structure KeyAnswer where
  dev : Nat
  key : List Byte
  sig : List Byte
  cert : List Byte
  deriving DecidableEq, Repr

/-- A firmware image as the boot ROM finds it (R450). -/
structure Image where
  bytes : List Byte
  svn : Word
  sig : List Byte
  deriving DecidableEq, Repr

/-- One constructor per row of the opcode table. The first 166 are instruction words; the rest are steps of the device and
of the parties outside it. -/
inductive Instr where
  -- integer, logic, moves
  | add (f : Fields) | sub (f : Fields) | mul (f : Fields) | mulhi (f : Fields) | mad (f : Fields)
  | divn (f : Fields) | remn (f : Fields) | min (f : Fields) | max (f : Fields) | abs (f : Fields) | neg (f : Fields)
  | and (f : Fields) | or (f : Fields) | xor (f : Fields) | andn (f : Fields) | shl (f : Fields) | shr (f : Fields)
  | sar (f : Fields) | bfx (f : Fields) | bfi (f : Fields) | popc (f : Fields) | clz (f : Fields) | ctz (f : Fields)
  | brev (f : Fields) | sel (f : Fields) | mov (f : Fields) | movi (f : Fields) | cmp (f : Fields)
  -- floating point, conversion
  | fadd (f : Fields) | fsub (f : Fields) | fmul (f : Fields) | ffma (f : Fields) | fmin (f : Fields) | fmax (f : Fields)
  | fcmp (f : Fields) | fclass (f : Fields) | fdot2 (f : Fields) | frcp (f : Fields) | frsq (f : Fields)
  | fsqrt (f : Fields) | fexp2 (f : Fields) | flog2 (f : Fields) | fsinpi (f : Fields) | fcospi (f : Fields)
  | cvt (f : Fields) | cvtpk (f : Fields) | qpack (f : Fields) | qunpk (f : Fields) | scalegen (f : Fields)
  -- predicates, lanes, index registers, allotment
  | pset (f : Fields) | plop (f : Fields) | pmov (f : Fields) | vote (f : Fields) | shfl (f : Fields)
  | swpair (f : Fields) | bcast (f : Fields) | redux (f : Fields) | scan (f : Fields) | matchAny (f : Fields)
  | ldx (f : Fields) | stx (f : Fields) | xset (f : Fields) | grow (f : Fields) | shrink (f : Fields)
  | allotq (f : Fields)
  -- control, mode, system
  | bra (f : Fields) | call (f : Fields) | brx (f : Fields) | join (f : Fields) | ret (f : Fields) | exit (f : Fields)
  | bkpt (f : Fields) | yield (f : Fields) | nop (f : Fields) | safept (f : Fields) | trap (f : Fields)
  | smode (f : Fields) | gmode (f : Fields) | rdsys (f : Fields) | wrsys (f : Fields)
  -- fragments and tile engine
  | mmaf16x16x16 (f : Fields) | mmaf32x8x16 (f : Fields) | mmaf8x32x16 (f : Fields) | mmaf16x16x32 (f : Fields)
  | mmai (f : Fields) | mmaq (f : Fields) | ldfrag (f : Fields) | stfrag (f : Fields) | fragmov (f : Fields)
  | tmma (f : Fields) | tcfgRing (f : Fields) | tcfgFree (f : Fields) | tscale (f : Fields) | taccrd (f : Fields)
  | taccwr (f : Fields) | tepi (f : Fields) | tstat (f : Fields) | tdrainWait (f : Fields) | tdrainAbort (f : Fields)
  -- memory, synchronisation, capabilities, engines
  | ld (f : Fields) | st (f : Fields) | ldt (f : Fields) | stt (f : Fields) | ldu (f : Fields) | atom (f : Fields)
  | red (f : Fields) | fence (f : Fields) | barSync (f : Fields) | barArrive (f : Fields) | barWait (f : Fields)
  | abarInit (f : Fields) | abarArrive (f : Fields) | abarWait (f : Fields) | abarSync (f : Fields)
  | abarInval (f : Fields) | waitc (f : Fields) | capld (f : Fields) | capst (f : Fields) | caprestr (f : Fields)
  | capq (f : Fields) | strmset (f : Fields) | strmctlStart (f : Fields) | strmctlStop (f : Fields)
  | strmctlQuery (f : Fields) | strmctlFree (f : Fields) | cpy (f : Fields) | bufacqFill (f : Fields)
  | bufacqDrain (f : Fields) | bufrelFill (f : Fields) | bufrelDrain (f : Fields) | bufwait (f : Fields)
  | bufstate (f : Fields) | pref (f : Fields) | llock (f : Fields) | lunlk (f : Fields)
  -- tasks, pedigrees, reducers
  | spawn (f : Fields) | sync (f : Fields) | texit (f : Fields) | pedrd (f : Fields) | pedcmp (f : Fields)
  | rng (f : Fields) | alloco (f : Fields) | freeo (f : Fields) | logw (f : Fields) | rdecl (f : Fields)
  | rview (f : Fields) | racc (f : Fields) | rapp (f : Fields)
  -- collectives, meetings, launches, marks, contexts
  | coll (f : Fields) | collq (f : Fields) | amerge (f : Fields) | qmeet (f : Fields) | qroundPoll (f : Fields)
  | qroundWait (f : Fields) | qresync (f : Fields) | launch (f : Fields) | postres (f : Fields) | evmark (f : Fields)
  | ctxopPreempt (f : Fields) | ctxopResume (f : Fields) | ctxopKill (f : Fields) | ctxopMapdone (f : Fields)
  | ctxopTlbinv (f : Fields) | ctxopTrapres (f : Fields) | ctxopFlags (f : Fields) | ctxopState (f : Fields)
  -- words that are no instruction, results, walks, traps, stores, pre-emption
  | unassignedOpcode (w0 : Word) | storePerformed (i : Nat)
  | deferredResultWrite (gid i : Nat) | loadResultArrive (gid i : Nat) | pageWalk (die : Nat)
  | asyncTrapDeliver (gid : Nat) | raceFilterCheck (i : Nat) | remoteWritePerformed (i : Nat)
  | hardPreemptCount (gid : Nat) | hardPreemptWait (gid : Nat)
  -- placement and engines
  | workgroupDispatch (lid : Nat) | berthFill (core : Nat) | stealRequest (thief victim : Nat) | viewMerge (blk : Nat)
  | streamReadAhead (gid n : Nat) | copyComplete (core : Nat) | mmaCommandStart (wg : Nat) | mmaOperandSlot (wg : Nat)
  | interruptionPoint (core : Nat) | tileCommandRetire (wg : Nat) | epiCommand (wg : Nat) | scaleCommand (wg : Nat)
  -- packets
  | nopPacket (ctx q : Nat) | launchPacket (ctx q : Nat) | copyPacket (ctx q : Nat) | depend (ctx q : Nat)
  | dependComplete (ctx q : Nat) | graph (ctx q : Nat) | graphStep (ctx q : Nat) | collPacket (ctx q : Nat)
  | meetInit (ctx q : Nat) | meetFini (ctx q : Nat) | meetContrib (ctx q : Nat) | meetResync (ctx q : Nat)
  | queueRestart (ctx q : Nat) | launchComplete (lid : Nat)
  -- collectives and meetings
  | collInstanceStart (i : Nat) (remote : List RemoteRank) | collInstanceComplete (i member : Nat)
  | meetContribution (src : MeetSource)
  -- samples and the recorder
  | sampleTag (core sched : Nat) | tick (core : Nat) | freezeMessage (core : Nat)
  -- fabric and host ports
  | flitReceive (port : Nat) (flit : BitVec 512) | portRetrain (port : Nat) (ok : Bool) | portDown (port : Nat)
  | retrainRequest (port : Nat) | deviceNumberSet (n : Nat) | routeTableWrite (dev : Nat) (w : Word)
  | rdmaWrite (port qp : Nat) (rkey : Word) (addr : Nat) (data : List Byte)
  | rdmaRead (port qp : Nat) (rkey : Word) (addr len : Nat)
  | atomicFetchAdd (port qp : Nat) (rkey : Word) (addr : Nat) (v : DWord)
  | atomicCompareSwap (port qp : Nat) (rkey : Word) (addr : Nat) (cmp swp : DWord)
  | invalidRequestNak (port qp : Nat) (opcode : Byte)
  -- report protocol
  | attest (h : ReportHdr) (nonce : BitVec 256) | capsuleRead (h : ReportHdr) (capno : Nat) (cap : BitVec 128)
  | unlockChallenge (h : ReportHdr) | unlock (h : ReportHdr) (t : Token)
  -- Harbourmaster requests
  | placecap (ctx : Nat) (arr : DWord) (granule : Nat) (image : BitVec 128) | objectCreate (r : ObjectReq)
  | objectRevoke (ctx : Nat) (name : DWord)
  | contextCreate (n : Nat) (desc : BitVec 2048) (arr : DWord) (granule : Nat) (debugName : DWord)
  | contextDestroy (ctx : Nat) | retire (type phys : Nat) | scaleon (pcore : Nat) | revokeDebug (ctx : Nat)
  | commkey (ctx : Nat) (comm : DWord) (answers : List KeyAnswer) (acks : List Nat) (switchKeys : List (List Byte))
  | keyExchangeQuery (dev : Nat) | keyInstall (dev : Nat) (name : DWord) (gen : Nat) (ct wrapped : List Byte)
  | svnRaise (stevedore : Bool) (image : Image) | deploy | returnToken (sig : List Byte) | decommission (sig : List Byte)
  | thresholdSet (type phys n : Nat) | powerCapSet (milliwatt : Nat) | errorRingSetup (obj : DWord)
  | registrationWrite (rkey : Word) (ctx : Nat) (image : BitVec 128)
  | hostObjectWrite (i : Nat) (name : DWord) (port qp : Nat) (rkey : Word) (addr len : Nat) | enumerationRead
  -- debug requests and the recorder
  | stop (r : DebugReq) (slot : Option Nat) | resume (r : DebugReq) (slot : Option Nat)
  | readreg (r : DebugReq) (gid : Nat) (reg : DebugReg)
  | writereg (r : DebugReq) (gid : Nat) (reg : DebugReg) (value : List DWord)
  | sampcfg (r : DebugReq) (ring : DWord) (n : Option Nat) | capsuleCollect
  -- errors, health, power, resets
  | errorDetect (site : ErrorSite) (corrected : Bool) | healthWindowExpire | powerLimit (milliwatt : Nat)
  | thermalThrottle (die celsius : Nat) | thermalTrip (die : Nat) | timeSliceSwitch (r : PilotReq) (ctx : Nat)
  | coldReset (hm st : Image) (pass1 pass2 : List Nat) | warmReset (hm st : Image) (pass1 pass2 : List Nat) | powerLoss
  | vendorProvisioning
  | priorityFlowControlFrame (port prio quanta : Nat) | congestionNotificationPacket (port qp : Nat)
  deriving DecidableEq, Repr

end Sys2Proof
end

