-- ==== Sys2Proof/Machine/Forms.lean ====
section
/-! DEFINITION. The opcode map (R78 to R80) and the legal field values of every opcode: check 5 of R77, from R69 to R76 and
each instruction's own description. Checks that need a format slot of the launch are made at issue (Operands). -/

namespace Sys2Proof

/-- Length classes (R78). -/
inductive LenClass where
  | a | b | c | d | e | f
  deriving DecidableEq, Repr

def between (lo hi n : Nat) : Bool := lo ≤ n && n ≤ hi

/-- Length class of a major opcode; none where it is unassigned (R79, R80). -/
def lenClass (op : Nat) : Option LenClass :=
  if between 0x001 0x00B op || between 0x010 0x01C op || between 0x020 0x021 op || op == 0x023 then some .a
  else if op == 0x022 then some .e
  else if between 0x080 0x088 op then some .a
  else if between 0x090 0x096 op then some .b
  else if between 0x0A0 0x0A4 op then some .e
  else if between 0x100 0x103 op || between 0x110 0x115 op then some .a
  else if between 0x120 0x121 op then some .b
  else if op == 0x122 || between 0x130 0x132 op then some .a
  else if between 0x140 0x141 op then some .c
  else if between 0x142 0x147 op then some .b
  else if op == 0x148 then some .f
  else if op == 0x149 then some .d
  else if op == 0x14A || op == 0x160 then some .a
  else if op == 0x161 then some .b
  else if between 0x162 0x163 op || between 0x180 0x185 op then some .c
  else if between 0x188 0x189 op then some .e
  else if op == 0x18A then some .b
  else if between 0x1A0 0x1A5 op then some .e
  else if between 0x1A6 0x1A7 op then some .b
  else if between 0x1C0 0x1C6 op then some .e
  else if op == 0x1C7 then some .c
  else if between 0x1C8 0x1D8 op || op == 0x1E0 then some .e
  else if between 0x1E1 0x1E2 op then some .b
  else if between 0x1E3 0x1E7 op then some .a
  else if between 0x1E8 0x1EC op || between 0x1F0 0x1F7 op then some .e
  else if op == 0x1F8 then some .a
  else if op == 0x1F9 then some .e
  else none

/-- Operand kinds of R73. -/
inductive Kind where
  | v | s | o | ix | l | zero | tid | imm | bad
  deriving DecidableEq, Repr

/-- Kind of an operand code (R73). -/
def kindOf (code : BitVec 8) : Kind :=
  let n := code.toNat
  if n < 0xB0 then .v else if n < 0xE0 then .s else if n < 0xE8 then .o else if n < 0xF0 then .ix else if n < 0xF3 then .l
  else if n = 0xF3 then .zero else if n = 0xF4 then .tid else if n = 0xFF then .imm else .bad

/-- What an operand field may hold: the zero operand only; a source or a destination of one of some kinds and a run of `w`
registers; two s registers from an even one, eight from a multiple of 8; or a number, already checked. -/
inductive Opd where
  | unused
  | src (ks : List Kind) (w : Nat)
  | dst (ks : List Kind) (w : Nat)
  | s2
  | s8
  | raw (ok : Bool)
  deriving DecidableEq, Repr

/-- The code names an allowed operand: a pair is even, a longer run starts at a multiple of its length (R22, R25, R137, R233). -/
def Opd.ok (o : Opd) (code : BitVec 8) : Bool :=
  let n := code.toNat
  let fit (ks : List Kind) (w : Nat) : Bool :=
    ks.contains (kindOf code) &&
      (match kindOf code with
       | .v => n % w == 0
       | .l => w == 1 || n != 0xF2
       | _ => true)
  match o with
  | .unused => n == 0xF3
  | .src ks w => fit ks w
  | .dst ks w => fit ks w
  | .s2 => kindOf code == .s && n % 2 == 0
  | .s8 => kindOf code == .s && (n - 0xB0) % 8 == 0
  | .raw ok => ok

def Opd.isSrc : Opd → Bool
  | .src _ _ => true
  | .s2 => true
  | .s8 => true
  | _ => false

/-- Registers a source reads as one 64-bit value: 2 for a pair. -/
def Opd.width : Opd → Nat
  | .src _ w => w
  | .dst _ w => w
  | _ => 1

/-- The legal values of an instruction's fields (R69 to R76). -/
structure Form where
  u : Option Bool        -- the required U, none where both are legal
  guard : Bool           -- may be guarded
  holdOk : Bool          -- HOLD may be used
  fexOk : Bool           -- FEX may be used
  tyOk : Bool
  modOk : Bool
  rnd : Bool             -- RND may be non-zero
  d : Opd
  a : Opd
  b : Opd
  c : Opd
  extOk : Bool
  len96 : Bool           -- only the 96-bit length
  immFree : Bool         -- the immediate word is not an operand
  deriving DecidableEq, Repr

def is64 : Ty → Bool
  | .i64 | .n64 | .b64 => true
  | _ => false

/-- Registers of a value of a type. -/
def regsOf (t : Ty) : Nat := if is64 t then 2 else 1

/-- Every EXT field zero except NUM1, NUM2 and XSUB, which meet a condition. -/
def extN (f : Fields) (ok : Bool) : Bool := f.ext.fslot == 0 && f.ext.fslotb == 0 && f.ext.ovf == 0 && ok

/-- Every EXT field zero. -/
def extZ (f : Fields) : Bool := extN f (f.ext.num1 == 0 && f.ext.num2 == 0 && f.ext.xsub == 0)

/-- A form with nothing used: both values of U, unused operands, every other field zero. -/
def Form.plain (f : Fields) : Form :=
  { u := none, guard := true, holdOk := true, fexOk := true, tyOk := f.ty == .i32, modOk := f.mod == 0, rnd := false,
    d := .unused, a := .unused, b := .unused, c := .unused, extOk := extZ f, len96 := false, immFree := false }

/-- A form that is uniform only. -/
def Form.uni (f : Fields) : Form := { Form.plain f with u := some true }

/-- A form that is vector only. -/
def Form.vec (f : Fields) : Form := { Form.plain f with u := some false }

/-- A uniform form with HOLD and FEX zero (R289, R354, R373, R384, R392). -/
def Form.bare (f : Fields) : Form := { Form.uni f with holdOk := false, fexOk := false }

/-- General sources (R16, R73). -/
def Opd.gen (f : Fields) (w : Nat) : Opd :=
  .src (if f.u then [.s, .o, .zero, .imm] else [.v, .s, .o, .ix, .l, .zero, .tid, .imm]) w

/-- General destinations (R16, R73, R90). -/
def Opd.out (f : Fields) (w : Nat) : Opd := .dst (if f.u then [.s, .zero] else [.v, .ix, .zero]) w

def Opd.sImm : Opd := .src [.s, .imm] 1
def Opd.sZeroImm : Opd := .src [.s, .zero, .imm] 1
def Opd.sZero : Opd := .src [.s, .zero] 1
def Opd.sOnly : Opd := .src [.s] 1
def Opd.sOut : Opd := .dst [.s, .zero] 1

/-- A predicate destination: bits [7:3] zero (R91). -/
def predDst (code : BitVec 8) : Opd := .raw (code.toNat < 8)

/-- A predicate source: bits [7:5] zero, G clear in a uniform instruction (R91). -/
def predSrc (f : Fields) (code : BitVec 8) : Opd := .raw (code.toNat < 32 && (!f.u || !bit code.toNat 4))

/-- A condition or operation number in C. -/
def codeC (f : Fields) (n : Nat) : Opd := .raw (f.c.toNat < n)

def ints4 : List Ty := [.i32, .n32, .i64, .n64]
def ints6 : List Ty := [.i32, .n32, .i64, .n64, .i8x4, .n8x4]
def raws : List Ty := [.b32, .b64]
def floats5 : List Ty := [.f32, .f16, .bf16, .bf16x2, .f16x2]
def floats3 : List Ty := [.f32, .f16, .bf16]

/-- Type of a TY code (R72). -/
def tyOfCode : Nat → Option Ty
  | 0 => some .i32 | 1 => some .n32 | 2 => some .i64 | 3 => some .n64 | 4 => some .f32 | 5 => some .f16 | 6 => some .bf16
  | 7 => some .bf16x2 | 8 => some .f16x2 | 9 => some .i8x4 | 10 => some .n8x4 | 11 => some .b32 | 12 => some .b64 | _ => none

def Ty.code : Ty → Nat
  | .i32 => 0 | .n32 => 1 | .i64 => 2 | .n64 => 3 | .f32 => 4 | .f16 => 5 | .bf16 => 6 | .bf16x2 => 7 | .f16x2 => 8
  | .i8x4 => 9 | .n8x4 => 10 | .b32 => 11 | .b64 => 12

/-- Target of CVT MOD 00 (R106). -/
def cvtTarget (f : Fields) : Option Ty :=
  match tyOfCode f.ext.num2.toNat with
  | some t => if (ints4 ++ floats3).contains t && t != f.ty then some t else none
  | none => none

/-- OVF legal for an integer or floating type (R60). -/
def ovfOkTy (t : Ty) (ovf : Nat) : Bool := floats3.contains t || ovf == 0 || ovf == 3

/-- Fields of XSUB (R232). -/
def Ext.ord (e : Ext) : Nat := e.xsub.toNat / 32
def Ext.scope (e : Ext) : Nat := e.xsub.toNat / 4 % 8
def Ext.rem (e : Ext) : Bool := bit e.xsub.toNat 1
def Ext.o64 (e : Ext) : Bool := bit e.xsub.toNat 0

/-- Ordering, scope and REM of R232 under R214. -/
def ordOk (e : Ext) (ords : List Nat) : Bool :=
  ords.contains e.ord && (if e.ord == 0 then e.scope == 0 else e.scope ≤ 5) &&
    (!e.rem || ((e.ord == 2 || e.ord == 4) && 3 ≤ e.scope))

/-- NUM2 of R233. -/
def Ext.sz (e : Ext) : Nat := e.num2.toNat % 8
def Ext.sx (e : Ext) : Bool := bit e.num2.toNat 3
def Ext.fe (e : Ext) : Nat := e.num2.toNat / 16 % 4

/-- MOD and NUM1 name a space (R230). -/
def spaceOk (f : Fields) : Bool :=
  (f.mod == 0 && f.ext.num1.toNat < 16) || ((f.mod == 1 || f.mod == 2) && f.ext.num1 == 0)

/-- The A part of an address (R231, R237): in a uniform form an o register too, since the vector form takes a v source there (R16); in LDU, which
has no vector form, and in CAPLD and CAPST an s register or zero. R237 names only those two for a uniform ST; the o register is R16's (log 62). -/
def addrA (f : Fields) (strict : Bool) : Opd :=
  if f.ext.o64 then .src (if f.u then (if strict then [.s, .zero] else [.s, .zero, .o]) else [.v, .s, .zero]) 2
  else .src (if f.u then (if strict then [.s, .zero] else [.s, .zero, .o]) else [.v, .ix, .s, .zero, .tid, .o]) 1

/-- NUM2 of LD, ST, LDU (R233). -/
def num2Ok (f : Fields) (st : Bool) : Bool :=
  let e := f.ext
  e.num2.toNat < 64 && e.sz < 5 && (!e.sx || (!st && e.sz < 2)) &&
    (e.fe == 0 || ((e.fe == 2 || (e.fe == 1 && !st)) && !f.u && f.mod != 0 && e.sz == 4 && e.ord == 0 && !e.o64))

/-- Atomic operations and their types (R244). -/
def aopOk (aop : Nat) (t : Ty) : Bool :=
  if aop < 3 then (Ty.f32 :: ints4).contains t else aop < 8 && raws.contains t

/-- Run length of a fragment by shape and role (R141, R149). -/
def fragRun (shape role : Nat) : Nat :=
  match role, shape with
  | 2, _ => 8
  | 0, 1 => 8 | 0, 2 => 2 | 0, _ => 4
  | 1, 1 => 2 | 1, 2 => 8 | 1, _ => 4
  | _, _ => 1

def fragExtOk (f : Fields) : Bool :=
  let x := f.ext.xsub.toNat
  let shape := x / 32
  let role := x / 4 % 8
  shape < 5 && role < 5 && !bit x 1 && f.ext.num2 == 0 && f.ext.fslotb == 0 && f.ext.ovf == 0 &&
    (if 3 ≤ role then shape == 4 else f.ext.fslot == 0)

/-- Form of a register-fragment multiplication (R137, R143). -/
def fragForm (f : Fields) (na nb : Nat) : Form :=
  { Form.vec f with
    guard := false, holdOk := false, d := .dst [.v] 8, a := .src [.v] na, b := .src [.v] nb, c := .src [.v, .zero] 8 }

/-- Form of a load or store between registers and memory. -/
def memForm (f : Fields) (ords : List Nat) : Form :=
  { Form.plain f with
    modOk := f.mod != 3, a := addrA f true, b := .sZeroImm,
    extOk := extN f (spaceOk f && ordOk f.ext ords && (!f.ext.o64 || f.mod == 0)) }

/-- Form of ABAR (R250). -/
def abarForm (f : Fields) (op : Nat) : Form :=
  let x := f.ext.xsub.toNat
  { Form.uni f with
    modOk := if op == 0 || op == 4 then f.mod == 1 else f.mod == 1 || f.mod == 2
    d := if op == 1 then .sOut else .unused
    a := if op == 2 then .sOnly else .unused
    b := .sImm
    c := if op == 0 then .sImm else .unused
    extOk := extN f (f.ext.num1 == 0 && f.ext.num2 == 0 && x < 64 && (if op == 0 then between 1 4 (x / 8) else x < 8)) }

/-- Form of a capability-array access (R252). -/
def capForm (f : Fields) (ords : List Nat) (lo : Nat) : Form :=
  { Form.uni f with
    a := .sZero, b := .sZeroImm
    extOk := extN f (f.ext.num1.toNat < 16 && between lo 15 f.ext.num2.toNat && ordOk f.ext ords && !f.ext.o64) }

/-- The immediate word of an instruction (R74, R75). -/
def Fields.imm (f : Fields) : Word :=
  match f.tail with
  | .imm32 w => w
  | .extImm _ w => w
  | _ => 0

def Fields.imm64 (f : Fields) : DWord :=
  match f.tail with
  | .imm64 d => d
  | _ => 0

/-- A GROW or SHRINK immediate is a legal allotment (R124). -/
def allotOk (n : Nat) : Bool := n % 8 == 0 && between 8 176 n

/-- Forms of the integer, logic, move and comparison instructions (R95 to R99). -/
def formInt (op : Nat) (f : Fields) : Form :=
  let P := Form.plain f
  let w := regsOf f.ty
  let m := f.mod.toNat
  let three : Form := { P with a := .gen f w, b := .gen f w, d := .out f w }
  match op with
  | 0x001 | 0x002 =>
    { three with tyOk := (if m = 2 then ints4 else ints6).contains f.ty, modOk := m < 3
                 c := if m = 2 then codeC f 7 else .unused }
  | 0x003 => { three with tyOk := ints4.contains f.ty, modOk := m < 2 }
  | 0x004 | 0x006 | 0x007 => { three with tyOk := ints4.contains f.ty }
  | 0x005 =>
    if m = 2 then { P with a := .gen f 1, b := .gen f 1, c := .gen f 2, d := .out f 2, modOk := true, tyOk := [Ty.i32, .n32].contains f.ty }
    else { three with c := .gen f w, tyOk := ints4.contains f.ty, modOk := m < 2 }
  | 0x008 | 0x009 => { three with tyOk := (ints6).contains f.ty }
  | 0x00A | 0x00B => { P with a := .gen f w, d := .out f w, tyOk := [Ty.i32, .i64, .i8x4].contains f.ty, modOk := m < 2 }
  | 0x010 | 0x011 | 0x012 | 0x013 => { three with tyOk := raws.contains f.ty }
  | 0x014 | 0x015 => { three with b := .gen f 1, tyOk := raws.contains f.ty }
  | 0x016 => { three with b := .gen f 1, tyOk := [Ty.i32, .i64].contains f.ty }
  | 0x017 => { three with b := .gen f 1, c := .gen f 1, tyOk := raws.contains f.ty, modOk := m < 2 }
  | 0x018 => { three with b := .gen f 1, c := .gen f 1, tyOk := raws.contains f.ty }
  | 0x019 | 0x01A | 0x01B => { P with a := .gen f w, d := .out f 1, tyOk := raws.contains f.ty }
  | 0x01C => { P with a := .gen f w, d := .out f w, tyOk := raws.contains f.ty }
  | 0x020 => { three with c := predSrc f f.c, tyOk := true }
  | 0x021 => { P with a := .gen f w, d := .out f w, tyOk := true }
  | 0x022 =>
    { P with a := .src [.imm] 1, d := .out f w,
             tyOk := match f.tail with | .imm64 _ => [Ty.i64, .n64, .b64].contains f.ty | _ => true }
  | _ => { P with a := .gen f w, b := .gen f w, d := predDst f.d, c := codeC f (if raws.contains f.ty then 2 else 6)
                  tyOk := (ints4 ++ raws).contains f.ty }

/-- Forms of the floating-point and conversion instructions (R100 to R110). -/
def formFloat (op : Nat) (f : Fields) : Form :=
  let P := Form.plain f
  let m := f.mod.toNat
  let e := f.ext
  let two : Form := { P with a := .gen f 1, b := .gen f 1, d := .out f 1, tyOk := floats5.contains f.ty }
  match op with
  | 0x080 | 0x081 | 0x082 => { two with rnd := true }
  | 0x083 => { two with rnd := true, c := .gen f 1 }
  | 0x084 | 0x085 => two
  | 0x086 => { two with tyOk := floats3.contains f.ty, d := predDst f.d, c := codeC f 8 }
  | 0x087 => { P with a := .gen f 1, d := .out f 1, tyOk := floats3.contains f.ty }
  | 0x088 => { two with c := .gen f 1, rnd := true, tyOk := [Ty.bf16x2, .f16x2].contains f.ty }
  | 0x090 | 0x091 | 0x093 | 0x094 | 0x095 | 0x096 => { P with a := .gen f 1, d := .out f 1, tyOk := f.ty == .f32 }
  | 0x092 => { P with a := .gen f 1, d := .out f 1, tyOk := f.ty == .f32, rnd := true }
  | 0x0A0 =>
    if m = 0 then
      { P with a := .gen f (regsOf f.ty), d := .out f (match cvtTarget f with | some t => regsOf t | none => 1), rnd := true
               tyOk := (ints4 ++ floats3).contains f.ty
               extOk := e.num1 == 0 && e.fslot == 0 && e.fslotb == 0 && e.xsub == 0 &&
                 (match cvtTarget f with | some t => ovfOkTy t e.ovf.toNat | none => false) }
    else if m = 1 then
      -- C names D where the two fields are equal, 0xF3 among them (log 47)
      { P with a := .gen f 1, c := .gen f 1, d := .out f 1, rnd := true, modOk := f.c == f.d, tyOk := floats3.contains f.ty
               extOk := e.num1 == 0 && e.num2 == 0 && e.fslotb == 0 && e.xsub.toNat < 8 }
    else
      { P with a := .gen f 1, d := .out f 1, rnd := true, modOk := m == 2, tyOk := floats3.contains f.ty
               extOk := e.num1 == 0 && e.num2 == 0 && e.fslotb == 0 && e.ovf == 0 && e.xsub.toNat < 8 }
  | 0x0A1 =>
    if m = 0 then
      { two with rnd := true, tyOk := f.ty == .f32
                 extOk := e.num1 == 0 && (e.num2 == 7 || e.num2 == 8) && e.fslot == 0 && e.fslotb == 0 && e.xsub == 0 }
    else
      -- as above (log 47)
      { two with c := .gen f 1, rnd := true, modOk := m == 1 && f.c == f.d, tyOk := floats3.contains f.ty
                 extOk := e.num1 == 0 && e.num2 == 0 && e.fslotb == 0 && e.xsub.toNat < 4 }
  | 0x0A3 =>
    { two with c := .gen f 1, rnd := true, tyOk := f.ty == .f32
               extOk := e.num1 == 0 && e.num2 == 0 && e.fslotb == 0 && e.ovf == 0 && e.xsub.toNat < 8 }
  | _ =>
    { P with a := .gen f 1, b := .sZeroImm, d := .out f 1, rnd := op == 0x0A2, tyOk := floats3.contains f.ty
             extOk := e.num1 == 0 && e.num2 == 0 && e.fslotb == 0 && e.xsub == 0 }

/-- Types of a REDUX or SCAN operation (R119). -/
def reduxTyOk (f : Fields) : Bool := if f.c.toNat < 3 then (ints4 ++ [Ty.f32]).contains f.ty else raws.contains f.ty

/-- Forms of the predicate, lane and index instructions (R111 to R123). -/
def formLane (op : Nat) (f : Fields) : Form :=
  let P := Form.plain f
  let V := Form.vec f
  let w := regsOf f.ty
  let m := f.mod.toNat
  match op with
  | 0x100 => { P with a := .gen f w, b := .gen f w, d := predDst f.d, tyOk := raws.contains f.ty }
  | 0x101 => { P with d := predDst f.d, a := predSrc f f.a, b := predSrc f f.b, c := predSrc f f.c, modOk := m < 3 }
  | 0x102 =>
    { P with tyOk := f.ty == .b32, modOk := m < 2, a := if m = 1 then .gen f 1 else .unused, d := if m = 0 then .out f 1 else .unused }
  | 0x103 =>
    { V with a := predSrc f f.a, modOk := m < 3, d := if m = 2 then .sOut else predDst f.d
             tyOk := f.ty == (if m = 2 then .b32 else .i32) }
  | 0x110 => { V with a := .gen f w, b := .src [.v, .s, .imm] w, d := .out f w, tyOk := raws.contains f.ty, modOk := true }
  | 0x111 => { V with a := .gen f w, d := .out f w, tyOk := raws.contains f.ty }
  | 0x112 => { V with a := .gen f w, b := .sImm, d := .dst [.v, .ix, .s, .zero] w, tyOk := raws.contains f.ty }
  | 0x113 =>
    { V with a := .gen f w, c := codeC f 6, d := .dst [.v, .ix, .s, .zero] w, rnd := f.c == 0 && f.ty == .f32, tyOk := reduxTyOk f }
  | 0x114 => { V with a := .gen f w, c := codeC f 6, d := .out f w, rnd := f.c == 0 && f.ty == .f32, tyOk := reduxTyOk f, modOk := m < 2 }
  | 0x115 => { V with a := .gen f w, d := .out f 1, tyOk := raws.contains f.ty }
  | 0x120 => { V with a := .gen f 1, d := .raw (f.d.toNat < 8), tyOk := f.ty == .b32 }
  | 0x121 => { V with a := .raw (f.a.toNat < 8), d := .out f 1, tyOk := f.ty == .b32 }
  | 0x122 => { Form.uni f with d := .raw (f.d.toNat < 8), a := .sImm, b := .sImm }
  | 0x130 | 0x131 => { Form.uni f with a := .sImm, modOk := m == 0 && (f.a.toNat != 0xFF || allotOk f.imm.toNat) }
  | _ => { Form.uni f with d := .sOut }

/-- System registers (R136). -/
def sysRegs : List Nat := [0, 1, 2, 3, 4, 5, 6, 7, 0x10, 0x11]

/-- Forms of the control, mode and system instructions (R126 to R136). -/
def formCtl (op : Nat) (f : Fields) : Form :=
  let P := Form.plain f
  let U := Form.uni f
  let m := f.mod.toNat
  let bare : Form := { Form.vec f with guard := false }
  match op with
  | 0x140 =>
    { P with b := .raw true, c := .raw true, modOk := m == 0 && (!f.u || (f.b == 0 && f.c == 0)), extOk := extN f true }
  | 0x141 => { U with d := .sOut, extOk := extN f true }
  | 0x142 | 0x144 => { U with a := .sOnly }
  | 0x143 | 0x147 | 0x148 => bare
  | 0x149 => { bare with immFree := true, modOk := m == 0 && f.imm.toNat % 32 == 0 }
  -- R132 names an s register or the immediate for the uniform form, R16 an o register too (log 62)
  | 0x14A => { P with a := if f.u then .src [.s, .o, .imm] 1 else .gen f 1 }
  | 0x160 => { U with a := .sImm, modOk := m < 3 }
  | 0x161 => { U with d := .sOut }
  | 0x162 => { U with d := .sOut, extOk := extN f (sysRegs.contains f.ext.num1.toNat && f.ext.num2 == 0 && f.ext.xsub == 0) }
  | 0x163 =>
    { U with a := .sOnly, extOk := extN f ((f.ext.num1 == 0x10 || f.ext.num1 == 0x11) && f.ext.num2 == 0 && f.ext.xsub == 0) }
  | _ => P

/-- Forms of the fragment and tile instructions (R137 to R149, R282 to R285). -/
def formTile (op : Nat) (f : Fields) : Form :=
  let U := Form.uni f
  let m := f.mod.toNat
  let e := f.ext
  let slots (ok : Bool) : Bool := e.ovf == 0 && ok
  let frag : Form :=
    { Form.vec f with
      guard := false, holdOk := false, a := .sOnly, b := .sZeroImm, extOk := fragExtOk f }
  let run := fragRun (e.xsub.toNat / 32) (e.xsub.toNat / 4 % 8)
  match op with
  | 0x180 => { fragForm f 4 4 with tyOk := [Ty.bf16, .f16].contains f.ty }
  | 0x181 => { fragForm f 8 2 with tyOk := [Ty.bf16, .f16].contains f.ty }
  | 0x182 => { fragForm f 2 8 with tyOk := [Ty.bf16, .f16].contains f.ty }
  | 0x183 => { fragForm f 4 4 with extOk := slots (e.num1 == 0 && e.num2 == 0 && e.xsub == 0) }
  | 0x184 => { fragForm f 4 4 with modOk := m < 2, extOk := slots (e.num1 == 0 && e.num2 == 0 && e.xsub == 0) }
  | 0x185 =>
    { fragForm f 4 4 with
      extOk := slots (e.num1.toNat < 0xB0 && e.num2.toNat < 0xB0 && (e.xsub == 0 || kindOf e.xsub == .s)) }
  | 0x188 => { frag with d := .dst [.v] run }
  | 0x189 => { frag with c := .src [.v] run }
  | 0x18A =>
    { Form.vec f with
      guard := false, holdOk := false, a := .src [.v] 8, d := .dst [.v] (if m = 2 then 8 else 4), rnd := m != 2 && f.rnd != .rsr
      modOk := m < 3, tyOk := if m = 2 then f.ty == .b32 else [Ty.bf16, .f16].contains f.ty }
  | 0x1A0 | 0x1A2 | 0x1A5 => { U with a := .s8 }
  | 0x1A1 =>
    { U with len96 := true, d := if e.xsub == 0 then predDst f.d else .unused, a := if e.xsub == 0 then .sOnly else .unused
             extOk := extN f (e.num1 == 0 && e.num2 == 0 && e.xsub.toNat < 2) }
  | 0x1A3 =>
    { Form.vec f with
      guard := false, holdOk := false, len96 := true, d := .dst [.v] 8, a := .sOnly
      extOk := extN f (e.num1.toNat < 4 && e.num2 == 0 && e.xsub == 0) }
  | 0x1A4 =>
    { Form.vec f with
      guard := false, holdOk := false, len96 := true, c := .src [.v] 8, a := .sOnly
      extOk := extN f (e.num1.toNat < 4 && e.num2 == 0 && e.xsub == 0) }
  | 0x1A6 => { U with d := .sOut }
  | _ => { U with modOk := m < 2 }

/-- Forms of the memory, capability and synchronisation instructions (R230 to R261). -/
def formMem (op : Nat) (f : Fields) : Form :=
  let U := Form.uni f
  let m := f.mod.toNat
  let e := f.ext
  let x := e.xsub.toNat
  let w := regsOf f.ty
  let run := (2 ^ e.sz + 3) / 4
  let aop := e.num2.toNat % 16
  let rmw (st : Bool) : Form :=
    let M := memForm f (if st then [1, 3] else [1, 2, 3, 4])
    { M with
      a := addrA f false, d := if st then .unused else .out f w
      tyOk := aopOk aop f.ty && e.num2.toNat < 16 && (!st || aop < 6)
      -- an o register in a uniform .cas gives the compare value and then the swap value (R16, R245; log 62)
      c := if aop = 7 then
             (if f.u then (if kindOf f.c == .o then .src [.o] (2 * w) else if w = 2 then .s2 else .sOnly) else .src [.v] (2 * w))
           else .gen f w }
  let ld := memForm f [0, 1, 2]
  let handle (ok : Bool) : Bool := extN f (e.num2 == 0 && ok)
  match op with
  | 0x1C0 => { ld with u := some false, d := .dst [.v, .ix, .zero] run, extOk := ld.extOk && num2Ok f false }
  | 0x1C1 =>
    let st := memForm f [0, 1, 3]
    { st with a := addrA f false, c := if f.u then .src [.s, .o, .imm] run else if e.sz = 4 then .src [.v, .ix] 4 else .gen f run
              extOk := st.extOk && num2Ok f true && (!f.u || e.sz < 4) }
  | 0x1C4 => { ld with u := some true, d := .sOut, extOk := ld.extOk && num2Ok f false && e.sz < 4 && e.fe == 0 }
  | 0x1C2 =>
    { Form.vec f with
      a := .src [.v, .s, .zero] 2, b := .sZeroImm, d := .dst [.v, .ix, .zero] 1
      extOk := extN f ((e.num2 == 0 || e.num2 == 8) && ordOk e [0, 1, 2] && !e.o64) }
  | 0x1C3 =>
    { Form.vec f with
      a := .src [.v, .s, .zero] 2, b := .sZeroImm, c := .gen f 1, extOk := extN f (e.num2 == 0 && ordOk e [0, 1, 3] && !e.o64) }
  | 0x1C5 => rmw false
  | 0x1C6 => rmw true
  | 0x1C7 =>
    { Form.vec f with guard := false, extOk := extN f (e.num1 == 0 && e.num2 == 0 && ordOk e [2, 3, 4, 5] && !e.o64) }
  | 0x1C8 =>
    { U with d := if x = 1 then .sOut else .unused, a := if x = 2 then .sOnly else .unused
             extOk := extN f (e.num1 == 0 && e.num2 == 0 && x < 3) }
  | 0x1C9 => abarForm f (x % 8)
  | 0x1CA => { U with extOk := extN f (e.num2.toNat < 5 && x == 0) }
  | 0x1CB => capForm f [0, 1, 2] 1
  | 0x1CC => capForm f [0, 1, 3] 0
  | 0x1CD =>
    { U with a := .sImm, b := .sImm, c := .sImm, extOk := extN f (e.num1.toNat < 16 && between 1 15 e.num2.toNat && x == 0) }
  | 0x1CE => { U with d := .sOut, extOk := extN f (e.num1.toNat < 16 && e.num2 == 0 && x < 4) }
  | 0x1CF => { U with a := .s8, extOk := extN f (e.num1.toNat < 16 && e.num2 == 0 && x == 0) }
  | 0x1D0 => { U with d := if x = 2 then .sOut else .unused, extOk := extN f (e.num1.toNat < 16 && e.num2 == 0 && x < 4) }
  | 0x1D1 => { U with a := .s8 }
  | 0x1D2 => { U with a := if x = 0 then .sImm else .unused, extOk := handle (x < 2) }
  | 0x1D3 => { U with extOk := handle (x < 2) }
  | 0x1D4 => { U with extOk := handle (x < 4) }
  | 0x1D5 => { U with d := .sOut, extOk := handle (x == 0) }
  | 0x1D6 =>
    { Form.plain f with
      modOk := m < 3, a := addrA f false, b := .sZeroImm
      extOk := extN f (spaceOk f && e.num2.toNat < 5 && x < 8 && !bit x 1 && (!e.o64 || m == 0)) }
  | 0x1D7 =>
    { U with d := predDst f.d, a := .sZero, b := .sZeroImm
             extOk := extN f (e.num1.toNat < 16 && e.num2 == 0 && (x == 12 || x == 16)) }
  | _ => { U with a := .sZero, b := .sZeroImm, extOk := extN f (e.num1.toNat < 16 && e.num2 == 0 && (x == 12 || x == 16)) }

/-- Forms of the task, pedigree and reducer instructions (R289 to R310). -/
def formTask (op : Nat) (f : Fields) : Form :=
  let B := Form.bare f
  let m := f.mod.toNat
  let e := f.ext
  let w := regsOf f.ty
  match op with
  | 0x1E0 =>
    { B with a := .sZero, b := .sZeroImm, c := .raw (between 1 22 (f.c.toNat % 32) && f.c.toNat / 32 ≤ 5), extOk := extN f true }
  | 0x1E1 | 0x1E2 => B
  | 0x1E3 => { B with d := .sOut, a := if m = 2 then .sImm else .unused, modOk := true }
  | 0x1E4 => { B with u := none, a := .gen f 1, b := .gen f 1, d := .out f 1, tyOk := f.ty == .b32 }
  | 0x1E5 =>
    { B with u := none, modOk := m < 2, tyOk := f.ty == .n64, d := .dst (if f.u then [.s, .zero] else [.v, .zero]) 2
             a := .src (if f.u then [.s, .o, .imm, .zero] else [.v, .s, .imm, .zero]) 2 }
  | 0x1E6 => { B with d := .raw (between 3 15 f.d.toNat), a := .sImm, c := predDst f.c, modOk := m < 3 }
  | 0x1E7 => { B with d := .raw (between 3 15 f.d.toNat) }
  | 0x1E8 => { B with a := .sZeroImm, extOk := extN f (e.xsub == 0) }
  | 0x1E9 => { B with d := .sOut, extOk := extN f (e.num1.toNat < 16 && e.num2 == 0 && e.xsub == 0) }
  | 0x1EA => { B with d := .sOut, b := .sZeroImm, extOk := extN f (e.num1.toNat < 16 && e.num2 == 0 && e.xsub.toNat < 5) }
  | 0x1EB =>
    { B with u := none, a := .gen f w, b := .src (if f.u then [.s, .o, .zero, .imm] else [.v, .s, .zero, .imm]) 1, c := .gen f 1
             tyOk := [Ty.f32, .bf16, .f16, .i32, .n32, .b64].contains f.ty
             extOk := extN f (e.num1.toNat < 16 && e.num2 == 0 && e.xsub == 0) }
  | _ =>
    { B with u := none, a := .gen f 2, tyOk := f.ty == .b64, extOk := extN f (e.num1.toNat < 16 && e.num2 == 0 && e.xsub == 0) }

/-- Forms of the collective, meeting, launch, mark and context instructions (R331, R332, R354, R373, R384, R393, R427). -/
def formSys (op : Nat) (f : Fields) : Form :=
  let B := Form.bare f
  let U := Form.uni f
  let m := f.mod.toNat
  let e := f.ext
  let ks (n2 : Bool) : Bool := extN f (e.num1.toNat < 16 && n2 && e.xsub == 0)
  match op with
  | 0x1F0 => { B with len96 := true, a := .s8 }
  | 0x1F1 => { B with d := .sOut, a := .sImm }
  | 0x1F2 => { B with a := .s8 }
  | 0x1F3 => { B with d := .sOut, a := .sOnly, b := .sImm, c := .sImm, extOk := ks (e.num2.toNat < 16) }
  | 0x1F4 => { B with d := .sOut, a := .sOnly, b := .sOnly, c := .sImm, modOk := m < 2, extOk := ks (e.num2.toNat < 16) }
  | 0x1F5 => { B with d := .sOut, a := .sImm, extOk := ks (e.num2 == 0) }
  | 0x1F6 => { U with len96 := true, d := .sOut, a := .s8, extOk := ks (e.num2 == 0) }
  | 0x1F7 => { U with a := .sImm, modOk := m < 3, tyOk := f.ty == .n64 }
  | 0x1F8 => { B with a := .sZeroImm, b := .sImm, tyOk := f.ty == .b64 }
  | _ =>
    { B with d := .sOut, a := .sOnly, b := .sZero, c := .sZero
             extOk := extN f (e.num1 == 0 && e.num2 == 0 && e.xsub.toNat < 8) }

/-- The form of a major opcode with these fields. -/
def form (op : Nat) (f : Fields) : Form :=
  if op < 0x080 then formInt op f
  else if op < 0x100 then formFloat op f
  else if op < 0x140 then formLane op f
  else if op < 0x180 then formCtl op f
  else if op < 0x1C0 then formTile op f
  else if op < 0x1E0 then formMem op f
  else if op < 0x1F0 then formTask op f
  else formSys op f

/-- The length is one the opcode permits, with the words R75 gives it. -/
def tailOk (op : Nat) (t : Tail) : Bool :=
  match lenClass op, t with
  | some .a, .none => true
  | some .a, .imm32 _ => true
  | some .b, .none => true
  | some .c, .ext _ => true
  | some .d, .extImm _ _ => true
  | some .e, .ext _ => op != 0x022
  | some .e, .extImm _ _ => op != 0x022
  | some .e, .imm32 _ => op == 0x022
  | some .e, .imm64 _ => op == 0x022
  | some .f, .none => true
  | some .f, .imm32 _ => true
  | some .f, .extImm _ _ => true
  | _, _ => false

/-- Sources that hold 0xFF. -/
def immCount (g : Form) (f : Fields) : Nat :=
  let one (o : Opd) (c : BitVec 8) : Nat := if o.isSrc && c == 0xFF then 1 else 0
  one g.a f.a + one g.b f.b + one g.c f.c

/-- The immediate word is there exactly where it is read, and zero where nothing reads it (R71, R74). -/
def immOk (g : Form) (f : Fields) : Bool :=
  let n := immCount g f
  match f.tail with
  | .none => n == 0
  | .ext _ => n == 0
  | .imm32 w => n == 1 || (n == 0 && w == 0)
  | .extImm _ w => n == 1 || (n == 0 && (g.immFree || w == 0))
  | .imm64 _ => n == 1

/-- The held source (R26): none, A, B or C. A source of four registers is held by none: R26 gives entries to one register or a pair
only (log 46). -/
def holdOk (g : Form) (f : Fields) : Bool :=
  let one (o : Opd) (c : BitVec 8) : Bool :=
    match o with
    | .src _ w => kindOf c == .v && (w == 1 || (w == 2 && f.he != 2))
    | _ => false
  f.he != 3 &&
    (match f.hold.toNat with
     | 0 => f.he == 0
     | 1 => g.holdOk && !f.u && one g.a f.a
     | 2 => g.holdOk && !f.u && one g.b f.b
     | _ => g.holdOk && !f.u && one g.c f.c)

/-- FEX only on v, indexed and s sources (R71). -/
def fexOk (g : Form) (f : Fields) : Bool :=
  let one (o : Opd) (c : BitVec 8) : Bool := o.isSrc && [Kind.v, .ix, .s].contains (kindOf c)
  let n := f.fex.toNat
  n == 0 || (g.fexOk && (!bit n 0 || one g.a f.a) && (!bit n 1 || one g.b f.b) && (!bit n 2 || one g.c f.c))

/-- Why a word is no instruction: the fields of checks 4 and 5 of R77. -/
inductive Reject where
  | length | guard | uniform | mod | type | rounding | operand | immediate | hold | fex | extension
  deriving DecidableEq, Repr

/-- The first field of an instruction that breaks a rule; none for a legal one. -/
def illegalField (op : Nat) (f : Fields) : Option Reject :=
  let g := form op f
  if !tailOk op f.tail || (g.len96 && f.len != 12) then some .length
  else if (f.gneg && f.gnum == 7) || (!g.guard && (f.gneg || f.gnum != 7)) then some .guard
  else if g.u == some (!f.u) then some .uniform
  else if !g.modOk then some .mod
  else if !g.tyOk then some .type
  else if !g.rnd && f.rnd != .dyn then some .rounding
  else if !(g.d.ok f.d && g.a.ok f.a && g.b.ok f.b && g.c.ok f.c) then some .operand
  else if !immOk g f then some .immediate
  else if !holdOk g f then some .hold
  else if !fexOk g f then some .fex
  else if !g.extOk then some .extension
  else none

/-- A first word that is no instruction: LEN 11, or an unassigned opcode (R66, R80). -/
def unassigned (w0 : Word) : Bool := w0.toNat % 4 == 3 || (lenClass (w0.toNat / 4 % 512)).isNone

end Sys2Proof
end

