-- ==== Sys2Proof/Config.lean ====
section
/-! DEFINITION. What an implementation fixes, and the free values: constants without a body, so that no proof can see them
(the assumption log names each). -/

namespace Sys2Proof.Config

/-- The modulus of pedigree keys, `2^61 - 1` (R171). -/
def p : Nat := 2 ^ 61 - 1

/-- HBM bytes of one stack; twelve stacks make 576 GiB (R3, R442). -/
def stackBytes : Nat := 48 * 2 ^ 30

/-- Which of `n` enabled steps comes next (log 3). -/
opaque choose : Nat → Nat → Nat

/-- Core cycles that a step takes beyond the first (log 7). -/
opaque stall : Nat → Nat

/-- Die whose lock table holds a line of an object (R260; log 23). -/
opaque homeDie : Nat → Nat → Nat

/-- Whether an access to a page uses a cached translation where one stands (R339; log 12). -/
opaque useCached : Nat → Nat → Bool

/-- Candidate results of the transcendental instructions, kept within the bounds of R104 (log 8). -/
opaque frcp : Word → Word
opaque frsq : Word → Word
opaque fexp2 : Word → Word
opaque flog2 : Word → Word
opaque fsinpi : Word → Word
opaque fcospi : Word → Word

/-- Bytes that a peer device's memory returns (log 9). -/
opaque peerByte : Nat → Nat → Nat → Byte

/-- Whether a byte that a peer device's memory returns is poisoned (R435; log 9). -/
opaque peerPoison : Nat → Nat → Nat → Bool

/-- Payload of a quay flit, whose form is not stated (R359; log 58). -/
opaque payload : Nat → Nat → BitVec 448

/-- Priority of a queue pair's traffic on its host port, and whether a pause has run out (R363; log 58). -/
opaque hostPrio : Nat → Nat
opaque pauseOver : Nat → Nat → Bool

/-- Bytes that a host returns to an RDMA READ of the copy engine (log 9). -/
opaque hostByte : Nat → Nat → Byte

/-- Whether the steal and sample draws of the device pick this candidate (log 3). -/
opaque draw : Nat → Nat

/-- A value drawn by the Harbourmaster: nonces, keys and capsule-read values (log 10). -/
opaque random : Nat → BitVec 256

/-- Byte `n` of the HSS signature of a message with a leaf of the device identity key (R451; log 10). -/
opaque hssByte : Nat → List Byte → Nat → Byte

/-- HSS verification of what a vendor key signed: 0 an image, 1 an unlock token, 2 a RETURN token, 3 a DECOMMISSION token (R450, R452, R455;
log 10). -/
opaque hssVerify : Nat → List Byte → List Byte → Bool

/-- The device's key-exchange key (0), its signature (1) and the vendor's certificate (2) (R448; log 10). -/
opaque kemKey : Nat → List Byte

/-- Wrapping a communicator key for an encapsulation key, and unwrapping a ciphertext and a wrapped key, bound to a communicator's name
and generation (R448; log 10). -/
opaque kemWrap : List Byte → BitVec 256 → List Byte → List Byte
opaque kemUnwrap : List Byte → List Byte → List Byte → Option (BitVec 256)

/-- AES-256-GCM of a communicator's payload under its key (R367; log 10). -/
opaque aesGcm : BitVec 256 → List Byte → List Byte

/-- The vendor's certificate verifies; the signature of a key verifies under the certified key (R448; log 10). -/
opaque certOk : List Byte → Bool
opaque keyOk : List Byte → List Byte → List Byte → Bool

/-- The Harbourmaster and Stevedore images in flash at the first reset (R450; log 10). -/
opaque hmImage : List Byte
opaque stImage : List Byte

/-- The device identifier fuses (R451; log 5). -/
opaque devid : DWord

/-- Which of the lines with shadow words L2 evicts between two steps, by its place among them; none where there is no such line (log 54). -/
opaque evict : Nat → Nat

/-- Sensor and timing draws of a sample record (R429; log 7). -/
opaque latency : Nat → BitVec 64

/-- Latency level an access reached (R429; log 7). -/
opaque level : Nat → Nat

end Sys2Proof.Config
end

