-- ==== Sys2Proof/Machine/Cells.lean ====
section
/-! DEFINITION. Sparse maps with a default value, in one canonical form: keys strictly rising, no entry equal to the
default. Memory, register files and the device's tables are held this way. -/

namespace Sys2Proof.Machine

/-- A sparse map from numbers; a key that is not listed holds the default. -/
abbrev Cells (α : Type) := List (Nat × α)

/-- The value at a key. -/
def Cells.get {α : Type} (dflt : α) : Cells α → Nat → α
  | [], _ => dflt
  | (j, v) :: m, k => if k = j then v else Cells.get dflt m k

/-- Put an entry at a key, whatever its value. -/
def Cells.put {α : Type} : Cells α → Nat → α → Cells α
  | [], k, v => [(k, v)]
  | (j, w) :: m, k, v =>
    if k = j then (k, v) :: m else if k < j then (k, v) :: (j, w) :: m else (j, w) :: Cells.put m k v

/-- Remove the entry at a key. -/
def Cells.del {α : Type} (m : Cells α) (k : Nat) : Cells α := m.filter (fun e => e.1 != k)

/-- Write a value; writing the default removes the entry, so that equal maps are equal data. -/
def Cells.set {α : Type} [DecidableEq α] (dflt : α) (m : Cells α) (k : Nat) (v : α) : Cells α :=
  if v = dflt then Cells.del m k else Cells.put m k v

/-- Write several entries, the later ones last. -/
def Cells.setAll {α : Type} [DecidableEq α] (dflt : α) (m : Cells α) : List (Nat × α) → Cells α
  | [] => m
  | (k, v) :: l => Cells.setAll dflt (Cells.set dflt m k v) l

/-- Keep the entries below a bound. -/
def Cells.below {α : Type} (m : Cells α) (n : Nat) : Cells α := m.filter (fun e => e.1 < n)

/-- Every listed key is above `b`, keys rise strictly and no entry is the default. -/
def Cells.okFrom {α : Type} [DecidableEq α] (dflt : α) : Option Nat → Cells α → Bool
  | _, [] => true
  | b, (k, v) :: m => (match b with | none => true | some b => b < k) && (v != dflt) && Cells.okFrom dflt (some k) m

/-- The canonical form. -/
def Cells.wf {α : Type} [DecidableEq α] (dflt : α) (m : Cells α) : Bool := Cells.okFrom dflt none m

/-- A value where a condition holds. -/
def guardSome {α : Type} (b : Bool) (x : Option α) : Option α := if b then x else none

end Sys2Proof.Machine
end

