-- ==== Sys2Proof/Machine/Num.lean ====
section
/-! DEFINITION. Number formats, exact values, rounding and exact accumulators (R36 to R65). -/

namespace Sys2Proof.Machine

/-- A floating value: NaN with its sign and 23-bit left-aligned payload, an infinity, or `(-1)^s * m * 2^e`. -/
inductive FV where
  | nan (s : Bool) (frac : Nat)
  | inf (s : Bool)
  | fin (s : Bool) (m : Nat) (e : Int)
  deriving DecidableEq, Repr

/-- A binary format (R39, R40): width, fraction bits, exponent of the least quantum, code of the largest finite magnitude,
infinity and NaN codes; N4 keeps the hidden one at exponent 0 and has no -0. -/
structure Fmt where
  w : Nat
  mb : Nat
  qmin : Int
  maxCode : Nat
  inf : Option Nat
  nan : Option Nat
  n4 : Bool
  deriving DecidableEq, Repr

def fp32 : Fmt := ⟨32, 23, -149, 0x7F7FFFFF, some 0x7F800000, some 0x7FC00000, false⟩
def fp16 : Fmt := ⟨16, 10, -24, 0x7BFF, some 0x7C00, some 0x7E00, false⟩
def bf16 : Fmt := ⟨16, 7, -133, 0x7F7F, some 0x7F80, some 0x7FC0, false⟩
def e5m2 : Fmt := ⟨8, 2, -16, 0x7B, some 0x7C, some 0x7F, false⟩
def e4m3 : Fmt := ⟨8, 3, -9, 0x7E, none, some 0x7F, false⟩
def e2m1 : Fmt := ⟨4, 1, -1, 7, none, none, false⟩
def n4 : Fmt := ⟨4, 1, -1, 7, none, none, true⟩

def Fmt.sign (f : Fmt) : Nat := 2 ^ (f.w - 1)

/-- The value of a code of a format (R39, R40). -/
def Fmt.decode (f : Fmt) (x : Nat) : FV :=
  let s := bit x (f.w - 1)
  let c := x % f.sign
  let fr := c % 2 ^ f.mb
  let ex := c / 2 ^ f.mb
  if f.n4 then
    if c = 0 then (if s then .fin true 1 (-1) else .fin false 0 0)
    else .fin s (2 + fr) ((ex : Int) - 2)
  else if f.inf = some c then .inf s
  else if f.nan.isSome && f.maxCode < c then .nan s (fr * 2 ^ (23 - f.mb))
  else if ex = 0 then .fin s fr f.qmin
  else .fin s (2 ^ f.mb + fr) (f.qmin + ex - 1)

/-- An exact magnitude `n / d * 2^e` with `d > 0`. -/
structure Mag where
  n : Nat
  d : Nat
  e : Int
  deriving DecidableEq, Repr

/-- Exponent of the leading bit of a non-zero magnitude. -/
def Mag.top (x : Mag) : Int :=
  let l : Int := (Nat.log2 x.n : Int) - Nat.log2 x.d
  let l := if 0 ≤ l then (if x.n < x.d * 2 ^ l.toNat then l - 1 else l)
    else (if x.n * 2 ^ (-l).toNat < x.d then l - 1 else l)
  l + x.e

/-- The magnitude in units of `2^q`: whole part, remainder and unit of the remainder. -/
def Mag.split (x : Mag) (q : Int) : Nat × Nat × Nat :=
  let k := x.e - q
  let n := if 0 ≤ k then x.n * 2 ^ k.toNat else x.n
  let d := if 0 ≤ k then x.d else x.d * 2 ^ (-k).toNat
  (n / d, n % d, d)

/-- Whether rounding takes the neighbour of larger magnitude (R52, R53), where `rem / unit` is the place of an inexact
magnitude between its neighbours, `odd` is bit 0 of the smaller neighbour's code and `tie0` says that both codes have it clear. -/
def roundUp (r : Rnd) (w : Nat) (s odd tie0 : Bool) (rem unit : Nat) : Bool :=
  if rem = 0 then false else
  match r with
  | .dyn | .rne => if 2 * rem = unit then odd && !tie0 else unit < 2 * rem
  | .rtz => false
  | .rdn => s
  | .rup => !s
  | .rna => unit ≤ 2 * rem
  | .rsr => if s then !(w < (unit - rem) * 2 ^ 32 / unit) else w < rem * 2 ^ 32 / unit

/-- Attach the sign to a magnitude code; N4 has one zero (R40). -/
def Fmt.withSign (f : Fmt) (s : Bool) (c : Nat) : Nat :=
  if f.n4 && c == 0 then 0 else if s then f.sign + c else c

/-- The code of a rounded value, and whether the rounding, with the exponent unbounded above, exceeds the largest finite
magnitude (R52, R59, R61). -/
def Fmt.roundRaw (f : Fmt) (r : Rnd) (w : Nat) (s : Bool) (x : Mag) : Nat × Bool :=
  if x.n = 0 then (f.withSign s 0, false) else
  if f.n4 && x.top < 0 then
    -- below 1 the N4 values are not evenly spaced (R61): magnitudes in quarters, then their codes
    let q := x.split (-2)
    let lo := if s then (if q.1 < 2 then 0 else if q.1 < 3 then 2 else 3) else (if q.1 < 3 then 0 else 3)
    let hi := if lo = 3 then 4 else if lo = 2 then 3 else if s then 2 else 3
    let rem := q.1 * q.2.2 + q.2.1 - lo * q.2.2
    let unit := (hi - lo) * q.2.2
    let pick := if roundUp r w s (lo == 3) (s && lo == 0) rem unit then hi else lo
    (if pick = 0 then 0 else if pick = 2 then 8 else f.withSign s (if pick = 3 then 1 else 2), false)
  else
    let q := if x.top - f.mb < f.qmin then f.qmin else x.top - f.mb
    let p := x.split q
    let m := if roundUp r w s (p.1 % 2 == 1) false p.2.1 p.2.2 then p.1 + 1 else p.1
    let c := (q - f.qmin).toNat * 2 ^ f.mb + m
    (f.withSign s c, f.maxCode < c)

/-- The canonical NaN of a format; formats without one give 0. -/
def Fmt.cnan (f : Fmt) : Nat := f.nan.getD 0

/-- Infinity of a sign; formats without one give the largest finite value. -/
def Fmt.infCode (f : Fmt) (s : Bool) : Nat := f.withSign s (f.inf.getD f.maxCode)

/-- Round an arithmetic result; overflow by R54. -/
def Fmt.round (f : Fmt) (r : Rnd) (w : Nat) (s : Bool) (x : Mag) : Nat :=
  let c := f.roundRaw r w s x
  if c.2 then
    match r with
    | .rtz => f.withSign s f.maxCode
    | .rdn => if s then f.infCode s else f.withSign s f.maxCode
    | .rup => if s then f.withSign s f.maxCode else f.infCode s
    | _ => f.infCode s
  else c.1

/-- Payload of a NaN carried into a format (R58). -/
def Fmt.payload (f : Fmt) (s : Bool) (frac : Nat) : Nat :=
  match f.inf with
  | some i => f.withSign s (i + Nat.lor (frac / 2 ^ (23 - f.mb)) (2 ^ (f.mb - 1)))
  | none => f.withSign s f.cnan

/-- Multiply by a power of two without rounding. -/
def shl (n : Int) (k : Int) : Int := n * 2 ^ k.toNat

/-- An exact dyadic number `n * 2^e`. -/
structure Dy where
  n : Int
  e : Int
  deriving DecidableEq, Repr

def Dy.add (a b : Dy) : Dy :=
  let e := if a.e < b.e then a.e else b.e
  ⟨shl a.n (a.e - e) + shl b.n (b.e - e), e⟩

def Dy.mul (a b : Dy) : Dy := ⟨a.n * b.n, a.e + b.e⟩

def Dy.mag (a : Dy) : Mag := ⟨a.n.natAbs, 1, a.e⟩

def signed (s : Bool) (m : Nat) : Int := if s then -(m : Int) else m

/-- Terms of an exact sum: the special values seen, whether every term was -0, and the exact sum (R63, R100, R103). -/
structure Acc where
  nan : Bool
  pinf : Bool
  ninf : Bool
  allNegZero : Bool
  anyPos : Bool
  anyNeg : Bool
  sum : Dy
  deriving DecidableEq, Repr

def Acc.zero : Acc := ⟨false, false, false, true, false, false, ⟨0, 0⟩⟩

def Acc.term (a : Acc) : FV → Acc
  | .nan _ _ => { a with nan := true, allNegZero := false }
  | .inf s => { a with pinf := a.pinf || !s, ninf := a.ninf || s, allNegZero := false }
  | .fin s m e => { a with allNegZero := a.allNegZero && s && m == 0, anyPos := a.anyPos || !s, anyNeg := a.anyNeg || s,
                           sum := if m = 0 then a.sum else a.sum.add ⟨signed s m, e⟩ }

/-- The value of an exact sum as a floating value; under RDN an exact zero from terms of mixed signs is -0 (R100). -/
def Acc.value (a : Acc) (r : Rnd) : FV :=
  if a.nan || (a.pinf && a.ninf) then .nan false (2 ^ 22)
  else if a.pinf then .inf false
  else if a.ninf then .inf true
  else if a.sum.n = 0 then .fin (a.allNegZero || (r == .rdn && a.anyPos && a.anyNeg)) 0 0
  else .fin (a.sum.n < 0) a.sum.n.natAbs a.sum.e

def FV.isNan : FV → Bool
  | .nan _ _ => true
  | _ => false

def FV.sign : FV → Bool
  | .nan s _ => s
  | .inf s => s
  | .fin s _ _ => s

def FV.isZero : FV → Bool
  | .fin _ 0 _ => true
  | _ => false

def FV.neg : FV → FV
  | .nan s p => .nan s p
  | .inf s => .inf (!s)
  | .fin s m e => .fin (!s) m e

/-- Exact product (R100): 0 times infinity is a NaN. -/
def FV.mul : FV → FV → FV
  | .nan s p, _ => .nan s p
  | _, .nan s p => .nan s p
  | .inf s, .inf t => .inf (s != t)
  | .inf s, .fin t m _ => if m = 0 then .nan false (2 ^ 22) else .inf (s != t)
  | .fin s m _, .inf t => if m = 0 then .nan false (2 ^ 22) else .inf (s != t)
  | .fin s m e, .fin t n f => .fin (s != t) (m * n) (e + f)

/-- Less-than on numbers; NaN compares false; zeros are equal (R101). -/
def FV.lt : FV → FV → Bool
  | .nan _ _, _ => false
  | _, .nan _ _ => false
  | .inf s, .inf t => s && !t
  | .inf s, .fin _ _ _ => s
  | .fin _ _ _, .inf t => !t
  | .fin s m e, .fin t n f => ((⟨signed s m, e⟩ : Dy).add ⟨-signed t n, f⟩).n < 0

def FV.eq (a b : FV) : Bool := !a.isNan && !b.isNan && !a.lt b && !b.lt a

/-- The smaller value with -0 below +0; a NaN against a number gives the number (R101). -/
def FV.min (a b : FV) : FV :=
  if a.isNan then b else if b.isNan then a
  else if a.lt b then a else if b.lt a then b else if a.sign then a else b

def FV.max (a b : FV) : FV :=
  if a.isNan then b else if b.isNan then a
  else if a.lt b then b else if b.lt a then a else if a.sign then b else a

/-- The code of a value that needs no NaN payload: canonical NaN, infinities, or the rounded number (R52, R54). -/
def Fmt.encode (f : Fmt) (r : Rnd) (w : Nat) : FV → Nat
  | .nan _ _ => f.cnan
  | .inf s => f.infCode s
  | .fin s m e => if m = 0 then f.withSign s 0 else f.round r w s ⟨m, 1, e⟩

/-- Flush an FP32 code whose magnitude is subnormal (R57). -/
def flush32 (x : Nat) : Nat := if x % 2 ^ 31 < 2 ^ 23 then x / 2 ^ 31 * 2 ^ 31 else x

/-- Integer square root by trial bits. -/
def isqrtBits : Nat → Nat → Nat → Nat
  | 0, _, r => r
  | k + 1, n, r => let c := r + 2 ^ k; isqrtBits k n (if c * c ≤ n then c else r)

def isqrt (n : Nat) : Nat := isqrtBits (Nat.log2 n / 2 + 1) n 0

/-- Square root of a positive dyadic magnitude to at least 64 bits, exact where the root is a dyadic; an inexact root is
placed half-way in its last unit, which decides every rounding of R52 and R53 the same way as the root. -/
def sqrtMag (m : Nat) (e : Int) : Mag :=
  let k : Nat := 128 + 2 * Nat.log2 m % 2 + (if e % 2 = 0 then 0 else 1)
  let n := m * 2 ^ k
  let r := isqrt n
  if r * r = n then ⟨r, 1, (e - k) / 2⟩ else ⟨2 * r + 1, 1, (e - k) / 2 - 1⟩

/-! ### Scale formats (R42 to R44) -/

/-- E3M5 code value: `(32 + m) * 2^(e - 8)`; code 0 is zero (R42). -/
def e3m5 (c : Nat) : FV := if c = 0 then .fin false 0 0 else .fin false (32 + c % 32) ((c / 32 : Nat) - 8 : Int)

/-- E8M0 code value; 0xFF is NaN (R43). -/
def e8m0 (c : Nat) : FV := if c = 255 then .nan false (2 ^ 22) else .fin false 1 ((c : Int) - 127)

/-! ### The exact accumulator XA32 (R45 to R47) -/

/-- An XA32 value: header flags and the 320-bit integer V. -/
structure XA where
  sat : Bool
  nan : Bool
  ninf : Bool
  pinf : Bool
  nz : Bool
  any : Bool
  v : Int
  deriving DecidableEq, Repr

def XA.zero : XA := ⟨false, false, false, false, false, false, 0⟩

def XA.clamp (x : XA) : XA :=
  if x.v < -2 ^ 319 then { x with v := -2 ^ 319, sat := true }
  else if 2 ^ 319 - 1 < x.v then { x with v := 2 ^ 319 - 1, sat := true } else x

/-- Accumulate one addend (R46). -/
def XA.acc (x : XA) (a : FV) : XA :=
  match a with
  | .nan _ _ => { x with any := true, nz := true, nan := true }
  | .inf s => { x with any := true, nz := true, pinf := x.pinf || !s, ninf := x.ninf || s }
  | .fin s m e => XA.clamp { x with any := true, nz := x.nz || !(s && m == 0), v := x.v + shl (signed s m) (e + 149) }

/-- Add two accumulators (R46). -/
def XA.add (x y : XA) : XA :=
  XA.clamp ⟨x.sat || y.sat, x.nan || y.nan, x.ninf || y.ninf, x.pinf || y.pinf, x.nz || y.nz, x.any || y.any, x.v + y.v⟩

def XA.header (x : XA) : Nat :=
  x.any.toNat + 2 * x.nz.toNat + 4 * x.pinf.toNat + 8 * x.ninf.toNat + 16 * x.nan.toNat + 32 * x.sat.toNat

/-- The 48 bytes of an XA32 value (R45). -/
def XA.bytes (x : XA) : List Byte := toLE 8 x.header ++ toLE 40 (x.v % 2 ^ 320).toNat

/-- Finalise to a format (R47). -/
def XA.final (x : XA) (f : Fmt) (r : Rnd) : Nat :=
  if x.nan || (x.pinf && x.ninf) then f.cnan
  else if x.pinf then f.infCode false
  else if x.ninf then f.infCode true
  else if x.sat then f.infCode (x.v < 0)
  else if x.v = 0 then f.withSign (x.any && !x.nz) 0
  else f.round r 0 (x.v < 0) ⟨x.v.natAbs, 1, -149⟩

/-! ### The order of sums (R62 to R65) -/

/-- k-chunk of a format code (R62). -/
def chunkOf (fmt : Nat) : Nat :=
  if fmt = 1 || fmt = 2 then 16 else if fmt = 3 || fmt = 4 then 32 else 64

/-- Format of a format code (R48); I8 and reserved codes have no floating format. -/
def fmtOf : Nat → Option Fmt
  | 0 => some fp32 | 1 => some fp16 | 2 => some bf16 | 3 => some e4m3 | 4 => some e5m2 | 5 => some e2m1 | 6 => some n4
  | _ => none

/-- Element width in bits of a format code (R38, R48). -/
def fmtBits : Nat → Nat
  | 0 => 32 | 1 => 16 | 2 => 16 | 3 => 8 | 4 => 8 | 5 => 4 | 6 => 4 | 7 => 8 | _ => 0

/-- `round(acc + s, rne)` where `s` is the exact sum of a chunk's products (R63). -/
def chunkAdd (acc : Nat) (terms : List FV) : Nat :=
  let s := terms.foldl Acc.term Acc.zero
  fp32.encode .rne 0 ((((Acc.zero.term (fp32.decode acc)).term (s.value .rne))).value .rne)

end Sys2Proof.Machine
end

