-- ==== Sys2Proof/Machine/State.lean ====
section
/-! DEFINITION. The machine's state as plain data, its reset value, and the reasons a step can stop. -/

namespace Sys2Proof.Machine

/-- Why a step stops. -/
inductive Fault where
  /-- Raised by the meaning of a group's instruction when no running group is current. `step` never raises it: it issues
  only for a running group. Safe: the device has no such state. -/
  | noRunningGroup
  deriving DecidableEq, Repr

/-- Why an instruction has no meaning. -/
inductive Refusal where
  /-- Raised by an arm of `exec` whose instruction is not modelled. Safe: the model stops. -/
  | notModelled (mnemonic : String)
  deriving DecidableEq, Repr

/-- Trap causes (R325). -/
inductive Cause where
  | illegal | fetchbound | regrange | indexbound | emptyreg | converge | capbound | caprights | capinvalid | page
  | poison | race | convovf | barbroken | pedovf | alloccoll | dequespill | softtrap | bkpt | debugstop | hardpreempt
  deriving DecidableEq, Repr

/-- Cause codes of R325. -/
def Cause.code : Cause → Nat
  | .illegal => 1 | .fetchbound => 2 | .regrange => 3 | .indexbound => 4 | .emptyreg => 5 | .converge => 6
  | .capbound => 7 | .caprights => 8 | .capinvalid => 9 | .page => 10 | .poison => 11 | .race => 12 | .convovf => 13
  | .barbroken => 14 | .pedovf => 15 | .alloccoll => 16 | .dequespill => 17 | .softtrap => 18 | .bkpt => 19
  | .debugstop => 20 | .hardpreempt => 21

/-- A capability register or granule: 128-bit image and validity tag (R333). -/
structure Cap where
  image : BitVec 128
  tag : Bool
  deriving DecidableEq, Repr

def Cap.null : Cap := ⟨0, false⟩

/-- Reconvergence stack entry (R125, R130). -/
structure RsEntry where
  merge : Bool
  mask : Word
  join : Option Word
  resume : Word
  deriving DecidableEq, Repr

/-- A deferred result in flight (R33, R240): register writes with their poison marks, the quads or the s register to mark
full, and what else the arrival does. `v` keys are `32 * reg + thread`, `quads` are `8 * reg + quad`. `skip` are the operand codes of the results
that a debugger's write has taken the place of, one for each quad (R433); `level` is the level code of the data (R429, R436). -/
structure Deferred where
  load : Bool
  v : List (Nat × Word × Bool)
  quads : List Nat
  s : Option (Nat × DWord × Bool)
  div : Bool
  dz : Bool
  pc : Word
  seq : Word
  skip : List Nat
  level : Nat
  deriving DecidableEq, Repr

/-- An asynchronous trap reported to a group and not yet delivered (R236). -/
structure AsyncTrap where
  cause : Cause
  pc : Word
  seq : Word
  deriving DecidableEq, Repr

/-- A stream record bound to a local stream number (R205), with the count of elements read so far; `held` while a restored group has the
binding and its core has no free record for it (R350). -/
structure Stream where
  bound : Bool
  image : BitVec 512
  active : Bool
  done : Bool
  runout : Bool
  remain : Nat
  pos : Nat
  fault : Option Cause
  fva : Nat
  op : Nat
  held : Bool
  deriving DecidableEq, Repr

def Stream.free : Stream := ⟨false, 0, false, false, false, 0, 0, none, 0, 0, false⟩

/-- An operation of an engine class launched by a group (R204). -/
structure EngineOp where
  cls : Nat
  id : Nat
  done : Bool
  deriving DecidableEq, Repr

/-- Why a group does not issue: the eight states of R162, and the waits that are no state of R162. -/
inductive Wait where
  | none | regEmpty | fullEmpty | buffer | waitc | barrier (phase : Word) | barrierOpen | broken | abar (wg off : Nat) (phase : Word) | sync
  | queueReg | growth (n : Nat) | release | hold (va : Nat) | ringFull | sideLogFull | replayFull | table | instruction | recorder
  deriving DecidableEq, Repr

/-- How a group was saved (R415). -/
inductive SaveKind where
  | soft | safe | hard | evict | handle
  deriving DecidableEq, Repr

/-- Whether a group exists, runs, is saved, or has ended and only waits for its implicit SYNC (R297). -/
inductive GStatus where
  | none | running | saved (slot : Nat) (how : SaveKind) | ending
  deriving DecidableEq, Repr

/-- Values of a reducer view or of a log view (R183, R305). -/
inductive View where
  | missing
  | exact (l : List XA)
  | minmax (l : List (Option (Word × Word)))
  | bits (l : List DWord)
  | items (l : List DWord)
  | log (l : List (List Byte))
  deriving DecidableEq, Repr

/-- Views by reducer number; 16 is the log. -/
abbrev Views := Cells View

/-- A group and all its registers (R20, R125, R136, R171, R264, R349). `discard` are the marks of results that the instruction of a load held by a
fault has still to write (R433), `markLevel` the level codes of poisoned registers' data (R436), by `32 * reg + thread` and, from 8192 on, by s register. `slot` is the save slot that a fault record named or that holds the
group (R343, R347), `ctxWait` the context that its CTXOP `.kill` waits for (R355). -/
structure Group where
  status : GStatus
  ctx : Nat
  lid : Nat
  wg : Option Nat
  core : Nat
  berth : Nat
  rank : Nat
  pc : Word
  live : Word
  cur : Word
  stack : List RsEntry
  allot : Nat
  ucount : Nat
  v : Cells Word
  vEmpty : Cells Bool
  vPoison : Cells Bool
  markLevel : Cells Nat
  s : Cells DWord
  sEmpty : Cells Bool
  sPoison : Cells Bool
  p : Cells Word
  g : BitVec 8
  miscPoison : Cells Bool
  x : Cells Byte
  xbase : Cells Nat
  xbound : Cells Nat
  k : Cells Cap
  latch : List (Option Nat)
  mode : Word
  pedKey : Nat
  pedDepth : Nat
  pedBlk : Nat
  pedIdx : Nat
  root : DWord
  allocs : Nat
  seq : Word
  retired : DWord
  gscratch0 : DWord
  gscratch1 : DWord
  ops : List EngineOp
  streams : Cells Stream
  oq : Cells (List (Word × Bool))
  pending : List Deferred
  discard : List Nat
  traps : List AsyncTrap
  wait : Wait
  feDone : List (Nat × Nat × Bool)
  growReq : Option Nat
  issuedSince : Nat
  lastIssue : Nat
  stopped : Bool
  stopReq : Bool
  saveMask : Option (BitVec 176 × BitVec 48)
  recNo : Nat
  block : Nat
  entry : Nat
  pwin : Nat
  collShare : List Nat
  killed : Bool
  contPc : Word
  spilled : Nat
  berthed : Nat
  pcHigh : Word
  taskPhase : Word
  slot : Option Nat
  ctxWait : Option Nat
  deriving DecidableEq, Repr

/-- The register values a group starts with (R20); also what a group that does not exist reads as. -/
def Group.blank : Group :=
  { status := .none, ctx := 0, lid := 0, wg := none, core := 0, berth := 0, rank := 0, pc := 0, live := 0, cur := 0, stack := [],
    allot := 0, ucount := 0, v := [], vEmpty := [], vPoison := [], markLevel := [], s := [], sEmpty := [], sPoison := [], p := [], g := 0,
    miscPoison := [], x := [], xbase := [], xbound := [], k := [], latch := [none, none, none], mode := 0x9, pedKey := 0,
    pedDepth := 0, pedBlk := 0, pedIdx := 0, root := 0, allocs := 0, seq := 0, retired := 0, gscratch0 := 0, gscratch1 := 0,
    ops := [], streams := [], oq := [], pending := [], discard := [], traps := [], wait := .none, feDone := [],
    growReq := none, issuedSince := 0, lastIssue := 0, stopped := false, stopReq := false, saveMask := none,
    recNo := 0, block := 0, entry := 0, pwin := 0, collShare := [], killed := false,
    contPc := 0, spilled := 0, berthed := 0, pcHigh := 0, taskPhase := 0, slot := none, ctxWait := none }

/-- A buffer handle (R203): state code, region offset and length in 4 KiB units. -/
structure Handle where
  state : Nat
  off : Nat
  len : Nat
  deriving DecidableEq, Repr

/-- Scale registers of one operand of a ring (R281). -/
structure ScaleRegs where
  basek : Int
  baser : Int
  t : Word
  deriving DecidableEq, Repr

/-- The command a ring is executing (R271, R277): operand slot, chunks done, DRAINING holds, the status met, whether its last
effect is done, and the address of a scale read whose page fault pauses it (R280). -/
structure RunCmd where
  oslot : Nat
  chdone : Nat
  holdA : Bool
  holdB : Bool
  status : Nat
  finished : Bool
  paused : Option Nat
  deriving DecidableEq, Repr

/-- An appended command's side data (R264, R270): index, appending group, its operation, PC, SEQ and copied capabilities. -/
structure CmdOwner where
  index : Nat
  gid : Nat
  op : Nat
  pc : Word
  seq : Word
  capA : Cap
  capB : Cap
  deriving DecidableEq, Repr

/-- A claimed command ring (R263, R265); its header and slots are bytes of the window. -/
structure Ring where
  number : Nat
  base : Nat
  n : Nat
  tiles : Nat
  a : ScaleRegs
  b : ScaleRegs
  run : Option RunCmd
  owners : List CmdOwner
  deriving DecidableEq, Repr

/-- A copy accepted by a copy engine (R209, R210, R257): the packet, its two sides, who started it, and the faulting address that
pauses it; `sent` when its last RDMA WRITE awaits its acknowledgement (R366). -/
structure Copy where
  image : BitVec 512
  src : Cap
  dst : Cap
  srcVault : Option Nat
  dstVault : Option Nat
  ctx : Nat
  lid : Nat
  gid : Nat
  wg : Option Nat
  op : Nat
  entry : Nat
  queue : Option (Nat × Nat)
  pc : Word
  seq : Word
  pos : Nat
  paused : Option Nat
  sent : Bool
  deriving DecidableEq, Repr

/-- A workgroup (R155, R195, R248); `copies` are the paused copies of its saved image (R349), and
`voff` is where its window lies in the vault (R194, R195), and `last` the PC and SEQ of the group whose end released it (R170). -/
structure Workgroup where
  live : Bool
  ctx : Nat
  lid : Nat
  core : Nat
  id : Nat
  size : Nat
  vault : Cells Byte
  full : Cells Bool
  poison : Cells Bool
  phase : Word
  arrived : List Nat
  members : List Nat
  broken : Bool
  handles : Cells Handle
  nHandles : Nat
  ring : Option Ring
  acc : Cells Word
  accPoison : Cells Bool
  lastColl : List (Nat × Nat × Nat)
  killed : Bool
  abars : List Nat
  copies : List Copy
  voff : Nat
  last : Word × Word
  deriving DecidableEq, Repr

def Workgroup.blank : Workgroup :=
  { live := false, ctx := 0, lid := 0, core := 0, id := 0, size := 0, vault := [], full := [], poison := [], phase := 0,
    arrived := [], members := [], broken := false, handles := [], nHandles := 0, ring := none, acc := [], accPoison := [],
    lastColl := [], killed := false, abars := [], copies := [], voff := 0, last := (0, 0) }

/-- A crumb of the event recorder (R414), as its 128 bits. -/
abbrev Crumb := BitVec 128

/-- An instruction that a scheduler tagged, as a sample record describes it (R429): its group, debug name, active quads, flags,
cycle and level. -/
structure LastIssue where
  gid : Nat
  ctx : Nat
  pc : Word
  seq : Word
  quads : Nat
  flags : Nat
  cycle : Nat
  level : Nat
  deriving DecidableEq, Repr

/-- One scheduler: rotation pointer, the group it issued last and its run length (R160); in deterministic mode the pointer
names a rank (R397); the issues for sampled contexts in its window, the tagged instruction of the window (R428), and the model's count of free values
at its last issue (R161; log 3). -/
structure Sched where
  ptr : Nat
  last : Nat
  run : Nat
  issues : Nat
  ins : Option LastIssue
  issued : Nat
  deriving DecidableEq, Repr

def Sched.reset : Sched := ⟨0, 0, 0, 0, none, 0⟩

/-- The event recorder of a core (R413, R414, R416, R419 to R421): `dropped` counts the events while it is frozen, `busy` those in its queue and
`lost` those that found it full; with bit 29 of the cycle count as of the last TICK and the cycle count at the FREEZE crumb. -/
structure Recorder where
  crumbs : List Crumb
  cseq : Nat
  frozen : Bool
  dropped : Nat
  tick : Bool
  fcycle : Nat
  busy : Nat
  lost : Nat
  deriving DecidableEq, Repr

def Recorder.reset : Recorder := ⟨[], 0, false, 0, false, 0, 0, 0⟩

/-- The core number of a workgroup that is on no core. -/
def noCore : Nat := 400

/-- A core (R11, R17, R179, R209, R263, R413). `served` is the ring its tile engine serves; 16 is added at an interruption point
(R276) and 32 while it is idle; `tries` counts its unsuccessful steal requests in a row (R181, R399). -/
structure Core where
  cycle : Nat
  scheds : Cells Sched
  deque : List (BitVec 512)
  copies : List Copy
  served : Nat
  scaleOff : Bool
  recorder : Recorder
  tries : Nat
  deriving DecidableEq, Repr

def Core.blank : Core := ⟨0, [], [], [], 0, false, Recorder.reset, 0⟩

/-- A byte's place: physical memory, a vault window, an object of a peer device, a host object (R366), a virtual address whose page
is not mapped (a side-logged write), or nowhere (a dropped write). -/
inductive Loc where
  | mem (pa : Nat)
  | vault (wg off : Nat)
  | peer (key off : Nat)
  | host (i off : Nat)
  | virt (ctx va : Nat)
  | drop
  deriving DecidableEq, Repr

/-- How a store reaches its target: at once in order, through the race filter, or over the lateral network or links. -/
inductive StoreKind where
  | plain | checked | remote
  deriving DecidableEq, Repr

/-- The part of a store that lies in one 16-byte granule, in thread order: its bytes, or the places, operation, type and operand
of its reductions; whether a data source was poisoned (R436); and, for a CHECKED object, the granule's shadow key and virtual
address. -/
structure Part where
  bytes : List (Loc × Byte)
  red : List (List Loc × Nat × Ty × Nat)
  poison : Bool
  shadow : Option (Nat × Nat)
  deriving DecidableEq, Repr

/-- The writes of one instruction to one 64-byte line, issued and not yet performed (R211, R222, R246), or an entry of a side
log (R342). `tag` is set by a CAPST of a tagged register, `setFull` by a `.fes` store; `obj` is the object's key and generation, `sched` the
scheduler that issued it (R398), `owner` the owner of its group's line locks (R170). -/
structure PStore where
  gid : Nat
  ctx : Nat
  lid : Nat
  core : Nat
  kind : StoreKind
  parts : List Part
  tag : Bool
  setFull : Bool
  entry : Nat
  pc : Word
  seq : Word
  op : Nat
  va : Nat
  obj : Option (Nat × Nat)
  sched : Nat
  owner : Nat
  deriving DecidableEq, Repr

/-- A pending page walk (R340): who asked, and what its failure does; `inst` names the instruction or the engine access. -/
structure Walk where
  die : Nat
  inst : Nat
  ctx : Nat
  va : Nat
  write : Bool
  kind : Nat
  gid : Nat
  pc : Word
  seq : Word
  deriving DecidableEq, Repr

/-- A 64-byte fault record (R343). -/
structure FaultRec where
  kind : Nat
  cause : Nat
  slot : Nat
  seq : Word
  pc : Word
  va : Nat
  detail : List Byte
  deriving DecidableEq, Repr

/-- A fault record that waits for room in its context's ring (R343); `lose` is the core with which the context becomes LOST once it is
written (R345). -/
structure Owed where
  ctx : Nat
  core : Nat
  body : FaultRec
  lose : Bool
  deriving DecidableEq, Repr

/-- An entry of the object table (R335). -/
structure ObjEntry where
  live : Bool
  vbase : Nat
  extent : Nat
  gen : Nat
  pin : Bool
  caparr : Bool
  checked : Bool
  home : Nat
  ctx : Nat
  shofs : Nat
  retired : Bool
  deriving DecidableEq, Repr

def ObjEntry.absent : ObjEntry := ⟨false, 0, 0, 0, false, false, false, 0, 0, 0, false⟩

/-- An entry of the task table (R188). -/
structure TaskEntry where
  selem : Word
  state : Nat
  gen : Nat
  ctx : Nat
  fwd : Nat
  record : Nat
  lid : Nat
  deriving DecidableEq, Repr

def TaskEntry.free : TaskEntry := ⟨0, 0, 0, 0, 0, 0, 0⟩

/-- A cached translation (R339). -/
structure TlbEntry where
  ctx : Nat
  va : Nat
  size : Nat
  pa : Nat
  write : Bool
  deriving DecidableEq, Repr

/-- A parsed launch record (R324). -/
structure LaunchRec where
  entry : Nat
  codecap : Nat
  prio : Nat
  det : Bool
  collon : Bool
  capn : Nat
  w1 : Nat
  fields : List (Nat × Nat)
  allot : Nat
  ucnt : Nat
  handles : Nat
  tiles : List Nat
  scratch : Nat
  laycap : Nat
  lcount : Nat
  rescap : Nat
  resofs : Nat
  slots : List Word
  caplist : List Nat
  traps : BitVec 128
  seed : Nat
  delta : Nat
  gamma : List Nat
  reds : List (BitVec 128)
  colld : BitVec 512
  deriving DecidableEq, Repr

def LaunchRec.blank : LaunchRec :=
  { entry := 0, codecap := 0, prio := 0, det := false, collon := false, capn := 0, w1 := 0, fields := [], allot := 0, ucnt := 0,
    handles := 0, tiles := [], scratch := 0, laycap := 255, lcount := 0, rescap := 255, resofs := 0, slots := [], caplist := [],
    traps := 0, seed := 0, delta := 0, gamma := [], reds := [], colld := 0 }

/-- A launch from its start to its completion (R327). -/
structure Launch where
  live : Bool
  ctx : Nat
  queue : Nat
  index : Nat
  graph : Bool
  lrec : LaunchRec
  code : Cap
  caps : List Cap
  layouts : List (BitVec 512)
  nextWg : Nat
  placed : List Nat
  nWg : Nat
  dies : List (Nat × Nat)
  finals : List (Nat × Views)
  groups : Nat
  killed : Bool
  order : Nat
  collInst : Nat
  deriving DecidableEq, Repr

def Launch.blank : Launch :=
  { live := false, ctx := 0, queue := 0, index := 0, graph := false, lrec := LaunchRec.blank, code := Cap.null, caps := [], layouts := [],
    nextWg := 0, placed := [], nWg := 0, dies := [], finals := [], groups := 0, killed := false, order := 0, collInst := 0 }

/-- A member of a sync block in serial order: a numbered strand's views, or a child with its final views once it has ended. -/
inductive Member where
  | strand (no : Nat) (views : Views)
  | child (recNo : Nat) (ended : Bool) (views : Views)
  deriving DecidableEq, Repr

/-- Bytes that a view takes (R184, R194): its launch and context, the task record and strand of its owner, its reducer, and where they lie: a
core's view pool, the context's view overflow object (`noCore`), or the saved image of partition core `i` (`noCore + 1 + i`). -/
structure ViewSpace where
  ctx : Nat
  lid : Nat
  recNo : Nat
  strand : Nat
  red : Nat
  core : Nat
  off : Nat
  len : Nat
  deriving DecidableEq, Repr

/-- A sync block (R185, R189): its group, its members, the combination so far, what its completion does, and the task-table
entries it will forward, the work identifier of its root, and the core on which its group ran. -/
structure Block where
  live : Bool
  gid : Nat
  lid : Nat
  recNo : Nat
  items : List Member
  acc : Views
  closing : Bool
  ending : Bool
  killed : Bool
  parent : Option Nat
  entries : List Nat
  wid : Nat
  core : Nat
  deriving DecidableEq, Repr

def Block.blank : Block :=
  { live := false, gid := 0, lid := 0, recNo := 0, items := [], acc := [], closing := false, ending := false, killed := false,
    parent := none, entries := [], wid := 0, core := 0 }

/-- Context states (R348, R355). -/
inductive CtxState where
  | free | running | saving | saved | killed | lost
  deriving DecidableEq, Repr

def CtxState.code : CtxState → Nat
  | .free => 0 | .running => 1 | .saving => 2 | .saved => 3 | .killed => 4 | .lost => 5

/-- A context (R344, R348): its descriptor's fields and its state. `image` holds the deque entries of its saved core images, by place of the
core in the partition, `imageCopies` their paused copies (R349), and
`ptrs` the scheduler pointers of a deterministic context, by 4 × that place + scheduler (R401).
`logStop` says that a full log under MARK stopped its entries (R405). -/
structure Ctx where
  state : CtxState
  root : Nat
  sys : Bool
  det : Bool
  replayMark : Bool
  colln : Nat
  qn : Nat
  qtab : DWord
  save : DWord
  saven : Nat
  privn : Nat
  trec : DWord
  trecn : Nat
  deqcap : Nat
  deq : DWord
  viewovf : DWord
  shadow : DWord
  priv : DWord
  privsz : Nat
  heap : DWord
  log : DWord
  fault : DWord
  faultn : Nat
  replay : DWord
  replayUsed : List Nat
  part : BitVec 320
  degraded : Bool
  marked : Bool
  logStop : Bool
  hard : Bool
  ctxseq : Nat
  recs : Cells Nat
  inst : Nat
  debugObj : DWord
  debugArr : DWord
  debugGranule : Nat
  sampRing : DWord
  sampN : Nat
  image : Cells (List (BitVec 512))
  imageCopies : Cells (List Copy)
  ptrs : Cells Nat
  deriving DecidableEq, Repr

def Ctx.blank : Ctx :=
  { state := .free, root := 0, sys := false, det := false, replayMark := false, colln := 0, qn := 0, qtab := 0, save := 0, saven := 0,
    privn := 0, trec := 0, trecn := 0, deqcap := 0, deq := 0, viewovf := 0, shadow := 0, priv := 0, privsz := 0, heap := 0, log := 0,
    fault := 0, faultn := 0, replay := 0, replayUsed := [], part := 0, degraded := false, marked := false, logStop := false, hard := false, ctxseq := 0,
    recs := [], inst := 0, debugObj := 0, debugArr := 0, debugGranule := 0, sampRing := 0, sampN := 0, image := [], imageCopies := [], ptrs := [] }

/-- A core's overflow ring for one context (R179): entries lie in the DEQ object's bytes, from `top` for `count`. -/
structure Overflow where
  top : Nat
  count : Nat
  deriving DecidableEq, Repr

/-- A packet read from a queue and not yet complete (R320). -/
structure Packet where
  ctx : Nat
  queue : Nat
  index : Nat
  image : BitVec 512
  started : Bool
  done : Option (Nat × Nat)
  deriving DecidableEq, Repr

/-- A graph running from a GRAPH packet (R330). -/
structure GraphRun where
  ctx : Nat
  queue : Nat
  index : Nat
  gcap : Cap
  gofs : Nat
  node : Nat
  steps : Nat
  maxsteps : Nat
  lid : Nat
  result : Option Nat
  deriving DecidableEq, Repr

/-- A local member of a collective instance (R370, R374): the workgroup, packet or attached launch that arrives, its groups with
their operations, its source once read, the faulting address that pauses it, and the debug name of its command (R417). -/
structure CollMember where
  rank : Nat
  amerge : Bool
  image : BitVec 512
  ctx : Nat
  wg : Option Nat
  packet : Option (Nat × Nat)
  lid : Nat
  gids : List (Nat × Nat)
  data : Cap
  mismatch : Bool
  source : Option (List Byte)
  poison : List Nat
  done : Bool
  paused : Option Nat
  pc : Word
  seq : Word
  deriving DecidableEq, Repr

/-- A collective instance (R370): communicator name and TAG, members of this device, ranks of other devices, and the status
once it has started. -/
structure CollInst where
  live : Bool
  comm : DWord
  tag : Word
  members : List CollMember
  remote : List RemoteRank
  nmem : Nat
  epred : Bool
  status : Option Nat
  deriving DecidableEq, Repr

def CollInst.blank : CollInst := ⟨false, 0, 0, [], [], 0, false, none⟩

/-- A term stored for a round (R387). -/
structure Term where
  rank : Nat
  tag : Nat
  dest : Nat
  lag : Nat
  data : List Word
  deriving DecidableEq, Repr

/-- A request of this device's groups waiting at a meeting unit, the capability it goes through, where its answer goes, the
faulting address that pauses it, and whether a debugger's write has taken the place of its result (R433). -/
structure MeetWait where
  req : MeetReq
  cap : Cap
  gid : Nat
  dst : Nat
  pc : Word
  seq : Word
  copyTo : Cap
  copyOfs : Nat
  copyLen : Nat
  packet : Option (Nat × Nat)
  ctx : Nat
  ret : Nat
  held : Bool
  paused : Option Nat
  skip : Bool
  deriving DecidableEq, Repr

/-- What a meeting unit keeps beside the object's bytes (R387): open terms and accepted tags. -/
structure Meeting where
  live : Bool
  terms : List Term
  accepted : List (Nat × Nat)
  deriving DecidableEq, Repr

def Meeting.blank : Meeting := ⟨false, [], []⟩

/-- A quay port (R358 to R360): the number it expects, whether it has asked for that flit, the failed replays of it, and retrainings; the far
end's order class; the number of the next flit it sends, the flits that are not acknowledged, those (KIND and payload) that are not sent, and the
flit that the far end asked for last with the times it asked again. -/
structure Port where
  down : Bool
  expect : Nat
  asking : Bool
  failed : Nat
  retrains : Nat
  order : Nat
  next : Nat
  replay : List (BitVec 512)
  queue : List (Nat × BitVec 448)
  asked : Option Nat
  again : Nat
  deriving DecidableEq, Repr

/-- The device's advertisement flit: class 0 (R359). -/
def advert : Nat × BitVec 448 := (5, 0)

def Port.reset : Port := { down := false, expect := 0, asking := false, failed := 0, retrains := 0, order := 0, next := 0, replay := [], queue := [advert], asked := none, again := 0 }

/-- A queue pair of a host port (R364): error state and the rate it may send at, in 1/256 of the line. -/
structure QueuePair where
  error : Bool
  slow : Nat
  deriving DecidableEq, Repr

def QueuePair.fresh : QueuePair := ⟨false, 0⟩

/-- A registration-table entry (R365). -/
structure RegEntry where
  valid : Bool
  ctx : Nat
  cap : Cap
  deriving DecidableEq, Repr

def RegEntry.none : RegEntry := ⟨false, 0, Cap.null⟩

/-- A host-object table entry (R366). -/
structure HostObj where
  valid : Bool
  name : DWord
  port : Nat
  qp : Nat
  rkey : Word
  addr : Nat
  len : Nat
  deriving DecidableEq, Repr

def HostObj.none : HostObj := ⟨false, 0, 0, 0, 0, 0, 0⟩

/-- A health record (R441): corrected count of the window, consecutive windows over the threshold, uncorrectable count,
threshold, and whether the count of the window crossed it. -/
structure Health where
  corrected : Nat
  since : Nat
  windows : Nat
  uncorrectable : Nat
  threshold : Nat
  crossed : Bool
  deriving DecidableEq, Repr

def Health.reset : Health := ⟨0, 0, 0, 0, 1024, false⟩

/-- One core's part of a capsule (R424). -/
structure CoreSection where
  pcore : Nat
  lcore : Nat
  cycle : Nat
  cseqf : Nat
  dropped : Nat
  crumbs : List Crumb
  deriving DecidableEq, Repr

/-- An origin of a freeze (R420, R423). -/
structure Origin where
  pcore : Nat
  cause : Nat
  ctx : Nat
  cseq : Nat
  deriving DecidableEq, Repr

/-- What the device notes at a freeze, at the first origin (R423, R425): measurement digest, lifecycle code, warm resets so far, and the instance
number of each context. -/
structure FreezeNote where
  meas : BitVec 256
  lcs : Nat
  resets : Nat
  insts : List (Nat × Nat)
  deriving DecidableEq, Repr

/-- A stored capsule (R422 to R424), with the context-instance number of each context. -/
structure Capsule where
  no : Nat
  origins : List Origin
  cores : List CoreSection
  meas : BitVec 256
  lcs : Nat
  resets : Nat
  insts : List (Nat × Nat)
  deriving DecidableEq, Repr

/-- Lifecycle states (R452). -/
inductive Lifecycle where
  | manufacture | provisioned | deployed | debugUnlocked | returned | decommissioned
  deriving DecidableEq, Repr

def Lifecycle.code : Lifecycle → Nat
  | .manufacture => 0 | .provisioned => 1 | .deployed => 2 | .debugUnlocked => 3 | .returned => 4 | .decommissioned => 5

/-- What the Harbourmaster and the fuses hold (R449 to R455). -/
structure Trust where
  mr0 : BitVec 256
  mr1 : BitVec 256
  mr2 : BitVec 256
  mr3 : BitVec 256
  lifecycle : Lifecycle
  unlocks : Nat
  leaf : Nat
  hmFuse : Nat
  stFuse : Nat
  hmSvn : Nat
  stSvn : Nat
  powered : Bool
  hmUp : Bool
  pilotUp : Bool
  portOpen : Bool
  challenge : Option (BitVec 256)
  wipe : Bool
  seed : Bool
  identity : Bool
  deriving DecidableEq, Repr

/-- What the device sends out: answers to hosts, system software, tools and peers. -/
inductive Output where
  | nak (port qp : Nat) (access : Bool)
  | rdmaData (port qp : Nat) (data : List Byte)
  | atomicOld (port qp : Nat) (old : DWord)
  | report (bytes : List Byte)
  | answer (ok : Bool)
  | register (values : List DWord)
  | enumeration (bytes : List Byte)
  | meetStatus (dev : Nat) (status : DWord) (record : List Byte)
  | keys (dev : Nat) (bytes : List Byte)
  | eraseKey (dev : Nat) (name : DWord) (gen : Nat)
  | hostWrite (i addr : Nat) (data : List Byte)
  | toPeer (dev : Nat) (name : DWord) (off : Nat) (data : List Byte)
  | poisonPeer (dev : Nat) (name : DWord) (off : Nat)
  | collData (dev rank : Nat) (data : List Byte) (poison : List Nat)
  | readPeer (dev : Nat) (name : DWord) (off n : Nat)
  | tagPeer (dev : Nat) (name : DWord) (off : Nat)
  | flit (port : Nat) (flit : BitVec 512)
  | collAbort (dev : Nat) (comm : DWord) (tag : Word)
  | meetRequest (dev : Nat) (req : MeetReq)
  | thermtrip
  deriving DecidableEq, Repr

/-- The whole device. -/
structure State where
  /-- MODEL: the group that issues. -/
  cur : Nat
  /-- MODEL: set by an instruction that cannot go on yet. -/
  stalled : Bool
  /-- MODEL: set by an instruction that takes a trap (R429). -/
  trapped : Bool
  /-- MODEL: counter of free values, advanced by every step (log 3). -/
  freeCount : Nat
  /-- MODEL: counter of names for groups, operations and the like. -/
  nextId : Nat
  /-- MODEL: events from outside the device, oldest first. -/
  inputs : List Instr
  /-- MODEL: what the device has sent out, newest first. -/
  outbox : List Output
  /-- MODEL: how many of them have their flits. -/
  flitted : Nat
  groups : Cells Group
  wgs : Cells Workgroup
  cores : Cells Core
  launches : Cells Launch
  blocks : Cells Block
  /-- Where the views lie. -/
  viewSpaces : List ViewSpace
  ctxs : Cells Ctx
  overflow : Cells Overflow
  mem : List Host.Cell
  tags : Cells Bool
  memPoison : Cells Bool
  /-- 4-byte words of physical memory that a host wrote last (R403). -/
  hostWrote : Cells Bool
  objs : Cells ObjEntry
  /-- Shadow words that L2 holds (R187). -/
  shadow : Cells Word
  /-- Granules whose shadow word lies in the context's shadow object (R187). -/
  shadowOut : Cells Bool
  tasks : Cells TaskEntry
  tlb : List TlbEntry
  walks : List Walk
  stores : List PStore
  sideLog : List PStore
  locks : Cells Nat
  /-- Owners that have ended and whose line locks wait for their stores (R170). -/
  unlocking : List Nat
  /-- Fault records that wait for room. -/
  owed : List Owed
  /-- MODEL: contexts and addresses at which an access to a pinned object found no page: each becomes LOST (R345). -/
  lostPins : List (Nat × Nat)
  /-- Pages of contexts that engine accesses without a pause of their own wait for: context, page, and whose access it is (R343). -/
  engFaults : List (Nat × Nat × Nat)
  packets : List Packet
  halted : List (Nat × Nat)
  /-- Packets that completed with a status other than OK: context, queue, index (R323). -/
  failed : List (Nat × Nat × Nat)
  graphs : List GraphRun
  /-- Queue whose launch the pilot started last: number × 64 + context (R327). -/
  queueTurn : Nat
  colls : Cells CollInst
  meetings : Cells Meeting
  meetQ : List MeetWait
  ports : Cells Port
  devnum : Nat
  routes : Cells Word
  qps : Cells QueuePair
  paused : Cells Nat
  regs : Cells RegEntry
  hostObjs : Cells HostObj
  commKeys : Cells (BitVec 256)
  errRing : Option DWord
  errSeq : Nat
  health : Cells Health
  replaceReq : Bool
  reason : Nat
  grade : Nat
  fusedOff : List Nat
  retirePending : List (Nat × Nat)
  retiredUnits : List (Nat × Nat)
  powerCap : Nat
  clocks : Cells Nat
  /-- Last power reading, in milliwatts, and last temperature of each die, in degrees (R446). -/
  power : Nat
  temps : Cells Nat
  tripped : List Nat
  capsules : List Capsule
  flashCapsules : List Capsule
  capno : Nat
  /-- Signed capsule views, by the remote key they are bound to (R426). -/
  capViews : Cells (List Byte)
  /-- Capsule-read values, by context-instance number (R426). -/
  capReads : Cells DWord
  origins : List Origin
  frozenNote : Option FreezeNote
  freezing : List Nat
  resets : Nat
  ctxInst : Nat
  trust : Trust
  deriving DecidableEq, Repr

/-- What a byte of memory that nothing has written reads as (log 4, DESIGN CHOICE). -/
def memDefault : Byte := 0

/-- The canonical form of memory. -/
def Memory.wf (m : List Host.Cell) : Bool := Cells.wf memDefault m

/-- Cores fused off: physical cores 72 to 79 of each die (log 5). -/
def resetFusedOff : List Nat :=
  [72, 73, 74, 75, 76, 77, 78, 79, 152, 153, 154, 155, 156, 157, 158, 159, 232, 233, 234, 235, 236, 237, 238, 239,
   312, 313, 314, 315, 316, 317, 318, 319]

/-- Extend a measurement register (R449). -/
def extendMr (mr : BitVec 256) (x : List Byte) : BitVec 256 :=
  sha256 (toLE 32 mr.toNat ++ toLE 32 (sha256 x).toNat)

/-- What boot step 3 extends MR2 with (R450). -/
def bootState (lcs grade unlocks : Nat) : List Byte := [.ofNat 8 lcs, .ofNat 8 grade, .ofNat 8 unlocks, 0, 0, 0, 0, 0]

/-- The trust state after a reset whose boot sequence passed (R449, R450, R452; log 5 for the fuses and images). -/
def Trust.reset : Trust :=
  { mr0 := extendMr 0 Config.hmImage, mr1 := extendMr 0 Config.stImage, mr2 := extendMr 0 (bootState 2 0 0), mr3 := extendMr 0 [0], lifecycle := .deployed, unlocks := 0, leaf := 1, hmFuse := 0, stFuse := 0, hmSvn := 0,
    stSvn := 0, powered := true, hmUp := true, pilotUp := true, portOpen := false, challenge := none, wipe := false, seed := true, identity := true }

/-- The machine right after reset: no context, no object, no group; every table empty (log 5). -/
def State.reset : State :=
  { cur := 0, stalled := false, trapped := false, freeCount := 0, nextId := 1, inputs := [], outbox := [], flitted := 0, groups := [], wgs := [], cores := [], launches := [],
    blocks := [], viewSpaces := [], ctxs := [], overflow := [], mem := [], tags := [], memPoison := [], hostWrote := [], objs := [], shadow := [], shadowOut := [],
    tasks := [], tlb := [], walks := [], stores := [], sideLog := [], locks := [], unlocking := [], owed := [], lostPins := [], engFaults := [], packets := [], halted := [], failed := [], graphs := [], queueTurn := 0, colls := [],
    meetings := [], meetQ := [], ports := [], devnum := 0, routes := [], qps := [], paused := [], regs := [],
    hostObjs := [], commKeys := [], errRing := none, errSeq := 0, health := [], replaceReq := false, reason := 0, grade := 0,
    fusedOff := resetFusedOff, retirePending := [], retiredUnits := [], powerCap := 4500000, clocks := [], power := 0, temps := [], tripped := [],
    capsules := [], flashCapsules := [], capno := 0, capViews := [], capReads := [], origins := [], frozenNote := none, freezing := [], resets := 0, ctxInst := 0, trust := Trust.reset }

end Sys2Proof.Machine
end

