-- ==== Sys2Proof/Machine/Mem.lean ====
section
/-! DEFINITION. Access to the device's tables, the bytes of memory and of vault windows, objects, translation and the fault
ring (R194, R201, R241, R249, R333 to R345, R435). -/

namespace Sys2Proof.Machine

/-! ### Tables -/

def State.grp (s : State) (i : Nat) : Group := Cells.get Group.blank s.groups i
def State.setGrp (s : State) (i : Nat) (g : Group) : State := { s with groups := Cells.set Group.blank s.groups i g }
/-- The group that issues. -/
def State.g (s : State) : Group := s.grp s.cur
def State.setG (s : State) (g : Group) : State := s.setGrp s.cur g
def State.wgOf (s : State) (i : Nat) : Workgroup := Cells.get Workgroup.blank s.wgs i
def State.setWg (s : State) (i : Nat) (w : Workgroup) : State := { s with wgs := Cells.set Workgroup.blank s.wgs i w }
def State.core (s : State) (i : Nat) : Core := Cells.get Core.blank s.cores i
def State.setCore (s : State) (i : Nat) (c : Core) : State := { s with cores := Cells.set Core.blank s.cores i c }
def State.launch (s : State) (i : Nat) : Launch := Cells.get Launch.blank s.launches i
def State.setLaunch (s : State) (i : Nat) (l : Launch) : State := { s with launches := Cells.set Launch.blank s.launches i l }
def State.block (s : State) (i : Nat) : Block := Cells.get Block.blank s.blocks i
def State.setBlock (s : State) (i : Nat) (b : Block) : State := { s with blocks := Cells.set Block.blank s.blocks i b }
def State.ctx (s : State) (i : Nat) : Ctx := Cells.get Ctx.blank s.ctxs i
def State.setCtx (s : State) (i : Nat) (c : Ctx) : State := { s with ctxs := Cells.set Ctx.blank s.ctxs i c }
/-- Key of an object's entry: system names are the device's, names from ALLOCO are each context's own (R303, R333). -/
def objKey (ctx : Nat) (name : DWord) : Nat := if name.toNat < 2 ^ 61 then name.toNat + 2 ^ 64 * (ctx + 1) else name.toNat
def State.obj (s : State) (key : Nat) : ObjEntry := Cells.get ObjEntry.absent s.objs key
def State.setObj (s : State) (key : Nat) (o : ObjEntry) : State := { s with objs := Cells.set ObjEntry.absent s.objs key o }
def State.task (s : State) (i : Nat) : TaskEntry := Cells.get TaskEntry.free s.tasks i
def State.setTask (s : State) (i : Nat) (t : TaskEntry) : State := { s with tasks := Cells.set TaskEntry.free s.tasks i t }
def State.coll (s : State) (i : Nat) : CollInst := Cells.get CollInst.blank s.colls i
def State.setColl (s : State) (i : Nat) (c : CollInst) : State := { s with colls := Cells.set CollInst.blank s.colls i c }
def State.meeting (s : State) (key : Nat) : Meeting := Cells.get Meeting.blank s.meetings key
def State.setMeeting (s : State) (key : Nat) (m : Meeting) : State :=
  { s with meetings := Cells.set Meeting.blank s.meetings key m }
def State.port (s : State) (i : Nat) : Port := Cells.get Port.reset s.ports i
def State.setPort (s : State) (i : Nat) (p : Port) : State := { s with ports := Cells.set Port.reset s.ports i p }
/-- Index of a group's scheduler. -/
def Group.sched (g : Group) : Nat := g.berth / 256
/-- A fresh name. -/
def State.fresh (s : State) : Nat × State := (s.nextId, { s with nextId := s.nextId + 1 })
def State.send (s : State) (o : Output) : State := { s with outbox := o :: s.outbox }

/-! ### Units -/

/-- Physical cores that are live: neither fused off nor retired (R442, R444). -/
def State.liveCores (s : State) : List Nat :=
  (List.range 320).filter (fun p => !s.fusedOff.contains p && !s.retiredUnits.contains (1, p))

/-- Physical number of a logical core (R444). -/
def State.physCore (s : State) (l : Nat) : Nat := s.liveCores.getD l 0

/-- Logical number of a physical core. -/
def State.logicalCore (s : State) (p : Nat) : Option Nat :=
  if s.liveCores.contains p then some (s.liveCores.filter (· < p)).length else none

/-- Die of a logical core. -/
def State.dieOf (s : State) (l : Nat) : Nat := s.physCore l / 80

/-- Cores of a context's partition, in ascending order (R346). -/
def State.partCores (s : State) (ctx : Nat) : List Nat := (List.range s.liveCores.length).filter (fun c => bit (s.ctx ctx).part.toNat c)

/-- Cores of a die, in ascending order. -/
def State.dieCores (s : State) (die : Nat) : List Nat := (List.range s.liveCores.length).filter (fun c => s.dieOf c == die)

/-- Level code of R429 of data that a group gets from a place: which cache an object's data comes from is free (log 7). -/
def State.levelOf (s : State) (g : Group) : Loc → Nat
  | .mem _ => 4 + Config.level s.freeCount % 4
  | .virt _ _ => 4 + Config.level s.freeCount % 4
  | .vault w _ => if g.wg == some w then 1 else if s.dieOf (s.wgOf w).core == s.dieOf g.core then 2 else 3
  | .peer _ _ => 8
  | .host _ _ => 9
  | .drop => 0

/-- The highest level code of some places. -/
def State.levelOfAll (s : State) (g : Group) (l : List Loc) : Nat := (l.map (s.levelOf g)).foldl Nat.max 0

/-- Bytes of HBM that are live (R442, R443). -/
def State.hbmBytes (s : State) : Nat :=
  Config.stackBytes * (12 - (s.retiredUnits.filter (fun u => u.1 == 4)).length)

/-! ### Capabilities (R333) -/

def Cap.name (c : Cap) : DWord := c.image.extractLsb' 64 64
def Cap.gen (c : Cap) : Nat := (c.image.extractLsb' 56 8).toNat
def Cap.rights (c : Cap) : Nat := (c.image.extractLsb' 48 8).toNat
def Cap.exp (c : Cap) : Nat := (c.image.extractLsb' 44 4).toNat
def Cap.base (c : Cap) : Nat := (c.image.extractLsb' 22 22).toNat
def Cap.lenField (c : Cap) : Nat := (c.image.extractLsb' 0 22).toNat
def Cap.unit (c : Cap) : Nat := 2 ^ (4 + c.exp)
/-- Window start and length in bytes. -/
def Cap.start (c : Cap) : Nat := c.base * c.unit
def Cap.length (c : Cap) : Nat := (c.lenField + 1) * c.unit

/-- Rights by bit number (R333). -/
def Cap.has (c : Cap) (n : Nat) : Bool := bit c.rights n
def rRead : Nat := 0
def rWrite : Nat := 1
def rExec : Nat := 2
def rCapLoad : Nat := 3
def rCapStore : Nat := 4
def rCheck : Nat := 5
def rNdatom : Nat := 6
def rDebug : Nat := 7

/-- A capability image from its fields. -/
def Cap.make (name : DWord) (gen rights exp base len : Nat) : Cap :=
  ⟨.ofNat 128 (len % 2 ^ 22 + 2 ^ 22 * (base % 2 ^ 22) + 2 ^ 44 * (exp % 16) + 2 ^ 48 * (rights % 256) + 2 ^ 56 * (gen % 256) +
    2 ^ 64 * name.toNat), true⟩

/-- The smallest unit exponent in which a window can be written (R303, R333). -/
def windowExp (start len : Nat) : Option Nat :=
  (List.range 15).find? (fun e => start % 2 ^ (4 + e) == 0 && len % 2 ^ (4 + e) == 0 && start / 2 ^ (4 + e) < 2 ^ 22 &&
    0 < len && len / 2 ^ (4 + e) ≤ 2 ^ 22)

/-- Every byte lies inside the window (R333). -/
def Cap.covers (c : Cap) (off n : Nat) : Bool := c.start ≤ off && off + n ≤ c.start + c.length

/-! ### Translation (R337 to R340) -/

/-- An 8-byte word of physical memory. -/
def State.physWord (s : State) (pa : Nat) : Nat :=
  leNat ((List.range 8).map (fun i => Cells.get memDefault s.mem (pa + i)))

/-- Result of a walk: the page's virtual base, its size, the physical base and whether writes are allowed. -/
structure Page where
  va : Nat
  size : Nat
  pa : Nat
  write : Bool
  pin : Bool
  deriving DecidableEq, Repr

/-- A table entry that is valid and has no reserved field set (R337). -/
def pteOk (e : Nat) : Bool := bit e 0 && bits e 63 52 == 0 && bits e 15 6 == 0 && bits e 3 2 != 3

/-- The leaf that a virtual address's walk finds (R337, R338). Writes are allowed where every entry met allows them. -/
def State.walk (s : State) (ctx va : Nat) : Option Page :=
  if 2 ^ 52 ≤ va then none else
  let table (e : Nat) : Nat := bits e 51 16 * 2 ^ 16
  let leaf (e size : Nat) (wr : Bool) : Option Page :=
    if table e + size ≤ s.hbmBytes then some ⟨va / size * size, size, table e, wr && bit e 4, bit e 5⟩ else none
  let e1 := s.physWord ((s.ctx ctx).root + 8 * bits va 51 40)
  if !pteOk e1 || bit e1 1 then none else
  let e2 := s.physWord (table e1 + 8 * bits va 39 28)
  if !pteOk e2 then none else
  if bit e2 1 then (if bits e2 3 2 == 2 then leaf e2 (2 ^ 29) (bit e1 4) else none) else
  let e3 := s.physWord (table e2 + 8 * bits va 27 16)
  if !pteOk e3 || !bit e3 1 then none else
  let wr := bit e1 4 && bit e2 4
  match bits e3 3 2 with
  | 0 => leaf e3 (2 ^ 16) wr
  | 1 => leaf e3 (2 ^ 21) wr
  | _ => none

/-- The translation of one virtual address; none where the walk faults. A cached translation that differs from the tables may
be used until it is invalidated (R339); the accesses of one step to one page use the same one. -/
def State.translate (s : State) (ctx va : Nat) (write : Bool) : Option Nat :=
  let fresh := match s.walk ctx va with
    | some p => if write && !p.write then none else some (p.pa + (va - p.va))
    | none => none
  match s.tlb.find? (fun e => e.ctx == ctx && e.va ≤ va && va < e.va + e.size) with
  | none => fresh
  | some e =>
    let cached := if write && !e.write then none else some (e.pa + (va - e.va))
    if cached = fresh then fresh else if Config.useCached s.freeCount (va / 65536) then cached else fresh

/-- Remember the translation of an address (R339). -/
def State.cachePage (s : State) (ctx va : Nat) : State :=
  match s.walk ctx va with
  | some p =>
    let e : TlbEntry := ⟨ctx, p.va, p.size, p.pa, p.write⟩
    if s.tlb.contains e then s else { s with tlb := e :: s.tlb }
  | none => s

/-! ### Routes (R361, R362) -/

/-- Quay ports of a route entry that are up. -/
def State.portsUp (s : State) (dev : Nat) : List Nat :=
  (List.range 24).filter (fun p => bit (Cells.get 0 s.routes dev).toNat p && !(s.port p).down)

/-- A request to a device can be delivered. -/
def State.reachable (s : State) (dev : Nat) : Bool := dev == s.devnum || !(s.portsUp dev).isEmpty

/-! ### Bytes -/

/-- A byte as the device reads it. -/
def State.byteAt (s : State) : Loc → Byte
  | .mem pa => Cells.get memDefault s.mem pa
  | .vault w off => Cells.get 0 (s.wgOf w).vault off
  | .peer n off => Config.peerByte s.freeCount n off
  | .host i off => Config.hostByte (Cells.get HostObj.none s.hostObjs i).addr (off + 2 ^ 40 * s.freeCount)
  | .virt _ _ => 0
  | .drop => 0

/-- Poison of a byte: physical granules and vault granules carry marks (R434); a peer that cannot be reached gives a poisoned
value (R362), and one that can gives its own marks (R435; log 9). -/
def State.poisonAt (s : State) : Loc → Bool
  | .mem pa => Cells.get false s.memPoison (pa / 16)
  | .vault w off => Cells.get false (s.wgOf w).poison (off / 16)
  | .peer n off => !s.reachable (s.obj n).home || Config.peerPoison s.freeCount n off
  | _ => false

/-- An ordinary write to the granule is dropped: it holds a live ABAR object (R249), lies in a configured ring (R265), or its window is gone. -/
def Workgroup.held (w : Workgroup) (off : Nat) : Bool :=
  !w.live || w.abars.contains (off / 16 * 16) ||
    (match w.ring with
     | some r => r.base ≤ off && off < r.base + 256 + 64 * r.n
     | none => false)

/-- An ordinary write to the byte's granule is dropped. -/
def State.dropsWrite (s : State) (l : Loc) : Bool := match l with | .vault w off => (s.wgOf w).held off | _ => false

/-- Write one byte; an ordinary write to a held granule is dropped. -/
def State.writeByte (s : State) (l : Loc) (b : Byte) : State :=
  match l with
  | .mem pa => { s with mem := Cells.set memDefault s.mem pa b, tags := Cells.del s.tags (pa / 16), hostWrote := Cells.del s.hostWrote (pa / 4) }
  | .vault w off =>
    let wg := s.wgOf w
    if wg.held off then s else s.setWg w { wg with vault := Cells.set 0 wg.vault off b }
  | .peer n off => if s.reachable (s.obj n).home then s.send (.toPeer (s.obj n).home (.ofNat 64 n) off [b]) else s
  | .host i off => s.send (.hostWrite i ((Cells.get HostObj.none s.hostObjs i).addr + off) [b])
  | .virt _ _ => s
  | .drop => s

/-- Write bytes in order. -/
def State.writeAll (s : State) : List (Loc × Byte) → State
  | [] => s
  | (l, b) :: r => State.writeAll (s.writeByte l b) r

/-- Set or clear the poison mark of a byte's granule; a mark travels to the peer whose granule it is (R435). -/
def State.setPoison (s : State) (l : Loc) (p : Bool) : State :=
  match l with
  | .mem pa => { s with memPoison := Cells.set false s.memPoison (pa / 16) p }
  | .vault w off =>
    let wg := s.wgOf w
    s.setWg w { wg with poison := Cells.set false wg.poison (off / 16) p }
  | .peer n off => if p && s.reachable (s.obj n).home then s.send (.poisonPeer (s.obj n).home (.ofNat 64 n) off) else s
  | _ => s

/-- First byte of a byte's granule. -/
def Loc.granule : Loc → Loc
  | .mem pa => .mem (pa / 16 * 16)
  | .vault w off => .vault w (off / 16 * 16)
  | .peer n off => .peer n (off / 16 * 16)
  | l => l

/-- Marks of the granules a write touches: a poisoned source sets them, a write of the whole granule clears them, a partial write
leaves them (R435, R436). -/
def State.markAll (s : State) (l : List (Loc × Byte)) (poison : Bool) : List Loc → State
  | [] => s
  | a :: r =>
    let n := ((l.map Prod.fst).filter (fun x => x.granule == a)).dedup.length
    let s' := if s.dropsWrite a then s else if poison then s.setPoison a true else if n = 16 then s.setPoison a false else s
    State.markAll s' l poison r

/-- Write bytes and keep the marks of their granules. -/
def State.store (s : State) (l : List (Loc × Byte)) (poison : Bool) : State :=
  (s.writeAll l).markAll l poison ((l.map (fun x => x.1.granule)).dedup)

/-- Set granules of a vault window full (R201); held granules are not ordinary data. -/
def State.setFull (s : State) : List Loc → State
  | [] => s
  | .vault w off :: r =>
    let wg := s.wgOf w
    State.setFull (if wg.held off then s else s.setWg w { wg with full := Cells.set false wg.full (off / 16) true }) r
  | _ :: r => State.setFull s r

/-- Bytes of a list of places, as one number. -/
def State.readNat (s : State) (l : List Loc) : Nat := leNat (l.map s.byteAt)

/-! ### Objects (R335) -/

/-- Physical addresses of a run of virtual addresses that touches at most `k` more pages, page by page. -/
def State.transPages (s : State) (ctx : Nat) (write : Bool) : Nat → Nat → Nat → Except Nat (List Nat)
  | 0, _, _ => .ok []
  | k + 1, va, n =>
    let n1 := Nat.min n (65536 - va % 65536)
    match s.translate ctx va write with
    | none => .error va
    | some pa =>
      let l := (List.range n1).map (pa + ·)
      if n1 = n then .ok l
      else match State.transPages s ctx write k (va + n1) (n - n1) with
        | .error e => .error e
        | .ok r => .ok (l ++ r)

/-- Physical addresses of a run of virtual addresses, or the first address whose translation faults. -/
def State.transRun (s : State) (ctx va n : Nat) (write : Bool) : Except Nat (List Nat) := s.transPages ctx write (n / 65536 + 2) va n

/-- The places of a run of bytes of a live object that the device itself reads or writes: no rights, no window; none beyond its extent
or where a page is not mapped, or for a write not writable. -/
def State.keyRun (s : State) (key off n : Nat) (write : Bool := false) : Option (List Loc) :=
  let o := s.obj key
  if !o.live || o.extent < off + n then none
  else if o.home != s.devnum then some ((List.range n).map (fun i => .peer key (off + i)))
  else match s.transRun o.ctx (o.vbase + off) n write with
    | .ok l => some (l.map .mem)
    | .error _ => none

/-- The same for an object of system software. -/
def State.objRun (s : State) (name : DWord) (off n : Nat) (write : Bool := false) : Option (List Loc) := s.keyRun name.toNat off n write

/-- Key of the object that a meeting request names (log 24): the name of a system object, or of the one ALLOCO object of that name. -/
def State.meetKey (s : State) (name : DWord) : Nat :=
  if name.toNat < 2 ^ 61 then ((s.objs.find? (fun e => e.1 % 2 ^ 64 == name.toNat && e.2.live)).map Prod.fst).getD name.toNat else name.toNat

/-- Read a little-endian number from the object of a key; an unmapped byte reads as nothing. -/
def State.keyNat (s : State) (key off n : Nat) : Option Nat := (s.keyRun key off n).map s.readNat

/-- Read a little-endian number from an object; an unmapped byte reads as nothing. -/
def State.objNat (s : State) (name : DWord) (off n : Nat) : Option Nat := (s.objRun name off n).map s.readNat

/-- Write a number into an object; nothing happens where a page is not mapped. -/
def State.objPut (s : State) (name : DWord) (off n v : Nat) : Option State :=
  (s.objRun name off n true).map (fun l => s.store (l.zip (toLE n v)) false)

/-- The object of a meeting that is live drops ordinary writes (R385). -/
def State.meetHeld (s : State) (key : Nat) : Bool := (s.meeting key).live

/-- The checks of the object table, in their order (R235, R335). -/
def State.portCheck (s : State) (ctx : Nat) (c : Cap) (off n : Nat) (caps : Bool) : Option Cause :=
  let o := s.obj (objKey ctx c.name)
  if !o.live || o.gen != c.gen || o.ctx != ctx then some .capinvalid
  else if caps && !o.caparr then some .caprights
  else if o.extent < off + n then some .capbound
  else none

/-! ### Fault records (R343) -/

def FaultRec.bytes (r : FaultRec) (ctxseq : Nat) : List Byte :=
  toLE 8 ctxseq ++ toLE 1 r.kind ++ toLE 1 r.cause ++ toLE 6 0 ++ toLE 4 r.slot ++ toLE 4 r.seq.toNat ++ toLE 8 r.pc.toNat ++
    toLE 8 r.va ++ (r.detail ++ List.replicate 24 0).take 24

/-- What became of a fault record. -/
inductive RecRes where
  | written (s : State)
  | full
  | unmapped

/-- Write a fault record into the context's ring. -/
def State.faultRecord (s : State) (ctx : Nat) (r : FaultRec) : RecRes :=
  let c := s.ctx ctx
  match s.objNat c.fault 0 8, s.objNat c.fault 8 8 with
  | some w, some rd =>
    if c.faultn ≤ w - rd then .full
    else
      match s.objRun c.fault (64 + 64 * (w % c.faultn)) 64 true, s.objRun c.fault 0 8 true with
      | some l, some h =>
        let s := s.store (l.zip (r.bytes (c.ctxseq + 1))) false
        let s := s.store (h.zip (toLE 8 (w + 1))) false
        .written (s.setCtx ctx { c with ctxseq := c.ctxseq + 1 })
      | _, _ => .unmapped
  | _, _ => .unmapped

end Sys2Proof.Machine
end

