-- ==== Sys2Proof/Machine/Link.lean ====
section
/-! DEFINITION. The sender's side of the quay links: flits, the replay buffer, and the port that a request leaves through (R358 to R361). -/

namespace Sys2Proof.Machine

/-! ### Flits (R359) -/

/-- One bit of the reflected CRC-32 of IEEE 802.3. -/
def crcBit (c : Nat) : Nat := if c % 2 = 1 then (c / 2) ^^^ 0xEDB88320 else c / 2

def crcByte (c : Nat) (b : Byte) : Nat := (List.range 8).foldl (fun c _ => crcBit c) (c ^^^ b.toNat)

/-- CRC-32 with the IEEE 802.3 polynomial. -/
def crc32 (l : List Byte) : Nat := l.foldl crcByte 0xFFFFFFFF ^^^ 0xFFFFFFFF

def flitAck (flit : BitVec 512) : Nat := bits flit.toNat 11 0
def flitSeq (flit : BitVec 512) : Nat := bits flit.toNat 23 12
def flitKind (flit : BitVec 512) : Nat := bits flit.toNat 31 24
def flitOk (flit : BitVec 512) : Bool := flit.toNat / 2 ^ 480 == crc32 ((toLE 64 flit.toNat).take 60)

/-- A flit from its fields, with its CRC. -/
def mkFlit (seq ack kind : Nat) (payload : BitVec 448) : BitVec 512 :=
  let body := ack % 4096 + 2 ^ 12 * (seq % 4096) + 2 ^ 24 * (kind % 256) + 2 ^ 32 * payload.toNat
  .ofNat 512 (body + 2 ^ 480 * crc32 (toLE 60 body))

/-! ### Sending, and the replay buffer (R360) -/

/-- Flits that may be unacknowledged. -/
def replayFlits : Nat := 512

/-- Send queued flits while the replay buffer has room: the flits sent, oldest first, and the port. -/
def Port.pump : Nat → Port → List (BitVec 512) × Port
  | 0, p => ([], p)
  | n + 1, p =>
    match p.queue with
    | [] => ([], p)
    | (kind, payload) :: l =>
      if p.down || replayFlits ≤ p.replay.length then ([], p)
      else
        let f := mkFlit p.next p.expect kind payload
        let r := Port.pump n { p with next := (p.next + 1) % 4096, replay := p.replay ++ [f], queue := l }
        (f :: r.1, r.2)

/-- Ask the far end for the flit that is expected: a link-control flit, which names its number in ACKSEQ, goes before what is queued (R360; log 58). -/
def Port.ask (p : Port) : Port := { p with queue := (4, 0) :: p.queue }

/-- Drop the flits that the far end has: those before the number that it expects next. -/
def Port.acked (p : Port) (ack : Nat) : Port :=
  if ack = p.next || p.replay.any (fun f => flitSeq f == ack) then { p with replay := p.replay.dropWhile (fun f => flitSeq f != ack) } else p

/-- Put the flits of a port that may go on its link. -/
def State.pump (s : State) (port : Nat) : State :=
  let r := (s.port port).pump (s.port port).queue.length
  r.1.foldl (fun s f => s.send (.flit port f)) (s.setPort port r.2)

/-! ### Requests to other devices (R361) -/

/-- Port through which a request to a line of a device leaves. -/
def State.portFor (s : State) (dev line : Nat) : Option Nat :=
  let up := s.portsUp dev
  up[line % Nat.max up.length 1]?

/-- Flits that carry `n` bytes. -/
def dataFlits (n : Nat) : List Nat := List.replicate ((n + 55) / 56) 2

/-- What an output puts on the quay links: the device, the line number, and the KINDs of its flits. -/
def Output.flits : Output → Option (Nat × Nat × List Nat)
  | .toPeer dev _ off b => some (dev, off / 64, 1 :: dataFlits b.length)
  | .readPeer dev _ off _ => some (dev, off / 64, [1])
  | .meetRequest dev r => some (dev, 0, 1 :: dataFlits (4 * r.data.length))
  | .meetStatus dev _ b => some (dev, 0, 3 :: dataFlits b.length)
  | .poisonPeer dev _ off => some (dev, off / 64, [1])
  | .collData dev _ b _ => some (dev, 0, 1 :: dataFlits b.length)
  | .collAbort dev _ _ => some (dev, 0, [1])
  | _ => none

/-- Join the bytes that one access writes to one line. -/
def joinLine : List Output → List Output
  | [] => []
  | .toPeer d n o b :: l =>
    match joinLine l with
    | .toPeer d' n' o' b' :: r => if d == d' && n == n' && o / 64 == o' / 64 then .toPeer d n o (b ++ b') :: r else .toPeer d n o b :: .toPeer d' n' o' b' :: r
    | r => .toPeer d n o b :: r
  | o :: l => o :: joinLine l

/-- Form the flits of an output; their payload has no stated form (log 58). -/
def State.formFlits (s : State) (o : Output) : State :=
  match o.flits with
  | none => s
  | some (dev, line, kinds) =>
    match s.portFor dev line with
    | none => s
    | some port =>
      let p := s.port port
      let new := kinds.zipIdx.map (fun e => (e.1, Config.payload s.freeCount (p.next + p.queue.length + e.2)))
      (s.setPort port { p with queue := p.queue ++ new }).pump port

/-- Form the flits of what was sent since this was done last. -/
def State.linkOut (s : State) : State :=
  let n := s.outbox.length - s.flitted
  if n = 0 then s
  else
    let s := (joinLine (s.outbox.take n).reverse).foldl State.formFlits s
    { s with flitted := s.outbox.length }

/-! ### Requests that wait (R361) -/

/-- A request of a host port. -/
def fromHost : Instr → Bool
  | .rdmaWrite _ _ _ _ _ => true
  | .rdmaRead _ _ _ _ _ => true
  | .atomicFetchAdd _ _ _ _ _ => true
  | .atomicCompareSwap _ _ _ _ _ _ => true
  | _ => false

/-- A message of a peer that waits lets later events pass. -/
def inputPasses : Instr → Bool
  | .meetContribution (.remote _) => true
  | .collInstanceStart _ _ => true
  | _ => false

/-- A route entry names a port. -/
def State.routesBy (s : State) (dev port : Nat) : Bool := dev != s.devnum && bit (Cells.get 0 s.routes dev).toNat port

/-- The oldest event that is no host access waits to change the paths to a device: requests issued meanwhile wait. -/
def State.onHold (s : State) (dev : Nat) : Bool :=
  match s.inputs.find? (fun i => !fromHost i) with
  | some (.routeTableWrite d _) => d == dev && dev != s.devnum
  | some (.portDown p) => s.routesBy dev p
  | some (.retrainRequest p) => (s.port p).down && s.routesBy dev p
  | _ => false

/-- A place of a device whose paths are about to change. -/
def State.held (s : State) (l : Loc) : Bool := match l with | .peer n _ => s.onHold (s.obj n).home | _ => false

end Sys2Proof.Machine
end

