-- ==== Sys2Proof/Machine/Replay.lean ====
section
/-! DEFINITION. The replay log (R402 to R405). -/

namespace Sys2Proof.Machine

/-- GID of a group in the log (R403). -/
def Group.logGid (g : Group) : Nat := if g.pedDepth = 0 then g.root.toNat else 2 ^ 63 + g.pedKey

/-- GID of the pilot. -/
def pilotGid : Nat := 2 ^ 64 - 1

/-- The context keeps a replay log: its REPLAY object is live, whatever its deterministic flag (R344, R402). -/
def State.logging (s : State) (ctx : Nat) : Bool := (s.obj (s.ctx ctx).replay.toNat).live

/-- An access to a pinned object of a context finds no page: the context becomes LOST when the step ends (R345). -/
def State.pinFail (s : State) (ctx va : Nat) : State :=
  if s.lostPins.any (fun e => e.1 == ctx) then s else { s with lostPins := s.lostPins ++ [(ctx, va)] }

/-- Write bytes into a context's REPLAY object, which is pinned. -/
def State.logWrite (s : State) (ctx off : Nat) (b : List Byte) : State :=
  let name := (s.ctx ctx).replay
  match s.objRun name off b.length true with
  | some l => s.store (l.zip b) false
  | none => s.pinFail ctx ((s.obj name.toNat).vbase + off)

/-- Set REPLAY-MARKED, with MARKGID and MARKRET, when the flag is clear; in record mode the entries stop with it (R405). -/
def State.markReplay (s : State) (ctx gid ret : Nat) : State :=
  let c := s.ctx ctx
  if c.marked then s
  else
    let s := s.setCtx ctx { c with marked := true, logStop := c.logStop || (s.objNat c.replay 0 1).getD 0 != 1 }
    (s.logWrite ctx 32 (toLE 8 gid)).logWrite ctx 40 (toLE 8 ret)

/-- Bytes of an object; zeros where a page is not mapped. -/
def State.objRead (s : State) (name : DWord) (off n : Nat) : List Byte :=
  match s.objRun name off n with
  | some l => l.map s.byteAt
  | none => List.replicate n 0

/-- Bytes of a log entry with `n` data bytes. -/
def entryBytes (n : Nat) : Nat := 16 + (n + 15) / 16 * 16

/-- Place of the next entry of `len` bytes: an entry never wraps. -/
def entryAt (w cap len : Nat) : Nat := if cap < w % cap + len then w + (cap - w % cap) else w

/-- Meeting instructions of a context whose entry is still to be written (log 56). -/
def State.replayWaiting (s : State) (ctx : Nat) : Nat := (s.meetQ.filter (fun m => m.ctx == ctx && m.packet.isNone)).length

/-- Where the log would stand after the entries of `n` meeting instructions. -/
def afterMeets (cap w n : Nat) : Nat := (List.range n).foldl (fun w _ => entryAt w cap (entryBytes 16) + entryBytes 16) w

/-- After a full log under MARK, entries go on only once system software has reset WIDX and RIDX (R405; log 56). -/
def State.logStops (s : State) (ctx : Nat) : Bool :=
  let c := s.ctx ctx
  c.logStop && !(s.objNat c.replay 8 8 == some 0 && s.objNat c.replay 16 8 == some 0)

/-- Append an entry; none where the log is full and the policy is STALL (R405). Under STALL the room of the waiting meeting instructions is kept,
but for `mine` of them, whose entry this is. -/
def State.replayRecord (s : State) (ctx gid ret kind : Nat) (data : List Byte) (mine : Nat := 0) : Option State :=
  let c := s.ctx ctx
  if c.marked || s.logStops ctx then some s
  else
    match s.objNat c.replay 8 8, s.objNat c.replay 16 8, s.objNat c.replay 24 8 with
    | some w, some r, some cap =>
      let body := toLE 8 ret ++ data
      let len := entryBytes body.length
      let start := entryAt w cap len
      let last := if c.replayMark then start + len else afterMeets cap (start + len) (s.replayWaiting ctx - mine)
      if cap < len || cap < last - r then (if c.replayMark then some (s.markReplay ctx gid ret) else none)
      else
        let bytes := toLE 8 gid ++ toLE 3 0 ++ toLE 1 kind ++ toLE 4 body.length ++ body ++ List.replicate (len - 16 - body.length) 0
        let s := s.setCtx ctx { c with logStop := false }
        some ((s.logWrite ctx (64 + start % cap) bytes).logWrite ctx 8 (toLE 8 (start + len)))
    | _, _, _ => some (s.pinFail ctx (s.obj c.replay.toNat).vbase)

/-- The log's entries from a place on: each one's place, GID, KIND and LEN. Bytes that are no entry are skipped to the ring's end. -/
def State.replayEntries (s : State) (c : Ctx) (cap last : Nat) : Nat → Nat → List (Nat × Nat × Nat × Nat)
  | 0, _ => []
  | n + 1, w =>
    if last ≤ w then []
    else
      let h (o k : Nat) : Nat := (s.objNat c.replay (64 + w % cap + o) k).getD 0
      let len := entryBytes (h 12 4)
      if cap < w % cap + 16 || !(1 ≤ h 11 1 && h 11 1 ≤ 4) || cap < w % cap + len then
        State.replayEntries s c cap last n (w + (cap - w % cap))
      else (w, h 0 8, h 11 1, h 12 4) :: State.replayEntries s c cap last n (w + len)

/-- Every entry of a context's log. -/
def State.replayLog (s : State) (c : Ctx) : List (Nat × Nat × Nat × Nat) :=
  let hd (o : Nat) : Nat := (s.objNat c.replay o 8).getD 0
  if hd 24 = 0 then [] else s.replayEntries c (hd 24) (hd 8) (hd 8 - hd 16) (hd 16)

/-- Data of an entry at a place, after its header. -/
def State.replayData (s : State) (c : Ctx) (w len : Nat) : List Byte :=
  s.objRead c.replay (64 + w % (s.objNat c.replay 24 8).getD 1 + 16) len

/-- The next entry of a GID that has not been taken: its RET, KIND and data, and its place. -/
def State.replayNext (s : State) (ctx gid : Nat) : Option (Nat × Nat × List Byte × Nat) :=
  let c := s.ctx ctx
  ((s.replayLog c).find? (fun e => e.2.1 == gid && !c.replayUsed.contains e.1)).map (fun e =>
    let d := s.replayData c e.1 e.2.2.2
    (leNat (d.take 8), e.2.2.1, d.drop 8, e.1))

/-- The context takes its inputs from the log. -/
def State.replaying (s : State) (ctx : Nat) : Bool :=
  s.logging ctx && !(s.ctx ctx).marked && (s.objNat (s.ctx ctx).replay 0 1).getD 0 == 1

/-- Take the next entry of a GID; none marks the context, by R404. -/
def State.replayTake (s : State) (ctx gid ret kind : Nat) : Option (State × List Byte) :=
  let c := s.ctx ctx
  if c.marked then none
  else
    match s.replayNext ctx gid with
    | none => none
    | some (r, k, d, w) => if k = kind && r = ret then some (s.setCtx ctx { c with replayUsed := w :: c.replayUsed }, d) else none

/-- An input from outside the context: recorded, or taken from the log; none holds the consumer (R403 to R405). -/
def State.replayInput (s : State) (ctx gid ret kind : Nat) (data : List Byte) (mine : Nat := 0) : Option (State × List Byte) :=
  if !s.logging ctx then some (s, data)
  else if (s.objNat (s.ctx ctx).replay 0 1).getD 0 = 1 then
    match s.replayTake ctx gid ret kind with
    | some r => some r
    | none => some (s.markReplay ctx gid ret, data)
  else (s.replayRecord ctx gid ret kind data mine).map (fun s => (s, data))

/-- Room for the entry of one more waiting meeting instruction beside those of the ones that wait (log 56). -/
def State.replayRoom (s : State) (ctx : Nat) : Bool :=
  let c := s.ctx ctx
  let hd (o : Nat) : Nat := (s.objNat c.replay o 8).getD 0
  !s.logging ctx || c.marked || s.logStops ctx || c.replayMark || (s.objNat c.replay 0 1).getD 0 == 1 ||
    afterMeets (hd 24) (hd 8) (s.replayWaiting ctx + 1) ≤ hd 16 + hd 24

/-- A meeting instruction of the group has its entry still to be written or taken: no instruction of the group issues before that, since the
instruction retires after its entry and a replay takes entries in order (R403, R404; log 56). -/
def State.unrecorded (s : State) (gid : Nat) : Bool :=
  let ctx := (s.grp gid).ctx
  s.logging ctx && !(s.ctx ctx).marked && !s.logStops ctx &&
    s.meetQ.any (fun m => m.gid == gid && m.packet.isNone)

/-- The status word that a replay gives a waiting meeting instruction. -/
def State.recordedWord (s : State) (m : MeetWait) : Option DWord :=
  if !s.replaying m.ctx then none
  else
    match s.replayNext m.ctx (s.grp m.gid).logGid with
    | some (r, k, d, _) => if r = m.ret && k = 3 then some (.ofNat 64 (leNat (d.take 8))) else none
    | none => none

end Sys2Proof.Machine
end

