-- ==== Sys2Proof/Machine/Ops.lean ====
section
/-! DEFINITION. Shared operations: crumbs and freezes, engine counters, deferred results, saving, ends and kills, and taking a
trap (R33, R168 to R170, R189, R204, R236, R298, R325, R349 to R353, R413 to R420). -/

namespace Sys2Proof.Machine

/-! ### The event recorder (R413 to R420) -/

/-- Body of a G crumb. -/
def gBody (pc seq : Word) (arg : Nat) : Nat := arg % 2 ^ 16 + 2 ^ 16 * (seq.toNat % 2 ^ 18) + 2 ^ 34 * (pc.toNat / 4)

/-- Body of an M crumb. -/
def mBody (src scseq arg : Nat) : Nat := arg % 2 ^ 27 + 2 ^ 27 * (scseq % 2 ^ 28) + 2 ^ 55 * (src % 2 ^ 9)

/-- Events in a recorder's queue (R416). -/
def recorderQueue : Nat := 64

/-- Kinds of events that the queue never drops: TRAP, EVMARK with its EVDATA, DBGWR and STOP, whose group waits for room before it acts, and the
recorder's own. -/
def waitingCrumb (kind : Nat) : Bool := ([0x01, 0x06, 0x07, 0x08, 0x0A, 0x3D, 0x3E, 0x3F] : List Nat).contains kind

/-- Write a crumb; a frozen recorder, or one whose queue is full, drops and counts it (R416, R420, R421). -/
def Recorder.add (r : Recorder) (cycle ctx kind body : Nat) : Recorder :=
  if r.frozen then { r with dropped := r.dropped + 1 }
  else if recorderQueue ≤ r.busy && !waitingCrumb kind then { r with lost := r.lost + 1 }
  else
    let c : Crumb := .ofNat 128 (body % 2 ^ 64 + 2 ^ 68 * (kind % 2 ^ 6) + 2 ^ 74 * (ctx % 2 ^ 6) + 2 ^ 80 * bits cycle 29 10 +
      2 ^ 100 * (r.cseq % 2 ^ 28))
    let l := r.crumbs ++ [c]
    { r with crumbs := l.drop (l.length - 4096), cseq := (r.cseq + 1) % 2 ^ 28, busy := r.busy + 1 }

/-- A core's event queue is full: what writes a crumb that is never dropped waits (R416). -/
def State.recorderFull (s : State) (core : Nat) : Bool :=
  let r := (s.core core).recorder
  !r.frozen && recorderQueue ≤ r.busy

def State.crumb (s : State) (core ctx kind body : Nat) : State :=
  let c := s.core core
  s.setCore core { c with recorder := c.recorder.add c.cycle ctx kind body }

/-- A crumb about a group's instruction. -/
def State.gcrumb (s : State) (gid kind arg : Nat) : State :=
  let g := s.grp gid
  s.crumb g.core g.ctx kind (gBody g.pc g.seq arg)

/-- The measurement digest (R449). -/
def Trust.digest (t : Trust) : BitVec 256 := sha256 (toLE 32 t.mr0.toNat ++ toLE 32 t.mr1.toNat ++ toLE 32 t.mr2.toNat ++ toLE 32 t.mr3.toNat)

/-- What a capsule keeps of the device as it is at the first origin (R423, R425). -/
def State.freezeNote (s : State) : FreezeNote :=
  { meas := s.trust.digest, lcs := s.trust.lifecycle.code, resets := s.resets
    insts := s.ctxs.filterMap (fun e => if e.2.inst = 0 then none else some (e.1, e.2.inst)) }

/-- Note it, where no origin has done so yet. -/
def State.noteFreeze (s : State) : State := if s.frozenNote.isSome then s else { s with frozenNote := some s.freezeNote }

/-- A core becomes an origin: its FREEZE crumb, and a message to every other live core (R419, R420). -/
def State.freeze (s : State) (core cause ctx : Nat) : State :=
  let s := s.noteFreeze
  let c := s.core core
  let r := c.recorder
  let p := s.physCore core
  if r.frozen then { s with origins := s.origins ++ [⟨p, cause, ctx, 0xFFFFFFF⟩] }
  else
    let at_ := r.cseq
    let r := r.add c.cycle 0 0x3F (mBody p (at_ + 2 ^ 28 - 1) cause)
    let s := s.setCore core { c with recorder := { r with frozen := true, fcycle := c.cycle } }
    let others := (List.range s.liveCores.length).filter (fun i => i != core && !(s.core i).recorder.frozen && !s.freezing.contains i)
    { s with origins := s.origins ++ [⟨p, cause, ctx, at_⟩], freezing := s.freezing ++ others }

/-! ### Outstanding counters (R204) -/

def Group.count (g : Group) (cls : Nat) : Nat := (g.ops.filter (fun o => o.cls == cls)).length

/-- Drop the finished operations that have no older unfinished one of their class. -/
def retireOps : List Nat → List EngineOp → List EngineOp
  | _, [] => []
  | blocked, o :: l =>
    if o.done && !blocked.contains o.cls then retireOps blocked l else o :: retireOps (o.cls :: blocked) l

def State.opStart (s : State) (gid cls : Nat) : Nat × State :=
  let (id, s) := s.fresh
  let g := s.grp gid
  (id, s.setGrp gid { g with ops := g.ops ++ [⟨cls, id, false⟩] })

def State.opDone (s : State) (gid id : Nat) : State :=
  let g := s.grp gid
  if g.ops.any (fun o => o.id == id) then
    s.setGrp gid { g with ops := retireOps [] (g.ops.map (fun o => if o.id == id then { o with done := true } else o)) }
  else s

/-! ### Deferred results (R33, R349, R433) -/

/-- Discard mark of an s register. -/
def sMark (n : Nat) : Nat := 2000 + n

/-- Take marked quads, and a marked s register, out of a result: a debugger's write has taken their place (R433). -/
def Deferred.discard (d : Deferred) (marks : List Nat) : Deferred :=
  let q := d.quads.filter marks.contains
  let s := d.s.filter (fun x => marks.contains (sMark x.1))
  { d with
    v := d.v.filter (fun e => !q.contains (e.1 / 4))
    quads := d.quads.filter (fun x => !q.contains x)
    s := if s.isSome then none else d.s
    skip := d.skip ++ q.map (· / 8) ++ s.toList.map (fun x => 0xB0 + x.1) }

/-- Put a result in flight: its destination is empty until it arrives. The marks of a held load fall on this, the first write of its instruction
(R33, R433). -/
def Group.await (g : Group) (d : Deferred) : Group :=
  let d := d.discard g.discard
  { g with
    vEmpty := Cells.setAll false g.vEmpty (d.quads.map (fun q => (q, true)))
    sEmpty := match d.s with | some e => Cells.set false g.sEmpty e.1 true | none => g.sEmpty
    pending := g.pending ++ [d] }

/-- Write a deferred result into the group's registers. -/
def Group.arrive (g : Group) (d : Deferred) : Group :=
  let g := { g with
    v := Cells.setAll 0 g.v (d.v.map (fun (e : Nat × Word × Bool) => (e.1, e.2.1)))
    vPoison := Cells.setAll false g.vPoison (d.v.map (fun (e : Nat × Word × Bool) => (e.1, e.2.2)))
    vEmpty := Cells.setAll false g.vEmpty (d.quads.map (fun q => (q, false)))
    markLevel := Cells.setAll 0 g.markLevel ((d.v.filter (fun e => e.2.2)).map (fun (e : Nat × Word × Bool) => (e.1, d.level)))
    mode := if d.div && d.dz then g.mode ||| 0x800 else g.mode }
  match d.s with
  | some (n, v, p) =>
    { g with sEmpty := Cells.set false g.sEmpty n false, s := Cells.set 0 g.s n v, sPoison := Cells.set false g.sPoison n p
             markLevel := if p then Cells.set 0 g.markLevel (8192 + n) d.level else g.markLevel }
  | none => g

def Group.arriveAll (g : Group) : Group := { g.pending.foldl Group.arrive g with pending := [] }

/-! ### Save slots (R347, R349) -/

/-- Save slots of a context that serve a group. -/
def State.usedSlots (s : State) (ctx : Nat) : List Nat := s.groups.filterMap (fun e => if e.2.ctx == ctx then e.2.slot else none)

/-- Smallest number not in a list. -/
def leastFree (used : List Nat) : Nat := ((List.range (used.length + 1)).find? (fun n => !used.contains n)).getD 0

def State.freeSlot (s : State) (ctx : Nat) : Option Nat :=
  let n := leastFree (s.usedSlots ctx)
  if n < (s.ctx ctx).saven then some n else none

/-- The save slot of a group: its own, or the lowest free one. -/
def State.slotOf (s : State) (gid : Nat) : Option Nat := (s.grp gid).slot <|> s.freeSlot (s.grp gid).ctx

/-- Slot field of a fault record: a live group's slot, which stays its own; none where the context has no free slot. -/
def State.nameSlot (s : State) (gid : Nat) : Option (Nat × State) :=
  if (s.grp gid).status == .none then some (0xFFFFFFFF, s)
  else (s.slotOf gid).map (fun n => (n, s.setGrp gid { s.grp gid with slot := some n }))

def SaveKind.code : SaveKind → Nat
  | .soft => 0 | .safe => 1 | .hard => 2 | .evict => 3 | .handle => 4

/-- Keep the registers of a live mask; the others read as zero and full after the restore (R133). -/
def Group.keepMask (g : Group) (mv : BitVec 176) (ms : BitVec 48) : Group :=
  { g with
    v := g.v.filter (fun e => bit mv.toNat (e.1 / 32))
    vEmpty := g.vEmpty.filter (fun e => bit mv.toNat (e.1 / 8))
    vPoison := g.vPoison.filter (fun e => bit mv.toNat (e.1 / 32))
    s := g.s.filter (fun e => bit ms.toNat e.1)
    sEmpty := g.sEmpty.filter (fun e => bit ms.toNat e.1)
    sPoison := g.sPoison.filter (fun e => bit ms.toNat e.1) }

/-- A QROUND `.wait` without an answer, held at the unit or paused on a page: a save cancels it (R396). -/
def MeetWait.cancels (m : MeetWait) : Bool := m.held || (m.req.op == 3 && m.paused.isSome)

/-- Meeting requests of a group that are not answered yet; a save waits for them (R396). -/
def State.meetPending (s : State) (gid : Nat) : Bool := s.meetQ.any (fun m => m.gid == gid && m.packet.isNone && !m.cancels)

/-- Status word of a cancelled QROUND (R392, R396). -/
def cancelled (cur : Nat) : DWord := .ofNat 64 (8 + 2 ^ 32 * cur)

/-- DISCARD crumbs of a group's results that a debugger's write has replaced, with the debug name of their instruction (R415, R433). -/
def State.discarded (s : State) (gid : Nat) (pc seq : Word) (codes : List Nat) : State :=
  codes.foldl (fun s c => s.crumb (s.grp gid).core (s.grp gid).ctx 0x09 (gBody pc seq c)) s

/-- Write the status word of a meeting instruction into its register, or discard it (R433). -/
def State.meetDone (s : State) (m : MeetWait) (w : DWord) : State :=
  let code := 0xB0 + m.dst
  if 48 ≤ m.dst then s
  else if m.skip then s.discarded m.gid m.pc m.seq [code]
  else
    s.setGrp m.gid ((s.grp m.gid).arrive
      { load := false, v := [], quads := [], s := some (m.dst, w, false), div := false, dz := false, pc := m.pc, seq := m.seq, skip := [], level := 0 })

/-- Cancel a QROUND `.wait`: its replay entry comes first (R403), and a replay that holds another word for it ends there (R404). None while the
entry cannot be written. -/
def State.cancelRound (s : State) (gid : Nat) (m : MeetWait) : Option State :=
  let w := toLE 8 (cancelled ((s.keyNat (s.meetKey m.req.obj) 12 4).getD 0)).toNat
  let other := match s.recordedWord m with | some w => w.toNat % 256 != 8 | none => false
  let logGid := (s.grp gid).logGid
  (if other then some (s.markReplay m.ctx logGid m.ret, w) else s.replayInput m.ctx logGid m.ret 3 w 1).map (fun r =>
    r.1.meetDone m (.ofNat 64 (leNat (r.2.take 8))))

/-- Cancel requests one after another. -/
def State.cancelEach (s : State) (gid : Nat) : List MeetWait → Option State
  | [] => some s
  | m :: l => (s.cancelRound gid m).bind (fun s => State.cancelEach s gid l)

/-- Cancel the group's QROUND `.wait` without an answer (R396). -/
def State.cancelRounds (s : State) (gid : Nat) : Option State :=
  (s.cancelEach gid (s.meetQ.filter (fun m => m.gid == gid && m.packet.isNone && m.cancels))).map (fun s =>
    { s with meetQ := s.meetQ.filter (fun m => !(m.gid == gid && m.packet.isNone && m.cancels)) })

/-! ### Task-table entries (R188, R189) -/

/-- The strand element of a position (R172). -/
def strandElem (blk idx : Nat) : Word := .ofNat 32 (2 ^ 31 + 2 ^ 16 * blk + idx)

/-- A free task-table entry for a strand; index 0, and RACECHK-DEGRADED, where none is free. -/
def State.newEntry (s : State) (gid : Nat) (recNo : Nat) (elem : Word) : Nat × State :=
  let used := s.tasks.filterMap (fun e => if e.2.state != 0 then some e.1 else none)
  let n := leastFree (0 :: used)
  let g := s.grp gid
  if n < 2 ^ 20 then (n, s.setTask n { s.task n with selem := elem, state := 1, ctx := g.ctx, fwd := 0, record := recNo, lid := g.lid })
  else (0, s.setCtx g.ctx { s.ctx g.ctx with degraded := true })

def State.entryState (s : State) (n st fwd : Nat) : State :=
  if n = 0 then s else s.setTask n { s.task n with state := st, fwd := fwd }

/-- Forward every entry of a list to one entry. -/
def State.forward (s : State) (l : List Nat) (target : Nat) : State :=
  l.foldl (fun s n => if n == target then s else s.entryState n 3 target) s

/-! ### Views (R183 to R186) -/

/-- Reducer declaration fields (R307). -/
def redKind (d : BitVec 128) : Nat := d.toNat % 4
def redOp (d : BitVec 128) : Nat := bits d.toNat 7 4
def redEty (d : BitVec 128) : Nat := bits d.toNat 12 10
def redRnd (d : BitVec 128) : Nat := bits d.toNat 15 13
def redCount (d : BitVec 128) : Nat := bits d.toNat 43 32 + 1
def redCap (d : BitVec 128) : Nat := bits d.toNat 63 56
def redOfs (d : BitVec 128) : Nat := d.toNat / 2 ^ 64

/-- Less-than of MINI and MAXI values by element type: .i32, .n32, .f32. -/
def miLt (ety : Nat) (a b : Word) : Bool :=
  match ety with
  | 0 => a.slt b
  | 1 => a.ult b
  | _ => (fp32.decode a.toNat).lt (fp32.decode b.toNat)

/-- The better of two MINI or MAXI elements, the left one on a tie; a NaN loses against any number (R183). -/
def miPick (op ety : Nat) (a b : Option (Word × Word)) : Option (Word × Word) :=
  match a, b with
  | none, y => y
  | x, none => x
  | some x, some y =>
    let nan (w : Word) : Bool := ety == 2 && (fp32.decode w.toNat).isNan
    if nan x.1 then (if nan y.1 then some x else some y)
    else if nan y.1 then some x
    else if op == 2 then (if miLt ety y.1 x.1 then some y else some x)
    else (if miLt ety x.1 y.1 then some y else some x)

def bitOp (op : Nat) (a b : DWord) : DWord :=
  match op with
  | 4 => a &&& b
  | 5 => a ||| b
  | _ => a ^^^ b

/-- Combine two views in serial order, left before right (R183). -/
def View.combine (d : BitVec 128) : View → View → View
  | .missing, y => y
  | x, .missing => x
  | .exact a, .exact b => .exact (List.zipWith XA.add a b)
  | .minmax a, .minmax b => .minmax (List.zipWith (miPick (redOp d) (redEty d)) a b)
  | .bits a, .bits b => .bits (List.zipWith (bitOp (redOp d)) a b)
  | .items a, .items b => .items (a ++ b)
  | .log a, .log b => .log (a ++ b)
  | x, _ => x

/-- The 16 reducers and the log. -/
def viewKeys : List Nat := List.range 17

/-- Combine all views of two parts of a block. -/
def combineViews (reds : List (BitVec 128)) (a b : Views) : Views :=
  Cells.setAll View.missing [] (viewKeys.map (fun k => (k, View.combine (reds.getD k 0) (Cells.get View.missing a k) (Cells.get View.missing b k))))

/-- A block with no child: nothing to wait for (R296). -/
def Block.noChild (b : Block) : Bool := b.items.all (fun m => match m with | .strand _ _ => true | .child _ _ _ => false)

/-- Every member has been combined. -/
def Block.merged (b : Block) : Bool := b.closing && b.items.isEmpty

/-- Combine the first member of a closing block, when it is a strand or has ended (R185). -/
def Block.mergeOne (reds : List (BitVec 128)) (b : Block) : Block :=
  match b.items with
  | .strand _ v :: r => { b with items := r, acc := combineViews reds b.acc v }
  | .child _ true v :: r => { b with items := r, acc := combineViews reds b.acc v }
  | _ => b

def Block.mergeAll (reds : List (BitVec 128)) : Nat → Block → Block
  | 0, b => b
  | n + 1, b => Block.mergeAll reds n (b.mergeOne reds)

/-- Close a block: its members are combined in order; members that have not ended stay. -/
def State.closeBlock (s : State) (id : Nat) : State :=
  let b := s.block id
  let reds := (s.launch b.lid).lrec.reds
  let b := { b with closing := true }
  s.setBlock id (if b.noChild then b.mergeAll reds b.items.length else b)

/-- Give a child's final views to its parent's block, with its entries. -/
def State.childEnded (s : State) (parent recNo : Nat) (views : Views) (entries : List Nat) : State :=
  let p := s.block parent
  s.setBlock parent { p with
    items := p.items.map (fun m => match m with | .child r e v => if r == recNo then .child r true views else .child r e v | .strand n v => .strand n v)
    entries := entries ++ p.entries }

/-- Give the space of some views back. -/
def State.freeViews (s : State) (p : ViewSpace → Bool) : State := { s with viewSpaces := s.viewSpaces.filter (fun v => !p v) }

/-- The implicit SYNC of a task or grid group is complete: entries are forwarded to the last strand's, and the final views go to the
parent or to the launch (R186, R189, R297, R298). -/
def State.finishBlock (s : State) (id : Nat) : State :=
  let b := s.block id
  let last := b.entries.getLastD 0
  let s := s.forward b.entries last
  let s := s.entryState last 2 0
  let views := if b.killed then [] else b.acc
  let s := if b.killed then s.freeViews (fun v => v.lid == b.lid && v.recNo == b.recNo) else s
  let s := match b.parent with
    | some p => s.childEnded p b.recNo views [last]
    | none =>
      let l := s.launch b.lid
      s.setLaunch b.lid { l with finals := l.finals ++ [(b.wid, views)] }
  s.setBlock id Block.blank

/-! ### Ends of groups and workgroups (R168 to R170, R298) -/

/-- A group has no pending store and no side-log entry: what a release waits for (R218, R222). -/
def State.quietOf (s : State) (gid : Nat) : Bool := !s.stores.any (fun p => p.gid == gid) && !s.sideLog.any (fun p => p.gid == gid)

/-- A group that holds a berth. -/
def Group.resident (g : Group) : Bool := g.status == .running || g.status == .ending

/-- Owner code of a line lock: a workgroup, or a task's group (R260). -/
def lockOwner (g : Group) (gid : Nat) : Nat :=
  match g.wg with
  | some w => 2 * w + 1
  | none => 2 * gid + 2

/-- An owner has a store that is not performed. -/
def State.owes (s : State) (owner : Nat) : Bool := s.stores.any (fun p => p.owner == owner) || s.sideLog.any (fun p => p.owner == owner)

/-- Release every line an owner holds, once its stores are performed, as a LUNLK after them does (R170, R261). -/
def State.unlockAll (s : State) (owner : Nat) : State :=
  if s.owes owner then { s with unlocking := owner :: s.unlocking } else { s with locks := s.locks.filter (fun e => e.2 != owner) }

/-- Release the lines of ended owners whose stores are all performed. -/
def State.settleLocks (s : State) : State :=
  let l := s.unlocking
  l.foldl State.unlockAll { s with unlocking := [] }

/-- A copy that names a workgroup's vault. -/
def Copy.names (c : Copy) (w : Nat) : Bool := c.srcVault == some w || c.dstVault == some w

/-- Buffer handle that a copy names; 0xFFFF for none (R209). -/
def Copy.handle (c : Copy) : Nat := c.image.toNat / 2 ^ 400 % 2 ^ 16

/-- A copy in progress of a workgroup names a handle. -/
def State.handleBusy (s : State) (w n : Nat) : Bool := s.cores.any (fun e => e.2.copies.any (fun c => c.wg == some w && c.handle == n))

def State.vaultBusy (s : State) (w : Nat) : Bool :=
  s.cores.any (fun e => e.2.copies.any (fun c => c.names w)) ||
    s.colls.any (fun e => e.2.live && e.2.members.any (fun m => m.wg == some w && !m.done))

/-- Return the window once no engine command names it, with the crumb of that step: the window with its tile registers and regions counts as one
item (R170 step 5; log 65). -/
def State.reap (s : State) (w : Nat) : State :=
  let wg := s.wgOf w
  if wg.live && wg.members.isEmpty && !s.vaultBusy w then
    let s := s.setWg w Workgroup.blank
    if wg.size = 0 then s else s.crumb wg.core wg.ctx 0x13 (gBody wg.last.1 wg.last.2 (5 + 8))
  else s

/-- Devices of the ranks of a communicator, but for this one (R367). -/
def State.otherDevices (s : State) (comm : DWord) (nmem : Nat) : List Nat :=
  (((List.range nmem).map (fun r => ((s.objNat comm (64 + 4 * r) 4).map (· % 256)).getD s.devnum)).filter (· != s.devnum)).eraseDups

/-- Break the collectives of killed members that no member has completed: the kill sends an abort to the other devices (R376). -/
def State.breakWhere (s : State) (hit : CollMember → Bool) : State :=
  let broken (c : CollInst) : Bool := c.live && c.members.any (fun m => hit m && !m.done) && c.members.all (fun m => !m.done) &&
    (c.status == none || c.status == some 0)
  let aborts := s.colls.flatMap (fun e => if broken e.2 then (s.otherDevices e.2.comm e.2.nmem).map (fun d => Output.collAbort d e.2.comm e.2.tag) else [])
  { s with colls := s.colls.map (fun e => (e.1, if broken e.2 then { e.2 with status := some 2 } else e.2))
           outbox := aborts.reverse ++ s.outbox }

/-- Break the collectives of a killed workgroup. -/
def State.breakColls (s : State) (w : Nat) : State := s.breakWhere (fun m => m.wg == some w)

/-- Waiters on an ABAR object of a workgroup. -/
def State.abarWaiters (s : State) (w off : Nat) : List Nat :=
  s.groups.filterMap (fun e => match e.2.wait with
    | .abar w' o _ => if w' == w && o == off then some e.1 else none
    | _ => none)

/-- Every waiter on an ABAR object will raise BARBROKEN. -/
def State.breakWaiters (s : State) (w off : Nat) : State :=
  (s.abarWaiters w off).foldl (fun s gid => s.setGrp gid { s.grp gid with wait := .broken }) s

/-- Break the ABAR objects of a workgroup that have a waiter, free the others (R170 step 2). -/
def State.breakAbars (s : State) (w : Nat) : Nat × State :=
  let wg := s.wgOf w
  let broken := wg.abars.filter (fun o => !(s.abarWaiters w o).isEmpty)
  let vault := broken.foldl (fun v o => Cells.set 0 v (o + 3) ((Cells.get 0 v (o + 3)) ||| 0x10)) wg.vault
  (broken.length, wg.abars.foldl (fun s o => s.breakWaiters w o) (s.setWg w { wg with vault := vault, abars := [] }))

/-- Write a number into bytes of a window that an ordinary write would be dropped at. -/
def Workgroup.poke (w : Workgroup) (off n v : Nat) : Workgroup :=
  { w with vault := Cells.setAll 0 w.vault ((toLE n v).zipIdx.map (fun e => (off + e.2, e.1))) }

def Workgroup.peek (w : Workgroup) (off n : Nat) : Nat := leNat ((List.range n).map (fun i => Cells.get 0 w.vault (off + i)))

/-- Stop the ring: its commands, the running one at its interruption point, retire with status 1 in its header (R170 step 3, R280, R288). -/
def Workgroup.stopRing (w : Workgroup) : Workgroup :=
  match w.ring with
  | none => w
  | some r =>
    let widx := w.peek r.base 4
    if w.peek (r.base + 4) 4 = widx then w
    else
      let last := w.peek (r.base + 256 + 64 * ((widx + 2 ^ 32 - 1) % 2 ^ 32 % r.n) + 4) 4
      let w := ((w.poke (r.base + 8) 4 1).poke (r.base + 12) 4 last).poke (r.base + 4) 4 widx
      { w with ring := some { r with run := none, owners := [] } }

/-- The release steps of R170, with a crumb for each step that releases anything. What an engine command still names goes with the window, whose
own step follows (`State.reap`). -/
def State.releaseWg (s : State) (w gid : Nat) : State :=
  let note (s : State) (step n : Nat) : State := if n = 0 then s else s.gcrumb gid 0x13 (step + 8 * n)
  let owner := 2 * w + 1
  let n1 := (s.locks.filter (fun e => e.2 == owner)).length
  let s := note (s.unlockAll owner) 1 n1
  let all := (s.wgOf w).abars.length
  let (_, s) := s.breakAbars w
  let s := note s 2 all
  let wg := s.wgOf w
  let n3 := (match wg.ring with | some r => r.owners.length | none => 0)
  let s := note (s.setWg w wg.stopRing) 3 n3
  let wg := s.wgOf w
  let (stay, go) := wg.handles.partition (fun h => s.handleBusy w h.1)
  let n4 := (go.filter (fun h => h.2.state != 0)).length
  let s := note (s.setWg w { wg with handles := stay, last := ((s.grp gid).pc, (s.grp gid).seq) }) 4 n4
  s.reap w

/-- Take a group out of the machine: results in flight, loads, streams and counters go; accepted stores and engine commands stay
(R168). -/
def State.dropGroup (s : State) (gid : Nat) : State :=
  { s with
    groups := Cells.del s.groups gid
    walks := s.walks.filter (fun w => !(w.gid == gid && w.kind == 1))
    meetQ := s.meetQ.filter (fun m => !(m.gid == gid && m.packet.isNone && m.cancels)) }

/-- A phase of BAR in which every remaining member has arrived is complete (R248). -/
def Workgroup.settle (w : Workgroup) : Workgroup :=
  if !w.members.isEmpty && !w.arrived.isEmpty && w.members.all (fun m => w.arrived.contains m) then { w with phase := w.phase + 1, arrived := [] } else w

/-- The block of an ending group, its strand ended (R189), closed and, where nothing is outstanding, finished at once; a task's end waits for its stores
(R298). -/
def State.endBlock (s : State) (gid : Nat) (killed : Bool) : State :=
  let g := s.grp gid
  let b := s.block g.block
  if !b.live then s else
  let s := s.setBlock g.block { b with ending := true, killed := b.killed || killed, core := g.core }
  let s := (s.entryState g.entry 2 0).closeBlock g.block
  if (s.block g.block).merged && s.quietOf gid then s.finishBlock g.block else s

/-- Leave the workgroup, the launch and the lane pair. The last group to leave ends the workgroup; a kill releases it in one go (R170). -/
def State.leave (s : State) (gid : Nat) (killed : Bool) : State :=
  let g := s.grp gid
  let s := s.gcrumb gid 0x03 (if killed then 1 else 0)
  let l := s.launch g.lid
  let s := s.setLaunch g.lid { l with groups := l.groups - 1, killed := l.killed }
  match g.wg with
  | some w =>
    let wg := s.wgOf w
    let wg := { wg with members := wg.members.filter (· != gid), arrived := wg.arrived.filter (· != gid) }
    let s := s.setWg w (if killed then { wg with broken := true, killed := true } else wg.settle)
    let s := if !killed && wg.members.isEmpty then s.releaseWg w gid else s
    s.dropGroup gid
  | none =>
    let n := (s.locks.filter (fun e => e.2 == 2 * gid + 2)).length
    let s := if n = 0 then s else s.gcrumb gid 0x13 (1 + 8 * n)
    let s := s.unlockAll (2 * gid + 2)
    s.dropGroup gid

/-- A group ends by TEXIT, or by an EXIT with nothing outstanding (R168, R297). -/
def State.endGroup (s : State) (gid : Nat) : State := (s.endBlock gid false).leave gid false

/-- Kill one group (R168, R298). -/
def State.killOne (s : State) (gid : Nat) : State :=
  let s := if (s.grp gid).pedDepth != 0 then s.gcrumb gid 0x15 0 else s
  (s.endBlock gid true).leave gid true

/-- Disposition of a cause in a launch record: 0 HANDLE, 1 KILLGROUP, 2 FATAL. -/
def LaunchRec.disposition (r : LaunchRec) (c : Cause) : Nat := bits r.traps.toNat (2 * c.code + 1) (2 * c.code)

/-- A member that waits at a barrier which the kill of its workgroup `w` breaks: it raises BARBROKEN. -/
def Group.breaksAt (g : Group) (w : Nat) : Bool :=
  match g.wait with | .barrier _ => true | .barrierOpen => true | .broken => true | .abar w' _ _ => w' == w | _ => false

/-- Such a member raises BARBROKEN with its disposition: HANDLE owes a trap record, which names no slot, since the member ends as a killed group
and nothing is saved; FATAL freezes the recorder (R169, R170, R325; log 51). -/
def State.barBroken (s : State) (w gid : Nat) : State :=
  let g := s.grp gid
  if !g.breaksAt w then s
  else
    let d := (s.launch g.lid).lrec.disposition .barbroken
    let s := s.gcrumb gid 0x01 (Cause.barbroken.code + 256 * d)
    match d with
    | 0 => { s with owed := s.owed ++ [⟨g.ctx, g.core, ⟨4, Cause.barbroken.code, 0xFFFFFFFF, g.seq, g.pc, 0, []⟩, false⟩] }
    | 1 => s
    | _ => s.freeze g.core Cause.barbroken.code g.ctx

/-- Kill a group, and with it the surviving groups of its workgroup (R168 to R170). -/
def State.killMembers (s : State) (gid : Nat) : State :=
  match (s.grp gid).wg with
  | some w =>
    let rest := (s.wgOf w).members.filter (· != gid)
    let s := (s.setWg w { s.wgOf w with broken := true, killed := true }).releaseWg w gid
    let s := rest.foldl (fun s m => (s.barBroken w m).killOne m) (s.killOne gid)
    (s.breakColls w).reap w
  | none => s.killOne gid

/-- Kill a context: its groups and workgroups, side-log entries, saved slots, queues and launches (R353). Copies that were accepted complete
(R168), but for those paused on a page, which nothing resumes (log 52). -/
def State.killCtx (s : State) (ctx : Nat) (st : CtxState) : State :=
  let mine := s.groups.filterMap (fun e => if e.2.ctx == ctx then some e.1 else none)
  let s := mine.foldl (fun s gid => if (s.grp gid).status == .none then s else s.killMembers gid) s
  let s := s.breakWhere (fun m => m.ctx == ctx)
  let s : State := { s with cores := s.cores.map (fun e => (e.1, { e.2 with copies := e.2.copies.filter (fun c => c.ctx != ctx || c.paused.isNone) })) }
  let s := s.wgs.foldl (fun s e => if e.2.ctx == ctx then s.reap e.1 else s) s
  let c := s.ctx ctx
  let s := s.setCtx ctx { c with state := st, imageCopies := [] }
  { s with
    sideLog := s.sideLog.filter (fun p => p.ctx != ctx)
    walks := s.walks.filter (fun w => w.ctx != ctx)
    graphs := s.graphs.filter (fun r => r.ctx != ctx)
    overflow := s.overflow.filter (fun e => e.1 / 512 != ctx)
    viewSpaces := s.viewSpaces.filter (fun v => v.ctx != ctx)
    cores := s.cores.map (fun e => (e.1, { e.2 with deque := e.2.deque.filter (fun d => (s.launch (bits d.toNat 319 256)).ctx != ctx) }))
    blocks := s.blocks.filter (fun e => (s.launch e.2.lid).ctx != ctx)
    launches := s.launches.map (fun e => (e.1, if e.2.ctx == ctx && e.2.live then { e.2 with killed := true } else e.2)) }

/-- A member of the group's workgroup raises BARBROKEN under FATAL when the group is killed. -/
def State.killIsFatal (s : State) (gid : Nat) : Bool :=
  match (s.grp gid).wg with
  | some w => ((s.wgOf w).members.filter (· != gid)).any (fun m =>
      (s.grp m).breaksAt w && 2 ≤ (s.launch (s.grp m).lid).lrec.disposition .barbroken)
  | none => false

/-- Kill a group with its workgroup; a BARBROKEN under FATAL that this raises kills the context as well (R169, R325; log 51). -/
def State.killGroup (s : State) (gid : Nat) : State :=
  let t := s.killMembers gid
  if s.killIsFatal gid then t.killCtx (s.grp gid).ctx .killed else t

/-- Address of a context's fault ring. -/
def State.faultVa (s : State) (ctx : Nat) : Nat := (s.obj (s.ctx ctx).fault.toNat).vbase

/-- A context becomes LOST: the recorder freezes with a core of it as the origin, then the context is killed (R351, R353, R419). -/
def State.lostCtx (s : State) (ctx core : Nat) (c : Cause) : State := (s.freeze core c.code ctx).killCtx ctx .lost

/-- A context becomes LOST by an event that no other crumb stands for: a FAULT crumb of KIND 5 goes before the FREEZE (R415, R419; log 42). -/
def State.lostAlone (s : State) (ctx core : Nat) (c : Cause) : State :=
  (s.crumb core ctx 0x10 (gBody 0 0 (5 + 256 * c.code))).lostCtx ctx core c

/-- Write a fault record that is owed, with its crumb; it stays owed while the ring is full (R343). A context to be LOST is LOST with it, and
so is one whose fault ring is unmapped (R345). -/
def State.payOne (s : State) (o : Owed) : State :=
  match s.faultRecord o.ctx o.body with
  | .full => if s.owed.contains o then s else { s with owed := s.owed ++ [o] }
  | .unmapped => s.lostAlone o.ctx o.core .page
  | .written s =>
    let s := s.crumb o.core o.ctx 0x10 (gBody o.body.pc o.body.seq (o.body.kind + 256 * o.body.cause))
    if o.lose then s.lostCtx o.ctx o.core .page else s

/-- Write the owed records that find room, in order. -/
def State.payOwed (s : State) : State :=
  let l := s.owed
  l.foldl State.payOne { s with owed := [] }

/-- A context becomes LOST by an access to a pinned address, with a KIND 5 record that names who made the access: a save slot, PC and SEQ where
a group did (R345). -/
def State.loseCtx (s : State) (ctx core va : Nat) (who : Nat × Word × Word := (0xFFFFFFFF, 0, 0)) : State :=
  s.payOne ⟨ctx, core, ⟨5, Cause.page.code, who.1, who.2.2, who.2.1, va, []⟩, true⟩

/-- A group as a fault record names it. -/
def State.nameOf (s : State) (gid : Nat) (pc seq : Word) : (Nat × Word × Word) × State :=
  match s.nameSlot gid with
  | some (n, s) => ((n, pc, seq), s)
  | none => ((0xFFFFFFFF, pc, seq), s)

/-- An address of a pinned object of a context has no translation. -/
def State.pinGone (s : State) (ctx : Nat) (name : DWord) (off : Nat) (write : Bool) : Bool :=
  let o := s.obj name.toNat
  o.live && o.home == s.devnum && (s.translate ctx (o.vbase + off) write).isNone

/-- An engine's access to a page that is not mapped waits: a walk on its behalf, one for each access and page; `who` names the access
(R340, R343). -/
def State.engineFault (s : State) (ctx core va : Nat) (write : Bool) (who : Nat) : State :=
  if s.engFaults.contains (ctx, va / 65536, who) then s
  else { s with engFaults := (ctx, va / 65536, who) :: s.engFaults
                walks := s.walks ++ [⟨s.dieOf core, 2 ^ 64 + who, ctx, va, write, 3, 0, 0, 0⟩] }

/-- The lowest place for `len` bytes between two bounds beside the runs in use. -/
def firstFit (used : List (Nat × Nat)) (lo hi len : Nat) : Option Nat :=
  ((lo :: used.map (fun u => u.1 + u.2)).filter (fun a => lo ≤ a && a + len ≤ hi && used.all (fun u => a + len ≤ u.1 || u.1 + u.2 ≤ a))).min?

/-! ### Saving a group (R262, R349) -/

/-- Bytes of a core image in the save area (R347). -/
def coreImage : Nat := 1343488

/-- Save a group between instructions (R349): its deferred results are written first; a group held by a fault stays at the
faulting instruction; waits of BAR, ABAR, SYNC, GROW, WAITC and buffer handles, and the hold of a load, stay
(R262, R349). A context whose save area is
unmapped there is LOST (R345). None when no slot is free, a meeting request is unanswered, or the entry of a cancelled one cannot be written. -/
def State.saveAt (s : State) (gid : Nat) (how : SaveKind) (slot : Option Nat) : Option State :=
  match slot with
  | none => none
  | some slot =>
    let c := s.ctx (s.grp gid).ctx
    let at_ := coreImage * (s.partCores (s.grp gid).ctx).length + 32768 * slot
    if s.meetPending gid then none
    else if s.pinGone (s.grp gid).ctx c.save at_ true then
      some (s.loseCtx (s.grp gid).ctx (s.grp gid).core ((s.obj c.save.toNat).vbase + at_) (slot, (s.grp gid).pc, (s.grp gid).seq))
    else
    (s.cancelRounds gid).map (fun s =>
    let s := (s.grp gid).pending.foldl (fun s d => s.discarded gid d.pc d.seq d.skip) s
    let g := (s.grp gid).arriveAll
    let g := match how, g.saveMask with
      | .safe, some (mv, ms) => g.keepMask mv ms
      | _, _ => g
    let bad := how == .hard && g.saveMask.isSome
    let g := { g with
      status := .saved slot how
      slot := some slot
      saveMask := none
      wait := (match g.wait with
               | .barrier p => .barrier p
               | .barrierOpen => .barrierOpen
               | .broken => .broken
               | .abar w o p => .abar w o p
               | .sync => .sync
               | .growth n => .growth n
               | .waitc => .waitc
               | .buffer => .buffer
               | .hold va => .hold va
               | _ => .none) }
    (s.gcrumb gid 0x04 (how.code + (if bad then 256 else 0))).setGrp gid g)

/-- Save a group into the lowest free slot. -/
def State.save (s : State) (gid : Nat) (how : SaveKind) : Option State := s.saveAt gid how (s.slotOf gid)

/-! ### Taking a trap (R236, R325, R343, R352) -/

/-- Wait without effect: the instruction issues again later. -/
def State.stall (s : State) (w : Wait) : State :=
  let g := s.g
  { s.setG { g with wait := w } with stalled := true }

/-- Take a trap of the current group: `pc` is the trapping instruction, `cont` where CTXOP `.trapres` continues (R352). Under HANDLE
a fault record is written, unless the cause's own record stands for it, and the group is saved at `retry`, in the wait that an asynchronous trap finds it
in; KILLGROUP kills the group; FATAL freezes the recorder and kills the context. -/
def State.takeTrap (s : State) (c : Cause) (pc retry cont : Word) (seq : Word) (detail : List Byte) : State :=
  let g := s.g
  let d := (s.launch g.lid).lrec.disposition c
  let crumbed : State := { s.crumb g.core g.ctx 0x01 (gBody pc seq (c.code + 256 * d)) with trapped := true }
  if s.recorderFull g.core then s.stall .recorder else
  match d with
  | 0 =>
    match s.slotOf s.cur with
    | none => s.stall .ringFull
    | some slot =>
      if s.meetPending s.cur || (s.cancelRounds s.cur).isNone then s.stall .ringFull else
      let rec4 : RecRes := if c = .race then .written crumbed else crumbed.faultRecord g.ctx ⟨4, c.code, slot, seq, pc, 0, detail⟩
      match rec4 with
      | .full => s.stall .ringFull
      | .unmapped => crumbed.lostCtx g.ctx g.core .page
      | .written s =>
        let s := if c = .race then s else s.crumb g.core g.ctx 0x10 (gBody pc seq (4 + 256 * c.code))
        let s := s.setG { s.g with pc := retry, contPc := cont, wait := if retry = cont then s.g.wait else .none }
        (s.saveAt s.cur .handle (some slot)).getD s
  | 1 => crumbed.killGroup s.cur
  | _ => (crumbed.freeze g.core c.code g.ctx).killCtx g.ctx .killed

/-- A precise trap of an instruction of `len` bytes: the instruction has no effect (R77). -/
def State.trap (s : State) (c : Cause) (len : Nat) : State :=
  let g := s.g
  s.takeTrap c g.pc g.pc (g.pc + .ofNat 32 len) g.seq []

/-- Report an asynchronous trap to a group (R236). -/
def State.report (s : State) (gid : Nat) (c : Cause) (pc seq : Word) : State :=
  let g := s.grp gid
  if g.status = .none then s else s.setGrp gid { g with traps := g.traps ++ [⟨c, pc, seq⟩] }

/-- Complete an instruction of `len` bytes: the next one follows; it is counted (R136). -/
def Group.advance (g : Group) (len : Nat) : Group :=
  { g with pc := g.pc + .ofNat 32 len, retired := g.retired + 1, wait := .none }

/-- Complete a control instruction: the next one is at `target`. -/
def Group.jump (g : Group) (target : Word) : Group := { g with pc := target, retired := g.retired + 1, wait := .none }

/-- Complete a computed jump: bits [63:32] of the target fail at the fetch (R67, R131). -/
def Group.jumpTo (g : Group) (target : DWord) : Group := { g.jump (target.setWidth 32) with pcHigh := target.extractLsb' 32 32 }

/-- Undo a trapping instruction's partial work: every precise trap starts from the state before the instruction. -/
def State.done (s : State) (g : Group) (len : Nat) : State := s.setG (g.advance len)

end Sys2Proof.Machine
end

