-- ==== Sys2Proof/Machine/Flags.lean ====
section
/-! DEFINITION. Predicates, the fields of MODE, stochastic draws, and the special values and flushing of floating results (R21,
R52 to R58, R302). -/

namespace Sys2Proof.Machine

/-! ### Predicates (R21, R91) -/

/-- p register of a thread; p7 reads true. -/
def Group.pred (g : Group) (n t : Nat) : Bool := n == 7 || bit (Cells.get 0 g.p n).toNat t

/-- g register; g7 reads true. -/
def Group.gpred (g : Group) (n : Nat) : Bool := n == 7 || bit g.g.toNat n

/-- Set or clear one bit of a word. -/
def putBit (w : Word) (t : Nat) (b : Bool) : Word :=
  let m : Word := .ofNat 32 (2 ^ t)
  if b then w ||| m else w &&& ~~~m

/-- Poison marks of predicate, g, index, capability and mode state: kinds 0 p, 1 g, 2 x, 3 k, 4 MODE (R434). -/
def miscKey (kind n : Nat) : Nat := 16 * kind + n

/-- A write clears the poison mark (R435). -/
def Group.unmark (g : Group) (kind n : Nat) : Group := { g with miscPoison := Cells.del g.miscPoison (miscKey kind n) }

/-- A write to p7 is discarded. -/
def Group.setPred (g : Group) (n t : Nat) (b : Bool) : Group :=
  if n = 7 then g else { g.unmark 0 n with p := Cells.set 0 g.p n (putBit (Cells.get 0 g.p n) t b) }

/-- A write to g7 is discarded. -/
def Group.setGpred (g : Group) (n : Nat) (b : Bool) : Group :=
  if n = 7 then g
  else
    let m : BitVec 8 := .ofNat 8 (2 ^ n)
    { g.unmark 1 n with g := if b then g.g ||| m else g.g &&& ~~~m }

/-- Predicate source field of R91 in a thread: a p register in a vector instruction unless G is set, a g register in a uniform one. -/
def Group.predField (g : Group) (u : Bool) (code : BitVec 8) (t : Nat) : Bool :=
  let n := code.toNat % 8
  (if u || bit code.toNat 4 then g.gpred n else g.pred n t) != bit code.toNat 3

/-- Write a predicate destination: a p register per thread, or a g register in a uniform instruction. -/
def Group.setPredField (g : Group) (u : Bool) (code : BitVec 8) (t : Nat) (b : Bool) : Group :=
  if u then g.setGpred (code.toNat % 8) b else g.setPred (code.toNat % 8) t b

/-! ### MODE (R56) -/

def Group.rm (g : Group) : Nat := g.mode.toNat % 8
def Group.rred (g : Group) : Nat := bits g.mode.toNat 5 3
def Group.ftz (g : Group) : Bool := bit g.mode.toNat 7
def Group.nanp (g : Group) : Bool := bit g.mode.toNat 8

/-- Bits of MODE that exist; a write to the others is ignored (R7, R56). -/
def modeMask : Word := 0x9BF

/-- Values that SMODE may write: RM 001 to 110, RRED 001 to 101. -/
def modeOk (v : Word) : Bool := between 1 6 (v.toNat % 8) && between 1 5 (bits v.toNat 5 3)

/-- Rounding of an RND code; codes that no rule lets reach here round to nearest. -/
def rndCode : Nat → Rnd
  | 2 => .rtz | 3 => .rdn | 4 => .rup | 5 => .rna | 6 => .rsr | _ => .rne

/-- The rounding in force: DYN reads MODE.RM (R52). -/
def Group.rounding (g : Group) (r : Rnd) : Rnd := if r = .dyn then rndCode g.rm else r

/-! ### Keyed draws (R53, R302) -/

/-- The finaliser rng_mixed. -/
def rngMixed (key ctr t : Nat) : DWord :=
  let z : DWord := .ofNat 64 (key + 0x9C5A31E744B8D2F3 * (ctr + 1))
  let z := z ^^^ .ofNat 64 (t * 0xB7E151628AED2A6B)
  let z := (z ^^^ (z >>> 30)) * 0xE4A29F3C5D17B869
  let z := (z ^^^ (z >>> 27)) * 0x8F3DC61B2A57E0D5
  z ^^^ (z >>> 31)

/-- The draw of element `j` for thread index `t` (R53). -/
def Group.drawWord (g : Group) (t j : Nat) : Nat := (rngMixed g.pedKey g.pc.toNat t).toNat / 2 ^ (32 * j) % 2 ^ 32

/-! ### Floating results (R54, R57, R58) -/

def fmtOfTy : Ty → Fmt
  | .f16 | .f16x2 => fp16
  | .bf16 | .bf16x2 => bf16
  | _ => fp32

/-- Flush an input of FP32 type under MODE.FTZ32. -/
def Group.flushIn (g : Group) (f : Fmt) (x : Nat) : Nat := if g.ftz && f.w == 32 then flush32 x else x

/-- A floating input. -/
def Group.input (g : Group) (f : Fmt) (x : Nat) : FV := f.decode (g.flushIn f (x % 2 ^ f.w))

/-- The NaN result for NaN sources in source order: the first source's payload under NANP, else the canonical NaN (R58). -/
def Group.nanOf (g : Group) (f : Fmt) : List FV → Option Nat
  | [] => none
  | .nan s p :: _ => some (if g.nanp then f.payload s p else f.cnan)
  | _ :: l => Group.nanOf g f l

/-- Result of an arithmetic operation with these sources and this exact value (R54, R57, R58, R100). -/
def Group.result (g : Group) (f : Fmt) (r : Rnd) (w : Nat) (srcs : List FV) (v : FV) : Nat :=
  match g.nanOf f srcs with
  | some n => n
  | none => g.flushIn f (f.encode r w v)

/-- Exact sum of values in a rounding (R100). -/
def sumFV (r : Rnd) (l : List FV) : FV := (l.foldl Acc.term Acc.zero).value r

end Sys2Proof.Machine
end

