-- ==== Sys2Proof/Machine/Operands.lean ====
section
/-! DEFINITION. Operands: active threads, the checks and waits before an instruction issues, reading sources, and writing
results (R12, R16, R22 to R35, R70, R73, R74, R208, R436). -/

namespace Sys2Proof.Machine

/-! ### Registers -/

def Group.vreg (g : Group) (n t : Nat) : Nat := (Cells.get 0 g.v (32 * n + t)).toNat
def Group.sreg (g : Group) (n : Nat) : DWord := Cells.get 0 g.s n
def Group.index (g : Group) (x t : Nat) : Nat := (Cells.get 0 g.x (32 * x + t)).toNat
def Group.kreg (g : Group) (n : Nat) : Cap := Cells.get Cap.null g.k n
def Group.setK (g : Group) (n : Nat) (c : Cap) : Group := { g.unmark 3 n with k := Cells.set Cap.null g.k n c }

/-- Write one vector register of one thread; a write clears the poison mark (R435). -/
def Group.setV (g : Group) (n t v : Nat) : Group :=
  { g with v := Cells.set 0 g.v (32 * n + t) (.ofNat 32 v), vPoison := Cells.del g.vPoison (32 * n + t) }

/-- Write a uniform register. -/
def Group.setS (g : Group) (n : Nat) (v : DWord) : Group :=
  { g with s := Cells.set 0 g.s n v, sPoison := Cells.del g.sPoison n }

/-- Number of an s, x, l or o operand code. -/
def opNum (code : BitVec 8) : Nat :=
  match kindOf code with
  | .s => code.toNat - 0xB0
  | .o => code.toNat - 0xE0
  | .ix => code.toNat - 0xE8
  | .l => code.toNat - 0xF0
  | _ => code.toNat

/-- All 32 threads. -/
def threads : List Nat := List.range 32

/-- Threads in which the instruction acts: M and the guard, or the single run of a uniform instruction (R12, R16, R70). -/
def Group.active (g : Group) (f : Fields) : List Nat :=
  if f.u then (if g.gpred f.gnum.toNat != f.gneg then [0] else [])
  else threads.filter (fun t => bit g.cur.toNat t && (g.pred f.gnum.toNat t != f.gneg))

/-- Vector registers that an operand names in a thread: direct, indexed or through the latch. -/
def Group.regs (g : Group) (code : BitVec 8) (w t : Nat) : List Nat :=
  match kindOf code with
  | .v => (List.range w).map (fun i => code.toNat + i)
  | .ix => (List.range w).map (fun i => Cells.get 0 g.xbase (opNum code) + g.index (opNum code) t + i)
  | .l => (List.range w).filterMap (fun i => (g.latch.getD (opNum code + i) none))
  | _ => []

/-- Uniform registers that an operand names. -/
def sregs (o : Opd) (code : BitVec 8) : List Nat :=
  if kindOf code = .s then (match o with | .s2 => [opNum code, opNum code + 1] | .s8 => (List.range 8).map (fun i => opNum code + i) | _ => [opNum code]) else []

/-- The operands of an instruction with their fields: D, A, B, C; fields that hold numbers are left out. -/
def formOpds (g : Form) (f : Fields) : List (Opd × BitVec 8) :=
  ([(g.d, f.d), (g.a, f.a), (g.b, f.b), (g.c, f.c)]).filter (fun o => match o.1 with | .raw _ => false | .unused => false | _ => true)

def formSrcs (g : Form) (f : Fields) : List (Opd × BitVec 8 × Bool) :=
  ([(g.a, f.a, bit f.fex.toNat 0), (g.b, f.b, bit f.fex.toNat 1), (g.c, f.c, bit f.fex.toNat 2)]).filter (fun o => o.1.isSrc)

/-! ### Checks before issue -/

/-- What the checks of an instruction find: nothing, a precise trap, a wait, or a hold by a fault at an address. -/
inductive Chk where
  | ok
  | trap (c : Cause)
  | wait (w : Wait)
  | hold (va : Nat)
  deriving DecidableEq, Repr

/-- The first check that fails decides (R77). -/
def Chk.and : Chk → Chk → Chk
  | .ok, b => b
  | a, _ => a

def Chk.all : List Chk → Chk
  | [] => .ok
  | a :: l => a.and (Chk.all l)

def Chk.when (b : Bool) (c : Chk) : Chk := if b then c else .ok

/-- REGRANGE for direct operands, whatever the guard holds, and for indexed ones per active thread; then INDEXBOUND (R31, R123). A run of
four registers that an index register places elsewhere than at a multiple of 4 is ILLEGAL (R233), before both (log 49). -/
def Group.rangeCheck (g : Group) (fm : Form) (f : Fields) (act : List Nat) : Chk :=
  let ops := formOpds fm f
  let direct := ops.any (fun o =>
    (kindOf o.2 == .v && g.allot < o.2.toNat + o.1.width) || (sregs o.1 o.2).any (fun n => g.ucount ≤ n))
  let ix (p : Nat → Nat → Nat → Bool) : Bool := ops.any (fun o => kindOf o.2 == .ix && act.any (fun t =>
    p (opNum o.2) (g.index (opNum o.2) t) o.1.width))
  let out (x i w : Nat) : Bool := Cells.get 0 g.xbound x ≤ i || (w == 2 && (Cells.get 0 g.xbase x + i) % 2 == 1)
  let beyond (x i w : Nat) : Bool := !out x i w && g.allot < Cells.get 0 g.xbase x + i + w
  let split (x i w : Nat) : Bool := w == 4 && (Cells.get 0 g.xbase x + i) % 4 != 0
  if ix split then .trap .illegal else if direct || ix beyond then .trap .regrange else if ix out then .trap .indexbound else .ok

/-- An l operand whose entry has no record (R25). -/
def Group.latchCheck (g : Group) (fm : Form) (f : Fields) : Chk :=
  Chk.when ((formSrcs fm f).any (fun o => kindOf o.2.1 == .l && (List.range o.1.width).any (fun i => (g.latch.getD (opNum o.2.1 + i) none).isNone)))
    (.trap .emptyreg)

/-- Queue elements that the earlier sources of the instruction pop from the same o register (R208): of source `k`, `n` threads. -/
def popsBefore (fm : Form) (f : Fields) (n k o : Nat) : Nat :=
  ((([(fm.a, f.a), (fm.b, f.b), (fm.c, f.c)]).take k).map (fun x =>
    if x.1.isSrc && kindOf x.2 == .o && opNum x.2 == o then n * x.1.width else 0)).sum

/-- The bound stream that feeds an o register. -/
def Stream.odest (st : Stream) : Nat := bits st.image.toNat (8 * 40 + 7) (8 * 40 + 5)
def Stream.isIndex (st : Stream) : Bool := bit st.image.toNat (8 * 41 + 4)

def Group.feeder (g : Group) (o : Nat) : Option Stream :=
  (g.streams.find? (fun e => e.2.bound && !e.2.isIndex && e.2.odest == o)).map Prod.snd

/-- The fault that keeps a stream from its next element: its own, or, in gather mode with no index queued, that which keeps its index stream from
its own; through at most `n` index streams. -/
def Group.faultIn (g : Group) : Nat → Stream → Option (Cause × Nat)
  | 0, st => st.fault.map (fun c => (c, st.fva))
  | n + 1, st =>
    let src := bits st.image.toNat (8 * 42 + 7) (8 * 42)
    match st.fault with
    | some c => some (c, st.fva)
    | none =>
      if st.image.toNat / 2 ^ (8 * 40) % 4 == 1 && (Cells.get [] g.oq (8 + src)).isEmpty then g.faultIn n (Cells.get Stream.free g.streams src)
      else none

/-- The same through all streams of a group. -/
def Group.faulting (g : Group) (st : Stream) : Option (Cause × Nat) := g.faultIn g.streams.length st

/-- The queues hold the elements that this instruction pops (R207, R208). -/
def Group.queueCheck (g : Group) (fm : Form) (f : Fields) (n : Nat) : Chk :=
  let need (o : Nat) : Nat := (((formSrcs fm f).filter (fun x => kindOf x.2.1 == .o && opNum x.2.1 == o)).map (fun x => n * x.1.width)).sum
  let have_ (o : Nat) : Nat := (Cells.get [] g.oq o).length
  let short := (List.range 8).filter (fun o => have_ o < need o)
  if (List.range 8).any (fun o => 64 < need o) then .trap .emptyreg
  else Chk.all (short.map (fun o =>
    match g.feeder o with
    | none => .trap .emptyreg
    | some st =>
      match g.faulting st with
      | some (.page, va) => .hold va
      | some (c, _) => .trap c
      | none => if st.active && !st.done then .wait .queueReg else .trap .emptyreg))

/-- The quads of a register that hold an active thread are empty. -/
def Group.quadEmpty (g : Group) (regs : List Nat) (t : Nat) : Bool := regs.any (fun r => Cells.get false g.vEmpty (8 * r + t / 4))

def Group.srcEmpty (g : Group) (o : Opd) (code : BitVec 8) (act : List Nat) : Bool :=
  act.any (fun t => g.quadEmpty (g.regs code o.width t) t) || (sregs o code).any (fun n => Cells.get false g.sEmpty n)

/-- Empty sources raise EMPTYREG under FEX and wait otherwise; an empty destination waits (R34, R35). -/
def Group.emptyCheck (g : Group) (fm : Form) (f : Fields) (act : List Nat) : Chk :=
  if (formSrcs fm f).any (fun o => o.2.2 && g.srcEmpty o.1 o.2.1 act) then .trap .emptyreg
  else if (formOpds fm f).any (fun o => g.srcEmpty o.1 o.2 act) then .wait .regEmpty
  else .ok

/-- A source, its index register or a predicate that the instruction reads carries a poison mark (R436). -/
def Group.srcPoison (g : Group) (o : Opd) (code : BitVec 8) (act : List Nat) : Bool :=
  act.any (fun t => (g.regs code o.width t).any (fun r => Cells.get false g.vPoison (32 * r + t))) ||
    (sregs o code).any (fun n => Cells.get false g.sPoison n)

/-- Predicate fields that an instruction reads besides its guard (R91, R96, R99, R112 to R114). -/
def predReads (op : Nat) (f : Fields) : List (BitVec 8) :=
  match op with
  | 0x001 | 0x002 => if f.mod = 2 then [f.c] else []
  | 0x020 => [f.c]
  | 0x101 => [f.a, f.b, f.c]
  | 0x102 => if f.mod = 0 then (List.range 7).map (BitVec.ofNat 8) else []
  | 0x103 => [f.a]
  | _ => []

/-- Capability registers that an instruction names in NUM1 and NUM2. -/
def kReads (op : Nat) (f : Fields) : List Nat :=
  match op with
  | 0x1C0 | 0x1C1 | 0x1C4 | 0x1C5 | 0x1C6 => if f.mod = 0 then [f.ext.num1.toNat] else []
  | 0x1CB | 0x1CD | 0x1CE | 0x1D7 | 0x1D8 | 0x1F5 | 0x1F6 => [f.ext.num1.toNat]
  | 0x1CC | 0x1F3 | 0x1F4 => [f.ext.num1.toNat, f.ext.num2.toNat]
  | _ => []

/-- The field's predicate register carries a poison mark; p7 and g7 hold no value. -/
def Group.predPoison (g : Group) (u : Bool) (code : BitVec 8) : Bool :=
  code.toNat % 8 != 7 && Cells.get false g.miscPoison (miscKey (if u || bit code.toNat 4 then 1 else 0) (code.toNat % 8))

def Group.poisonCheck (g : Group) (op : Nat) (fm : Form) (f : Fields) (act : List Nat) (skip : Bool) : Chk :=
  let srcs := formSrcs (if skip then { fm with c := .unused } else fm) f
  let src := srcs.any (fun o => g.srcPoison o.1 o.2.1 act)
  let ix := (formOpds fm f).any (fun o => kindOf o.2 == .ix && Cells.get false g.miscPoison (miscKey 2 (opNum o.2)))
  let guard := !(f.gnum == 7) && Cells.get false g.miscPoison (miscKey (if f.u then 1 else 0) f.gnum.toNat)
  let preds := (predReads op f).any (g.predPoison f.u) || (kReads op f).any (fun n => Cells.get false g.miscPoison (miscKey 3 n))
  let one (k : Nat) (o : Opd) (code : BitVec 8) : Bool :=
    o.isSrc && kindOf code == .o && !(skip && k == 2) &&
      (((Cells.get [] g.oq (opNum code)).drop (popsBefore fm f act.length k (opNum code))).take (act.length * o.width)).any Prod.snd
  let q := one 0 fm.a f.a || one 1 fm.b f.b || one 2 fm.c f.c
  Chk.when ((src || ix || guard || preds || q) && !act.isEmpty) (.trap .poison)

/-- Place of a queue register's level code. -/
def oMark (o : Nat) : Nat := 9000 + o

/-- The highest level code of the marked registers that an instruction consumes (R436); a mark that no load brought has code 0. -/
def Group.markedLevel (g : Group) (fm : Form) (f : Fields) (act : List Nat) (skip : Bool) : Nat :=
  let srcs := formSrcs (if skip then { fm with c := .unused } else fm) f
  let v (o : Opd) (code : BitVec 8) : List Nat := act.flatMap (fun t => (g.regs code o.width t).filterMap (fun r =>
    if Cells.get false g.vPoison (32 * r + t) then some (Cells.get 0 g.markLevel (32 * r + t)) else none))
  let s (o : Opd) (code : BitVec 8) : List Nat := (sregs o code).filterMap (fun n =>
    if Cells.get false g.sPoison n then some (Cells.get 0 g.markLevel (8192 + n)) else none)
  let q (code : BitVec 8) : List Nat :=
    if kindOf code == .o && (Cells.get [] g.oq (opNum code)).any Prod.snd then [Cells.get 0 g.markLevel (oMark (opNum code))] else []
  (srcs.flatMap (fun o => v o.1 o.2.1 ++ (s o.1 o.2.1 ++ q o.2.1))).foldl Nat.max 0

/-- Every check and wait before the instruction's own, in the order of R77. `skip` says that C is a data source that carries its
poison on (R436). -/
def Group.issue (g : Group) (op : Nat) (f : Fields) (fm : Form) (skip : Bool) : Chk :=
  let act := g.active f
  (g.rangeCheck fm f act).and
    (if act.isEmpty then .ok
     else Chk.all [g.latchCheck fm f, g.queueCheck fm f act.length, g.emptyCheck fm f act, g.poisonCheck op fm f act skip])

/-! ### Reading sources -/

/-- The immediate as an operand of `w` registers (R74). A 64-bit operand whose type is .i32, the C of ST .w64, is extended like .i64, in both
forms (log 48). -/
def immOperand (f : Fields) (w : Nat) : Nat :=
  match f.tail with
  | .imm64 d => d.toNat
  | _ =>
    if w = 1 then f.imm.toNat
    else match f.ty with
      | .i64 | .b64 | .i32 => (f.imm.signExtend 64).toNat
      | _ => f.imm.toNat

/-- A source that is no queue register, in one thread. -/
def Group.readOne (g : Group) (f : Fields) (code : BitVec 8) (w t : Nat) : Nat :=
  match kindOf code with
  | .v | .ix | .l => ((g.regs code w t).zipIdx.map (fun e => g.vreg e.1 t * 2 ^ (32 * e.2))).sum
  | .s => if w = 1 then (g.sreg (opNum code)).toNat % 2 ^ 32 else (g.sreg (opNum code)).toNat
  | .tid => t
  | .imm => immOperand f w
  | _ => 0

/-- A source in every active thread; an o register pops one or two elements per thread, in thread order (R208). The single run of a uniform
instruction pops as one thread does: two elements for a 64-bit operand (R16, R208; log 62). -/
def Group.read (g : Group) (f : Fields) (code : BitVec 8) (w : Nat) (act : List Nat) : Group × List Nat :=
  if kindOf code = .o then
    let q := Cells.get [] g.oq (opNum code)
    let vals := act.zipIdx.map (fun e =>
      (((q.drop (w * e.2)).take w).zipIdx.map (fun x => x.1.1.toNat * 2 ^ (32 * x.2))).sum)
    ({ g with oq := Cells.set [] g.oq (opNum code) (q.drop (w * act.length)) }, vals)
  else (g, act.map (fun t => g.readOne f code w t))

/-- The sources of an instruction in one thread. -/
structure Row where
  t : Nat
  a : Nat
  b : Nat
  c : Nat
  deriving DecidableEq, Repr

/-- Read a field that the form makes a source; others read as zero. -/
def Group.readField (g : Group) (f : Fields) (o : Opd) (code : BitVec 8) (act : List Nat) : Group × List Nat :=
  match o with
  | .src _ w => g.read f code w act
  | _ => (g, act.map (fun _ => 0))

/-- Read A, B and C, in that order. -/
def Group.readAll (g : Group) (fm : Form) (f : Fields) (act : List Nat) : Group × List Row :=
  let (g, a) := g.readField f fm.a f.a act
  let (g, b) := g.readField f fm.b f.b act
  let (g, c) := g.readField f fm.c f.c act
  (g, (act.zip (a.zip (b.zip c))).map (fun e => ⟨e.1, e.2.1, e.2.2.1, e.2.2.2⟩))

/-- Record the held source in the latch map, after the instruction's own reads (R26). -/
def Group.record (g : Group) (fm : Form) (f : Fields) : Group :=
  let one (o : Opd) (code : BitVec 8) : Group :=
    let l := g.latch.set f.he.toNat (some code.toNat)
    { g with latch := if o.width = 2 then l.set (f.he.toNat + 1) (some (code.toNat + 1)) else l }
  match f.hold.toNat with
  | 0 => g
  | 1 => one fm.a f.a
  | 2 => one fm.b f.b
  | _ => one fm.c f.c

/-- A uniform 64-bit source: an s register, zero, or the immediate zero-extended. -/
def Group.uval (g : Group) (f : Fields) (code : BitVec 8) : Nat :=
  match kindOf code with
  | .s => (g.sreg (opNum code)).toNat
  | .imm => f.imm.toNat
  | _ => 0

/-- Eight s registers as one 64-byte image, little-endian. -/
def Group.image (g : Group) (code : BitVec 8) : BitVec 512 :=
  .ofNat 512 (((List.range 8).map (fun i => (g.sreg (opNum code + i)).toNat * 2 ^ (64 * i))).sum)

/-! ### Writing results -/

/-- Write a result of `w` registers in one thread (R73, R74). -/
def Group.write (g : Group) (code : BitVec 8) (w t val : Nat) : Group :=
  match kindOf code with
  | .v | .ix => (g.regs code w t).zipIdx.foldl (fun g e => g.setV e.1 t (val / 2 ^ (32 * e.2))) g
  | .s => g.setS (opNum code) (.ofNat 64 (if w = 1 then val % 2 ^ 32 else val))
  | _ => g

/-- Write the results of the active threads. -/
def Group.writes (g : Group) (code : BitVec 8) (w : Nat) (res : List (Nat × Nat)) : Group :=
  res.foldl (fun g e => g.write code w e.1 e.2) g

/-- A deferred result: the destination is marked empty now and written later (R33). Values carry their poison marks, and `level` where they
come from. -/
def Group.defer (g : Group) (code : BitVec 8) (w : Nat) (res : List (Nat × Nat × Bool)) (load div dz : Bool) (level : Nat := 0) : Group :=
  let vs := res.flatMap (fun e => (g.regs code w e.1).zipIdx.map (fun r =>
    (32 * r.1 + e.1, (.ofNat 32 (e.2.1 / 2 ^ (32 * r.2)), e.2.2))))
  let quads := (res.flatMap (fun e => (g.regs code w e.1).map (fun r => 8 * r + e.1 / 4))).dedup
  let sv : Option (Nat × DWord × Bool) :=
    match kindOf code, res.getLast? with
    | .s, some e => some (opNum code, .ofNat 64 (if w = 1 then e.2.1 % 2 ^ 32 else e.2.1), e.2.2)
    | _, _ => none
  g.await { load := load, v := vs, quads := quads, s := sv, div := div, dz := dz, pc := g.pc, seq := g.seq, skip := [], level := level }

/-! ### The shape of an instruction -/

/-- Hold the group at its instruction by a fault at an address; the walk is pending (R340, R341). -/
def State.holdFault (s : State) (va : Nat) (write : Bool) : State :=
  let g := s.g
  let w : Walk := ⟨s.dieOf g.core, s.nextId, g.ctx, va, write, 1, s.cur, g.pc, g.seq⟩
  let already := s.walks.any (fun x => x.gid == s.cur && x.kind == 1)
  let s := if already || g.wait == .hold va then s else { s with walks := s.walks ++ [w], nextId := s.nextId + 1 }
  s.stall (.hold va)

/-- Take the POISON trap of an instruction that consumes marks, with its crumb: the highest level code that their data came from (R415, R436).
A trap that waits leaves no crumb. -/
def State.poisonTrap (s : State) (level len : Nat) : State :=
  let r := (s.gcrumb s.cur 0x12 level).trap .poison len
  if r.stalled then s.stall r.g.wait else r

/-- Act on a check: go on, take the precise trap, or wait; `level` is the level code of the marks that are consumed. -/
def State.onChkAt (s : State) (level : Nat) (c : Chk) (len : Nat) (k : State) : State :=
  match c with
  | .ok => k
  | .trap .poison => s.poisonTrap level len
  | .trap c => s.trap c len
  | .wait w => s.stall w
  | .hold va => s.holdFault va false

/-- The same where the marks have no level. -/
def State.onChk (s : State) (c : Chk) (len : Nat) (k : State) : State := s.onChkAt 0 c len k

/-- The frame of every instruction of a group: only a running group issues; `pre` is the checks that depend on the launch's
format slots, made at decode (R51, R77); then the shared checks; with no active thread the instruction only completes;
otherwise `k` acts on the state after the reads, with the rows of the active threads. HOLD records its source whether or not a
thread is active (log 50). -/
def State.instrAs (s : State) (op : Nat) (f : Fields) (fm : Form) (pre : Chk) (skip : Bool) (k : State → Form → List Row → State) :
    Host.Outcome State Fault Refusal :=
  if s.g.status != .running then .fault .noRunningGroup
  else
    .next (s.onChkAt (s.g.markedLevel fm f (s.g.active f) skip) (pre.and (s.g.issue op f fm skip)) f.len
      (let act := s.g.active f
       let (g, rows) := s.g.readAll fm f act
       let g := g.record fm f
       if act.isEmpty then s.done g f.len else k (s.setG g) fm rows))

/-- The frame with the form of the opcode. -/
def State.instr (s : State) (op : Nat) (f : Fields) (pre : Chk) (skip : Bool) (k : State → Form → List Row → State) :
    Host.Outcome State Fault Refusal :=
  s.instrAs op f (form op f) pre skip k

/-- Write results at once: the chaining class (R15). -/
def State.chain (s : State) (f : Fields) (w : Nat) (res : List (Nat × Nat)) : State :=
  s.done (s.g.writes f.d w res) f.len

/-- Write results later: the deferred class (R15, R33). -/
def State.later (s : State) (f : Fields) (w : Nat) (res : List (Nat × Nat)) : State :=
  s.done (s.g.defer f.d w (res.map (fun e => (e.1, e.2, false))) false false false) f.len

/-- An instruction that computes each active thread's result from its own sources. -/
def State.map (s : State) (op : Nat) (f : Fields) (fn : Group → Row → Nat) : Host.Outcome State Fault Refusal :=
  s.instr op f .ok false (fun s fm rows => s.chain f fm.d.width (rows.map (fun r => (r.t, fn s.g r))))

/-- The same, of the deferred class. -/
def State.mapLater (s : State) (op : Nat) (f : Fields) (fn : Group → Row → Nat) : Host.Outcome State Fault Refusal :=
  s.instr op f .ok false (fun s fm rows => s.later f fm.d.width (rows.map (fun r => (r.t, fn s.g r))))

/-- An instruction that writes a predicate per active thread. -/
def State.mapPred (s : State) (op : Nat) (f : Fields) (fn : Group → Row → Bool) : Host.Outcome State Fault Refusal :=
  s.instr op f .ok false (fun s _ rows =>
    s.done (rows.foldl (fun g r => g.setPredField f.u f.d r.t (fn s.g r)) s.g) f.len)

/-- A uniform instruction that acts on the group and completes. -/
def State.uniform (s : State) (op : Nat) (f : Fields) (k : State → State) : Host.Outcome State Fault Refusal :=
  s.instr op f .ok false (fun s _ _ => k s)

end Sys2Proof.Machine
end

