-- ==== Sys2Proof/Machine/Int.lean ====
section
/-! DEFINITION. Integer, logic, shift, bit, move and comparison instructions (R95 to R99). -/

namespace Sys2Proof.Machine

/-! ### Integer views of a type -/

/-- Bits of an integer, bit-pattern or floating operand. -/
def bitsOf (t : Ty) : Nat := if is64 t then 64 else 32

def isSigned : Ty → Bool
  | .i32 | .i64 | .i8x4 => true
  | _ => false

/-- A bit pattern of `w` bits as a signed number. -/
def toSigned (w x : Nat) : Int := if 2 ^ (w - 1) ≤ x % 2 ^ w then (x % 2 ^ w : Nat) - 2 ^ w else (x % 2 ^ w : Nat)

/-- A bit pattern as its type reads it. -/
def toInt (sg : Bool) (w x : Nat) : Int := if sg then toSigned w x else (x % 2 ^ w : Nat)

/-- Two's complement wrap to `w` bits. -/
def wrap (w : Nat) (x : Int) : Nat := (x % 2 ^ w).toNat

/-- Clamp to the range of a type (R96). -/
def satur (sg : Bool) (w : Nat) (x : Int) : Nat :=
  let lo : Int := if sg then -(2 ^ (w - 1)) else 0
  let hi : Int := if sg then 2 ^ (w - 1) - 1 else 2 ^ w - 1
  wrap w (if x < lo then lo else if hi < x then hi else x)

/-- Apply an operation to the elements of a value: four bytes of a packed type, else the whole. -/
def onElems (t : Ty) (fn : Nat → Nat → Nat → Nat) (a b : Nat) : Nat :=
  match t with
  | .i8x4 | .n8x4 => ((List.range 4).map (fun i => fn 8 (a / 2 ^ (8 * i) % 256) (b / 2 ^ (8 * i) % 256) * 2 ^ (8 * i))).sum
  | _ => fn (bitsOf t) a b

/-- An exact integer operation, wrapped or saturated by MOD (R96). -/
def arith (f : Fields) (op : Int → Int → Int) (a b : Nat) : Nat :=
  onElems f.ty (fun w x y =>
    let sg := isSigned f.ty
    let r := op (toInt sg w x) (toInt sg w y)
    if f.mod = 1 then satur sg w r else wrap w r) a b

/-- ADD and SUB with a carry predicate (R96): the result and the new carry. -/
def carryArith (f : Fields) (sub : Bool) (a b : Nat) (p : Bool) : Nat × Bool :=
  let w := bitsOf f.ty
  let c : Int := if p then 1 else 0
  let x : Int := if sub then (a % 2 ^ w : Nat) - (b % 2 ^ w : Nat) - c else (a % 2 ^ w : Nat) + (b % 2 ^ w : Nat) + c
  (wrap w x, if sub then x < 0 else 2 ^ w ≤ x)

/-- ADD and SUB; the `.cc` form reads and writes its carry predicate. -/
def State.addSub (s : State) (op : Nat) (f : Fields) (sub : Bool) : Host.Outcome State Fault Refusal :=
  s.instr op f .ok false (fun s fm rows =>
    let g0 := s.g
    if f.mod = 2 then
      s.done (rows.foldl (fun g r =>
        let x := carryArith f sub r.a r.b (g0.predField f.u f.c r.t)
        (g.write f.d fm.d.width r.t x.1).setPredField f.u f.c r.t x.2) g0) f.len
    else s.chain f fm.d.width (rows.map (fun r => (r.t, arith f (fun x y => if sub then x - y else x + y) r.a r.b))))

def execAdd (f : Fields) (s : State) : Host.Outcome State Fault Refusal := s.addSub 0x001 f false
def execSub (f : Fields) (s : State) : Host.Outcome State Fault Refusal := s.addSub 0x002 f true
def execMul (f : Fields) (s : State) : Host.Outcome State Fault Refusal :=
  s.map 0x003 f (fun _ r => arith f (· * ·) r.a r.b)

/-- High half of the exact product. -/
def execMulhi (f : Fields) (s : State) : Host.Outcome State Fault Refusal :=
  s.map 0x004 f (fun _ r =>
    let w := bitsOf f.ty
    wrap w (toInt (isSigned f.ty) w r.a * toInt (isSigned f.ty) w r.b / 2 ^ w))

/-- MAD; in the `.wide` form C and D are 64 bits wide. -/
def execMad (f : Fields) (s : State) : Host.Outcome State Fault Refusal :=
  s.map 0x005 f (fun _ r =>
    let w := bitsOf f.ty
    let sg := isSigned f.ty
    let x := toInt sg w r.a * toInt sg w r.b
    if f.mod = 2 then wrap 64 (x + (r.c : Int))
    else
      let v := x + toInt sg w r.c
      if f.mod = 1 then satur sg w v else wrap w v)

/-- Quotient and remainder of R97. -/
def divRem (sg : Bool) (w a b : Nat) : Nat × Nat :=
  let x := toInt sg w a
  let y := toInt sg w b
  if y = 0 then (2 ^ w - 1, wrap w x)
  else (wrap w (x.tdiv y), wrap w (x - x.tdiv y * y))

/-- DIVN and REMN: a deferred result that sets MODE.DZ where a divisor was zero. -/
def State.divide (s : State) (op : Nat) (f : Fields) (pick : Nat × Nat → Nat) : Host.Outcome State Fault Refusal :=
  s.instr op f .ok false (fun s fm rows =>
    let w := bitsOf f.ty
    s.done (s.g.defer f.d fm.d.width (rows.map (fun r => (r.t, pick (divRem (isSigned f.ty) w r.a r.b), false))) false true
      (rows.any (fun r => r.b % 2 ^ w == 0))) f.len)

def execDivn (f : Fields) (s : State) : Host.Outcome State Fault Refusal := s.divide 0x006 f Prod.fst
def execRemn (f : Fields) (s : State) : Host.Outcome State Fault Refusal := s.divide 0x007 f Prod.snd

def execMin (f : Fields) (s : State) : Host.Outcome State Fault Refusal :=
  s.map 0x008 f (fun _ r => onElems f.ty (fun w x y => if toInt (isSigned f.ty) w y < toInt (isSigned f.ty) w x then y % 2 ^ w else x % 2 ^ w) r.a r.b)
def execMax (f : Fields) (s : State) : Host.Outcome State Fault Refusal :=
  s.map 0x009 f (fun _ r => onElems f.ty (fun w x y => if toInt (isSigned f.ty) w x < toInt (isSigned f.ty) w y then y % 2 ^ w else x % 2 ^ w) r.a r.b)
def execAbs (f : Fields) (s : State) : Host.Outcome State Fault Refusal :=
  s.map 0x00A f (fun _ r => arith f (fun x _ => x.natAbs) r.a 0)
def execNeg (f : Fields) (s : State) : Host.Outcome State Fault Refusal :=
  s.map 0x00B f (fun _ r => arith f (fun x _ => -x) r.a 0)

/-! ### Logic, shifts and bits (R98) -/

def execAnd (f : Fields) (s : State) : Host.Outcome State Fault Refusal := s.map 0x010 f (fun _ r => r.a &&& r.b)
def execOr (f : Fields) (s : State) : Host.Outcome State Fault Refusal := s.map 0x011 f (fun _ r => r.a ||| r.b)
def execXor (f : Fields) (s : State) : Host.Outcome State Fault Refusal := s.map 0x012 f (fun _ r => r.a ^^^ r.b)
def execAndn (f : Fields) (s : State) : Host.Outcome State Fault Refusal :=
  s.map 0x013 f (fun _ r => r.a - (r.a &&& r.b))

def execShl (f : Fields) (s : State) : Host.Outcome State Fault Refusal :=
  s.map 0x014 f (fun _ r => if bitsOf f.ty ≤ r.b then 0 else r.a * 2 ^ r.b % 2 ^ bitsOf f.ty)
def execShr (f : Fields) (s : State) : Host.Outcome State Fault Refusal :=
  s.map 0x015 f (fun _ r => if bitsOf f.ty ≤ r.b then 0 else r.a / 2 ^ r.b)
def execSar (f : Fields) (s : State) : Host.Outcome State Fault Refusal :=
  s.map 0x016 f (fun _ r =>
    let w := bitsOf f.ty
    wrap w (toSigned w r.a / 2 ^ (if w ≤ r.b then w else r.b)))

/-- Length of a field of `len` bits at `pos` that fits in `w` bits. -/
def fieldLen (w pos len : Nat) : Nat := if w ≤ pos then 0 else Nat.min len (w - pos)

def execBfx (f : Fields) (s : State) : Host.Outcome State Fault Refusal :=
  s.map 0x017 f (fun _ r =>
    let w := bitsOf f.ty
    let k := fieldLen w r.b r.c
    if k = 0 then 0
    else
      let x := r.a / 2 ^ r.b % 2 ^ k
      if f.mod = 1 then wrap w (toSigned k x) else x)

def execBfi (f : Fields) (s : State) : Host.Outcome State Fault Refusal :=
  s.map 0x018 f (fun _ r =>
    let pos := r.c % 256
    let k := fieldLen (bitsOf f.ty) pos (r.c / 256 % 256)
    if k = 0 then r.a
    else r.a - r.a / 2 ^ pos % 2 ^ k * 2 ^ pos + r.b % 2 ^ k * 2 ^ pos)

/-- The bits of a value, least significant first. -/
def bitList (w x : Nat) : List Bool := (List.range w).map (bit x)

def execPopc (f : Fields) (s : State) : Host.Outcome State Fault Refusal :=
  s.map 0x019 f (fun _ r => (bitList (bitsOf f.ty) r.a).countP id)
def execClz (f : Fields) (s : State) : Host.Outcome State Fault Refusal :=
  s.map 0x01A f (fun _ r => ((bitList (bitsOf f.ty) r.a).reverse.takeWhile (!·)).length)
def execCtz (f : Fields) (s : State) : Host.Outcome State Fault Refusal :=
  s.map 0x01B f (fun _ r => ((bitList (bitsOf f.ty) r.a).takeWhile (!·)).length)
def execBrev (f : Fields) (s : State) : Host.Outcome State Fault Refusal :=
  s.map 0x01C f (fun _ r => (bitList (bitsOf f.ty) r.a).foldl (fun acc b => 2 * acc + b.toNat) 0)

/-! ### Moves and comparison (R99) -/

/-- A source that is moved: of .f16 and .bf16 the low 16 bits, the others of the destination zero (R38, R74). That R38 holds of a move,
whose type fixes only the width by R99, is the model's reading (log 44). -/
def movedValue (f : Fields) (x : Nat) : Nat := if f.ty == .f16 || f.ty == .bf16 then x % 2 ^ 16 else x

def execSel (f : Fields) (s : State) : Host.Outcome State Fault Refusal :=
  s.map 0x020 f (fun g r => movedValue f (if g.predField f.u f.c r.t then r.a else r.b))
def execMov (f : Fields) (s : State) : Host.Outcome State Fault Refusal := s.map 0x021 f (fun _ r => movedValue f r.a)
def execMovi (f : Fields) (s : State) : Host.Outcome State Fault Refusal :=
  s.map 0x022 f (fun _ _ => movedValue f (immOperand f (regsOf f.ty)))

/-- The six conditions: eq, ne, lt, le, gt, ge. -/
def condition (n : Nat) (lt eq : Bool) : Bool :=
  match n with
  | 0 => eq
  | 1 => !eq
  | 2 => lt
  | 3 => lt || eq
  | 4 => !lt && !eq
  | _ => !lt

def execCmp (f : Fields) (s : State) : Host.Outcome State Fault Refusal :=
  s.mapPred 0x023 f (fun _ r =>
    let w := bitsOf f.ty
    let a := toInt (isSigned f.ty) w r.a
    let b := toInt (isSigned f.ty) w r.b
    condition f.c.toNat (a < b) (a == b))

end Sys2Proof.Machine
end

