-- ==== Sys2Proof/Machine/Float.lean ====
section
/-! DEFINITION. Floating-point arithmetic, comparison, classification and dot product (R100 to R103). -/

namespace Sys2Proof.Machine

/-- Elements of a value of a floating type: two halves of a packed type, else the value. -/
def elemsOf (t : Ty) (x : Nat) : List Nat :=
  match t with
  | .bf16x2 | .f16x2 => [x % 2 ^ 16, x / 2 ^ 16 % 2 ^ 16]
  | .f16 | .bf16 => [x % 2 ^ 16]
  | _ => [x]

/-- Put 16-bit elements back together. -/
def joinElems : List Nat → Nat
  | [] => 0
  | [x] => x
  | x :: l => x + 2 ^ 16 * joinElems l

/-- The draw word of a result element: used by RSR alone (R53). -/
def Group.draws (g : Group) (r : Rnd) (t j : Nat) : Nat := if r = .rsr then g.drawWord t j else 0

/-- One rounded operation per element on the flushed inputs (R100). -/
def Group.fpu (g : Group) (f : Fields) (r : Row) (op : Rnd → FV → FV → FV → FV) (n : Nat) : Nat :=
  let fm := fmtOfTy f.ty
  let rd := g.rounding f.rnd
  joinElems ((((elemsOf f.ty r.a).zip ((elemsOf f.ty r.b).zip (elemsOf f.ty r.c))).zipIdx).map (fun (e : (Nat × Nat × Nat) × Nat) =>
    let a := g.input fm e.1.1
    let b := g.input fm e.1.2.1
    let c := g.input fm e.1.2.2
    g.result fm rd (g.draws rd r.t e.2) ([a, b, c].take n) (op rd a b c)))

def execFadd (f : Fields) (s : State) : Host.Outcome State Fault Refusal :=
  s.map 0x080 f (fun g r => g.fpu f r (fun rd a b _ => sumFV rd [a, b]) 2)
def execFsub (f : Fields) (s : State) : Host.Outcome State Fault Refusal :=
  s.map 0x081 f (fun g r => g.fpu f r (fun rd a b _ => sumFV rd [a, b.neg]) 2)
def execFmul (f : Fields) (s : State) : Host.Outcome State Fault Refusal :=
  s.map 0x082 f (fun g r => g.fpu f r (fun _ a b _ => a.mul b) 2)
def execFfma (f : Fields) (s : State) : Host.Outcome State Fault Refusal :=
  s.map 0x083 f (fun g r => g.fpu f r (fun rd a b c => sumFV rd [a.mul b, c]) 3)

/-- FMIN and FMAX of one element (R101). -/
def Group.fpick (g : Group) (fm : Fmt) (pick : FV → FV → FV) (x y : Nat) : Nat :=
  let a := g.input fm x
  let b := g.input fm y
  g.result fm .rne 0 (if a.isNan && b.isNan then [a, b] else []) (pick a b)

/-- FMIN and FMAX of the elements of a value. -/
def Group.fpicks (g : Group) (f : Fields) (pick : FV → FV → FV) (a b : Nat) : Nat :=
  joinElems (((elemsOf f.ty a).zip (elemsOf f.ty b)).map (fun e => g.fpick (fmtOfTy f.ty) pick e.1 e.2))

def execFmin (f : Fields) (s : State) : Host.Outcome State Fault Refusal :=
  s.map 0x084 f (fun g r => g.fpicks f FV.min r.a r.b)
def execFmax (f : Fields) (s : State) : Host.Outcome State Fault Refusal :=
  s.map 0x085 f (fun g r => g.fpicks f FV.max r.a r.b)

/-- The eight conditions of FCMP (R101). -/
def fcondition (n : Nat) (a b : FV) : Bool :=
  let un := a.isNan || b.isNan
  match n with
  | 6 => un
  | 7 => !un
  | 1 => un || condition 1 (a.lt b) (a.eq b)
  | n => !un && condition n (a.lt b) (a.eq b)

def execFcmp (f : Fields) (s : State) : Host.Outcome State Fault Refusal :=
  s.mapPred 0x086 f (fun g r => fcondition f.c.toNat (g.input (fmtOfTy f.ty) r.a) (g.input (fmtOfTy f.ty) r.b))

/-- Class mask of R102. -/
def fclassOf (f : Fmt) (x : Nat) : Nat :=
  match f.decode (x % 2 ^ f.w) with
  | .nan _ _ => 2 ^ 8
  | .inf s => if s then 2 ^ 0 else 2 ^ 7
  | .fin s m _ =>
    if m = 0 then (if s then 2 ^ 3 else 2 ^ 4)
    else if m < 2 ^ f.mb then (if s then 2 ^ 2 else 2 ^ 5)
    else if s then 2 ^ 1 else 2 ^ 6

def execFclass (f : Fields) (s : State) : Host.Outcome State Fault Refusal :=
  s.map 0x087 f (fun _ r => fclassOf (fmtOfTy f.ty) r.a)

/-- Dot product of two halves and an FP32 addend with one rounding (R103). -/
def execFdot2 (f : Fields) (s : State) : Host.Outcome State Fault Refusal :=
  s.map 0x088 f (fun g r =>
    let fm := fmtOfTy f.ty
    let rd := g.rounding f.rnd
    let a := (elemsOf f.ty r.a).map fm.decode
    let b := (elemsOf f.ty r.b).map fm.decode
    let c := g.input fp32 r.c
    g.result fp32 rd (g.draws rd r.t 0) (a ++ b ++ [c]) (sumFV rd (List.zipWith FV.mul a b ++ [c])))

end Sys2Proof.Machine
end

