-- ==== Sys2Proof/Machine/Transc.lean ====
section
/-! DEFINITION. FRCP, FRSQ, FSQRT, FEXP2, FLOG2, FSINPI and FCOSPI (R104, R105): exact where the manual fixes the result; else
a free value of the input (Config), kept within the stated error by bounds of the exact result (log 8). -/

namespace Sys2Proof.Machine

/-! ### Bounds of the exact results -/

def Dy.sub (a b : Dy) : Dy := a.add ⟨-b.n, b.e⟩
def Dy.le (a b : Dy) : Bool := (a.sub b).n ≤ 0
def Dy.neg (a : Dy) : Dy := ⟨-a.n, a.e⟩

/-- Exponent of a non-zero number's leading bit. -/
def Dy.top (v : Dy) : Int := Nat.log2 v.n.natAbs + v.e

/-- Spacing of FP32 values at the binade of a number between two bounds of one sign (R104), times `k / 2`. Only the bound of larger
magnitude can reach the next binade, since an exact result at a power of two has no bounds. -/
def ulps (k : Int) (b : Dy × Dy) : Dy :=
  let top := if b.1.top ≤ b.2.top then b.1.top else b.2.top
  ⟨k, (if top - 23 < -149 then -149 else top - 23) - 1⟩

/-- A value that lies within `tol` of every number from `lo` to `hi`. -/
def accepted (cand : Nat) (lo hi tol : Dy) : Bool :=
  match fp32.decode cand with
  | .nan _ _ => false
  | .inf s => if s then (hi.sub tol).le ⟨-1, 128⟩ else (⟨1, 128⟩ : Dy).le (lo.add tol)
  | .fin s m e => hi.le ((⟨signed s m, e⟩ : Dy).add tol) && (⟨signed s m, e⟩ : Dy).le (lo.add tol)

/-- The free value, or the nearest FP32 value where it lies outside its bounds. -/
def bounded (cand : Word) (b : Dy × Dy) (tol : Dy) : Nat :=
  if accepted cand.toNat b.1 b.2 tol then cand.toNat else fp32.encode .rne 0 (.fin (b.1.n < 0) b.1.n.natAbs b.1.e)

/-- Whether `m` is a power of two. -/
def isPow2 (m : Nat) : Bool := m == 2 ^ Nat.log2 m

/-- Bounds of `2^F`, `F` a 64-bit fraction of which `k` bits remain, in units of `2^-96`. -/
def exp2Fix : Nat → Nat → Nat × Nat → Nat × Nat → Nat × Nat
  | 0, _, _, acc => acc
  | k + 1, fr, r, acc =>
    let r := (isqrt (r.1 * 2 ^ 96), isqrt (r.2 * 2 ^ 96) + 1)
    exp2Fix k fr r (if bit fr k then (acc.1 * r.1 / 2 ^ 96, acc.2 * r.2 / 2 ^ 96 + 1) else acc)

/-- Bounds of `2^a` for a non-zero value `a` of magnitude below 150. -/
def exp2Bounds (s : Bool) (m : Nat) (e : Int) : Dy × Dy :=
  if (Nat.log2 m : Int) + e < -40 then (if s then (⟨2 ^ 40 - 1, -40⟩, ⟨2 ^ 40, -40⟩) else (⟨2 ^ 40, -40⟩, ⟨2 ^ 40 + 1, -40⟩))
  else
    let fix : Int := signed s (m * 2 ^ (e + 64).toNat)
    let n := fix / 2 ^ 64
    let b := exp2Fix 64 (fix % 2 ^ 64).toNat (2 ^ 97, 2 ^ 97) (2 ^ 96, 2 ^ 96)
    (⟨b.1, n - 96⟩, ⟨b.2, n - 96⟩)

/-- `k` bits of the logarithm of `y` in units of `2^-192`, rounding every step down or up. -/
def log2Fix (up : Nat) : Nat → Nat → Nat → Nat
  | 0, _, acc => acc
  | k + 1, y, acc =>
    let z := y * y / 2 ^ 192 + up
    if 2 ^ 193 ≤ z then log2Fix up k (z / 2 + up) (2 * acc + 1) else log2Fix up k z (2 * acc)

/-- Bounds of log2 of `m * 2^e`. -/
def log2Bounds (m : Nat) (e : Int) : Dy × Dy :=
  let l := Nat.log2 m
  let y := m * 2 ^ 192 / 2 ^ l
  let b : Int := (l + e) * 2 ^ 90
  (⟨b + log2Fix 0 90 y 0, -90⟩, ⟨b + log2Fix 1 90 y 0 + 1, -90⟩)

/-- Pi in units of `2^-96`, rounded down. -/
def piFix : Nat := 0x3243F6A8885A308D313198A2E

/-- `t - t*z/(d(d+1)) + ...` in units of `2^-96`. -/
def altSeries (z : Nat) : Nat → Nat → Nat → Int
  | 0, _, t => t
  | k + 1, d, t => t - altSeries z k (d + 2) (t * z / 2 ^ 96 / (d * (d + 1)))

/-- Bounds of sin(pi r) or cos(pi r) for `r = m * 2^e` from 0 to 1/4. -/
def trigBounds (cos : Bool) (m : Nat) (e : Int) : Dy × Dy :=
  let r := if 0 ≤ e + 96 then m * 2 ^ (e + 96).toNat else m / 2 ^ (-(e + 96)).toNat
  let x := r * piFix / 2 ^ 96
  let z := x * x / 2 ^ 96
  let p := altSeries z 16 (if cos then 1 else 2) (2 ^ 96)
  if cos then (⟨p - 64, -96⟩, ⟨p + 64, -96⟩)
  else (⟨(p - 64) * (m * piFix : Nat), e - 192⟩, ⟨(p + 64) * (m * (piFix + 1) : Nat), e - 192⟩)

/-! ### The instructions -/

/-- A result by R105: `nan` keeps the payload of a NaN input. -/
def Group.special (g : Group) (x : FV) (v : FV) : Nat := g.result fp32 .rne 0 [x] v

def canonNan : FV := .nan false (2 ^ 22)

/-- One FP32 input, one FP32 result, deferred. -/
def State.unary (s : State) (op : Nat) (f : Fields) (fn : Group → Nat → Row → Nat) : Host.Outcome State Fault Refusal :=
  s.mapLater op f (fun g r => g.flushIn fp32 (fn g (g.flushIn fp32 r.a) r))

def Group.frcp (g : Group) (x : Nat) : Nat :=
  let v := fp32.decode x
  match v with
  | .nan _ _ => g.special v v
  | .inf s => fp32.withSign s 0
  | .fin s m e =>
    if m = 0 then fp32.infCode s
    else
      let q := 2 ^ 96 / m
      let lo : Dy := ⟨signed s q, -e - 96⟩
      let hi : Dy := ⟨signed s (q + 1), -e - 96⟩
      if isPow2 m && -e - Nat.log2 m < 128 then fp32.encode .rne 0 (.fin s 1 (-e - Nat.log2 m))
      else
        let b := if s then (hi, lo) else (lo, hi)
        bounded (Config.frcp (.ofNat 32 x)) b (ulps 2 b)

/-- Inverse root: the root's exponent is exact where the magnitude is an even power of two. -/
def Group.frsq (g : Group) (x : Nat) : Nat :=
  let v := fp32.decode x
  match v with
  | .nan _ _ => g.special v v
  | .inf s => if s then fp32.cnan else 0
  | .fin s m e =>
    if m = 0 then fp32.infCode s
    else if s then fp32.cnan
    else
      let m2 := if e % 2 = 0 then m else 2 * m
      let e2 := if e % 2 = 0 then e else e - 1
      if isPow2 m && (e + Nat.log2 m) % 2 = 0 then fp32.encode .rne 0 (.fin false 1 (-(e + Nat.log2 m) / 2))
      else
        let q := isqrt (2 ^ 192 / m2)
        let k := -e2 / 2 - 96
        let b : Dy × Dy := (⟨q, k⟩, ⟨q + 2, k⟩)
        bounded (Config.frsq (.ofNat 32 x)) b (ulps 2 b)

def Group.fsqrt (g : Group) (f : Fields) (x : Nat) (t : Nat) : Nat :=
  let v := fp32.decode x
  match v with
  | .nan _ _ => g.special v v
  | .inf s => if s then fp32.cnan else fp32.infCode false
  | .fin s m e =>
    if m = 0 then x
    else if s then fp32.cnan
    else fp32.round (g.rounding f.rnd) (g.draws (g.rounding f.rnd) t 0) false (sqrtMag m e)

def Group.fexp2 (g : Group) (x : Nat) : Nat :=
  let v := fp32.decode x
  match v with
  | .nan _ _ => g.special v v
  | .inf s => if s then 0 else fp32.infCode false
  | .fin s m e =>
    let a : Dy := ⟨signed s m, e⟩
    if m = 0 then 0x3F800000
    else if (⟨128, 0⟩ : Dy).le a then fp32.infCode false
    else if a.le ⟨-150, 0⟩ then 0
    else if 0 ≤ e || m % 2 ^ (-e).toNat = 0 then
      fp32.encode .rne 0 (.fin false 1 (if 0 ≤ e then shl (signed s m) e else signed s (m / 2 ^ (-e).toNat)))
    else
      let b := exp2Bounds s m e
      bounded (Config.fexp2 (.ofNat 32 x)) b (ulps 4 b)

def Group.flog2 (g : Group) (x : Nat) : Nat :=
  let v := fp32.decode x
  match v with
  | .nan _ _ => g.special v v
  | .inf s => if s then fp32.cnan else fp32.infCode false
  | .fin s m e =>
    if m = 0 then fp32.infCode true
    else if s then fp32.cnan
    else if isPow2 m then
      let n : Int := Nat.log2 m + e
      fp32.encode .rne 0 (.fin (n < 0) n.natAbs 0)
    else
      let b := log2Bounds m e
      let inside := (⟨1, -1⟩ : Dy).le ⟨m, e⟩ && (⟨m, e⟩ : Dy).le ⟨2, 0⟩
      bounded (Config.flog2 (.ofNat 32 x)) b (if inside then ⟨1, -22⟩ else ulps 4 b)

/-- Negate both bounds where the result is negative. -/
def signedBounds (neg : Bool) (b : Dy × Dy) : Dy × Dy := if neg then (b.2.neg, b.1.neg) else b

/-- sin(pi a) or cos(pi a) of a value (R105). -/
def Group.ftrig (g : Group) (cos : Bool) (cand : Word) (x : Nat) : Nat :=
  let v := fp32.decode x
  match v with
  | .nan _ _ => g.special v v
  | .inf _ => fp32.cnan
  | .fin s m e =>
    let unit := if 0 ≤ e then 1 else 2 ^ (-e).toNat
    let whole := if 0 ≤ e then m * 2 ^ e.toNat else m / unit
    let fr := if 0 ≤ e then 0 else m % unit
    let odd := whole % 2 == 1
    let one (neg : Bool) : Nat := fp32.withSign neg 0x3F800000
    if fr = 0 then (if cos then one odd else fp32.withSign s 0)
    else if 2 * fr = unit then (if cos then 0 else one (odd != s))
    else
      let far := unit < 2 * fr
      let h := if far then unit - fr else fr
      let low := 4 * h ≤ unit
      let b := if low then trigBounds cos h e else trigBounds (!cos) (unit - 2 * h) (e - 1)
      let b := signedBounds (if cos then odd != far else odd != s) b
      bounded cand b (ulps 3 b)

def execFrcp (f : Fields) (s : State) : Host.Outcome State Fault Refusal := s.unary 0x090 f (fun g x _ => g.frcp x)
def execFrsq (f : Fields) (s : State) : Host.Outcome State Fault Refusal := s.unary 0x091 f (fun g x _ => g.frsq x)
def execFsqrt (f : Fields) (s : State) : Host.Outcome State Fault Refusal := s.unary 0x092 f (fun g x r => g.fsqrt f x r.t)
def execFexp2 (f : Fields) (s : State) : Host.Outcome State Fault Refusal := s.unary 0x093 f (fun g x _ => g.fexp2 x)
def execFlog2 (f : Fields) (s : State) : Host.Outcome State Fault Refusal := s.unary 0x094 f (fun g x _ => g.flog2 x)
def execFsinpi (f : Fields) (s : State) : Host.Outcome State Fault Refusal :=
  s.unary 0x095 f (fun g x _ => g.ftrig false (Config.fsinpi (.ofNat 32 x)) x)
def execFcospi (f : Fields) (s : State) : Host.Outcome State Fault Refusal :=
  s.unary 0x096 f (fun g x _ => g.ftrig true (Config.fcospi (.ofNat 32 x)) x)

end Sys2Proof.Machine
end

