-- ==== Sys2Proof/Machine/Conv.lean ====
section
/-! DEFINITION. Conversion and packing: CVT, CVTPK, QPACK, SCALEGEN and QUNPK (R49 to R51, R59 to R61, R106 to R110). -/

namespace Sys2Proof.Machine

/-! ### Format slots (R49) -/

/-- Slot word of the launch of the group. -/
def State.slot (s : State) (n : BitVec 3) : Word := (s.launch s.g.lid).lrec.slots.getD n.toNat 0

def slotFmt (w : Word) : Nat := w.toNat % 16
def slotSkind (w : Word) : Nat := bits w.toNat 5 4
def slotBand (w : Word) : Bool := bit w.toNat 6
def slotValid (w : Word) : Bool := bit w.toNat 7
def slotLayout (w : Word) : Nat := bits w.toNat 15 8
def slotShift (w : Word) : Nat := bits w.toNat 20 16

/-- OVF legal for a format code (R60). -/
def ovfOkFmt (fmt ovf : Nat) : Bool :=
  match fmt with
  | 0 | 1 | 2 | 4 => true
  | 3 => ovf != 1
  | _ => ovf == 0 || ovf == 3

/-- Check of an instruction that names a slot: bound, one of these formats, OVF legal, and a condition of its own (R51, R60). -/
def slotCheck (w : Word) (fmts : List Nat) (ovf : Nat) (ok : Bool) : Chk :=
  Chk.when (!(slotValid w && fmts.contains (slotFmt w) && ovfOkFmt (slotFmt w) ovf && ok)) (.trap .illegal)

/-- Elements of a slot format in one register. -/
def perReg (fmt : Nat) : Nat := if fmtBits fmt = 0 then 0 else 32 / fmtBits fmt

/-! ### Conversion of one value (R59, R60) -/

/-- A conversion target: a floating format or an integer range. -/
inductive Target where
  | fp (f : Fmt)
  | int (sg : Bool) (w : Nat)

/-- Target of a format code: I8 converts as an integer. -/
def targetOf (fmt : Nat) : Target := match fmtOf fmt with | some f => .fp f | none => .int true 8

def targetOfTy (t : Ty) : Target := if floats3.contains t then .fp (fmtOfTy t) else .int (isSigned t) (bitsOf t)

/-- Result of an overflow; none raises CONVOVF. -/
def ovfResult (t : Target) (ovf : Nat) (s : Bool) : Option Nat :=
  match t with
  | .fp f => match ovf with | 0 => some (f.withSign s f.maxCode) | 1 => some (f.infCode s) | 2 => some f.cnan | _ => none
  | .int sg w => if ovf = 0 then some (if s then (if sg then 2 ^ (w - 1) else 0) else if sg then 2 ^ (w - 1) - 1 else 2 ^ w - 1) else none

/-- Convert an exact magnitude with a sign. -/
def convertMag (t : Target) (r : Rnd) (w ovf : Nat) (s : Bool) (x : Mag) : Option Nat :=
  match t with
  | .fp f =>
    let c := f.roundRaw r w s x
    if c.2 then ovfResult t ovf s else some c.1
  | .int sg n =>
    let p := x.split 0
    let m := if roundUp r w s (p.1 % 2 == 1) false p.2.1 p.2.2 then p.1 + 1 else p.1
    let v := signed s m
    let lo : Int := if sg then -(2 ^ (n - 1)) else 0
    let hi : Int := if sg then 2 ^ (n - 1) - 1 else 2 ^ n - 1
    if v < lo || hi < v then ovfResult t ovf s else some (wrap n v)

/-- Convert a floating value; none raises CONVOVF. -/
def Group.convert (g : Group) (t : Target) (r : Rnd) (w ovf : Nat) (v : FV) : Option Nat :=
  match v with
  | .nan _ _ =>
    match t with
    | .fp f => if f.nan.isSome then g.nanOf f [v] else if ovf = 0 then some 0 else none
    | .int _ _ => if ovf = 0 then some 0 else none
  | .inf s =>
    match t with
    | .fp f => if f.inf.isSome then some (f.infCode s) else ovfResult t ovf s
    | .int _ _ => ovfResult t ovf s
  | .fin s m e => convertMag t r w ovf s ⟨m, 1, e⟩

/-- The value of a source of a type, flushed where it is FP32. -/
def Group.valueOf (g : Group) (t : Ty) (x : Nat) : FV :=
  if floats3.contains t then g.input (fmtOfTy t) x
  else
    let v := toInt (isSigned t) (bitsOf t) x
    .fin (v < 0) v.natAbs 0

/-- Flush a result of FP32 type. -/
def Group.flushTarget (g : Group) (t : Target) (x : Nat) : Nat := match t with | .fp f => g.flushIn f x | .int _ _ => x

/-- Element `h` of `n` bits in a register value, and its replacement. -/
def element (n h x : Nat) : Nat := x / 2 ^ (n * h) % 2 ^ n
def putElement (n h x v : Nat) : Nat := x - element n h x * 2 ^ (n * h) + v % 2 ^ n * 2 ^ (n * h)

/-- Value of an element of a slot format: I8 is an integer. -/
def elemValue (fmt x : Nat) : FV :=
  match fmtOf fmt with
  | some f => f.decode x
  | none => let v := toSigned 8 x; .fin (v < 0) v.natAbs 0

/-- All results, or none where one overflows under OVF 11. -/
def allSome : List (Nat × Option Nat) → Option (List (Nat × Nat))
  | [] => some []
  | (t, some v) :: l => (allSome l).map (fun r => (t, v) :: r)
  | (_, none) :: _ => none

/-- Write checked conversions: CONVOVF before any write, a deferred write under OVF 11, else a chained one (R59, R93). -/
def State.converted (s : State) (f : Fields) (w : Nat) (s0 : State) (l : List (Nat × Option Nat)) : State :=
  match allSome l with
  | none => s0.trap .convovf f.len
  | some r => if f.ext.ovf = 3 then s.later f w r else s.chain f w r

/-- The formats of CVT and CVTPK on slots (R106, R107). -/
def cvtFmts : List Nat := [3, 4, 5, 6, 7]

def execCvt (f : Fields) (s : State) : Host.Outcome State Fault Refusal :=
  let sw := s.slot f.ext.fslot
  let fmt := slotFmt sw
  let h := f.ext.xsub.toNat % 8
  let ovf := f.ext.ovf.toNat
  s.instr 0x0A0 f (if f.mod = 0 then .ok else slotCheck sw cvtFmts ovf (h < perReg fmt)) false (fun s' fm rows =>
    let g := s'.g
    let rd := g.rounding f.rnd
    s'.converted f fm.d.width s (rows.map (fun r =>
      let w := g.draws rd r.t 0
      (r.t,
        if f.mod = 0 then
          let t := targetOfTy ((cvtTarget f).getD f.ty)
          (g.convert t rd w ovf (g.valueOf f.ty r.a)).map (g.flushTarget t)
        else if f.mod = 1 then
          (g.convert (targetOf fmt) rd w ovf (g.valueOf f.ty r.a)).map (putElement (fmtBits fmt) h r.c)
        else
          let t := targetOfTy f.ty
          (g.convert t .rne 0 0 (elemValue fmt (element (fmtBits fmt) h r.a))).map (g.flushTarget t)))))

def execCvtpk (f : Fields) (s : State) : Host.Outcome State Fault Refusal :=
  let sw := s.slot f.ext.fslot
  let fmt := slotFmt sw
  let h := f.ext.xsub.toNat % 4
  let ovf := f.ext.ovf.toNat
  s.instr 0x0A1 f (if f.mod = 0 then .ok else slotCheck sw cvtFmts ovf (2 * h < perReg fmt)) false (fun s' fm rows =>
    let g := s'.g
    let rd := g.rounding f.rnd
    s'.converted f fm.d.width s (rows.map (fun r =>
      let t := if f.mod = 0 then .fp (if f.ext.num2 = 7 then bf16 else fp16) else targetOf fmt
      let n := if f.mod = 0 then 16 else fmtBits fmt
      let x := g.convert t rd (g.draws rd r.t 0) ovf (g.valueOf f.ty r.a)
      let y := g.convert t rd (g.draws rd r.t 1) ovf (g.valueOf f.ty r.b)
      (r.t, match x, y with
        | some x, some y =>
          if f.mod = 0 then some (x + 2 ^ 16 * y) else some (putElement n (2 * h + 1) (putElement n (2 * h) r.c x) y)
        | _, _ => none))))

/-! ### Block scales (R108) -/

/-- Value of a scale code, and whether it is a NaN code or zero. -/
def scaleValue (skind c : Nat) : FV :=
  match skind with
  | 1 => e3m5 c
  | 2 => e8m0 c
  | _ => e4m3.decode c

/-- A scale value as a dyadic. -/
def FV.dy : FV → Dy
  | .fin s m e => ⟨signed s m, e⟩
  | _ => ⟨0, 0⟩

/-- Smallest code from 1 to `top` whose value times `k` reaches `m`; none where none does. -/
def smallestCode (val : Nat → FV) (top : Nat) (k m : Dy) : Option Nat :=
  (List.range (top + 1)).find? (fun c => c != 0 && m.le ((val c).dy.mul k))

/-- Largest magnitude of finite values. -/
def amax (l : List FV) : Dy :=
  l.foldl (fun acc v => let d := v.dy; let d : Dy := ⟨d.n.natAbs, d.e⟩; if acc.le d then d else acc) ⟨0, 0⟩

/-- A tensor scale that is positive and finite. -/
def tensorOk : FV → Bool
  | .fin false m _ => m != 0
  | _ => false

def isFinite : FV → Bool
  | .fin _ _ _ => true
  | _ => false

/-- Scale code of a block, and whether it raises CONVOVF under OVF 11 (R108). -/
def blockScale (skind fmt : Nat) (t : FV) (l : List FV) : Nat × Bool :=
  let m := amax l
  let special := !l.all isFinite
  match skind with
  | 1 =>
    if special then (0, true) else if m.n = 0 then (0, false)
    else match smallestCode e3m5 255 ⟨6, 0⟩ m with | some c => (c, false) | none => (255, true)
  | 2 =>
    if special then (255, true) else if m.n = 0 then (0x7F, false)
    else
      let emax : Int := if fmt = 3 then 8 else if fmt = 4 then 15 else 2
      let c : Int := Nat.log2 m.n.natAbs + m.e - emax + 127
      ((if c < 0 then 0 else if 254 < c then 254 else c.toNat), false)
  | _ =>
    if !tensorOk t || special then (0x7F, true) else if m.n = 0 then (0, false)
    else
      let fmax : Dy := if fmt = 3 then ⟨448, 0⟩ else if fmt = 4 then ⟨57344, 0⟩ else ⟨6, 0⟩
      match smallestCode e4m3.decode 0x7E (t.dy.mul fmax) m with
      | some c => (c, false)
      | none => (0x7E, true)

/-- Formats of QPACK, SCALEGEN and QUNPK. -/
def packFmts : List Nat := [3, 4, 5, 6]

/-- The rows of a thread's block, its scale and its scale's CONVOVF. -/
def Group.scaleOf (g : Group) (f : Fields) (sw : Word) (rows : List Row) (r : Row) : Nat × Bool :=
  let n := 2 ^ slotShift sw
  blockScale (slotSkind sw) (slotFmt sw) (g.input fp32 r.b)
    ((rows.filter (fun x => x.t / n == r.t / n)).map (fun x => g.valueOf f.ty x.a))

/-- Slot check of QPACK and SCALEGEN: B is the tensor scale exactly under SKIND 11. -/
def packCheck (sw : Word) (f : Fields) : Chk :=
  slotCheck sw packFmts f.ext.ovf.toNat (slotSkind sw != 0 && ((slotSkind sw == 3) == (f.b != 0xF3)))

def execQpack (f : Fields) (s : State) : Host.Outcome State Fault Refusal :=
  let sw := s.slot f.ext.fslot
  let ovf := f.ext.ovf.toNat
  s.instr 0x0A2 f (packCheck sw f) false (fun s' fm rows =>
    let g := s'.g
    let rd := g.rounding f.rnd
    let one (r : Row) : Option Nat :=
      let sc := g.scaleOf f sw rows r
      let dv := (scaleValue (slotSkind sw) sc.1)
      let dv := if slotSkind sw = 3 then dv.mul (g.input fp32 r.b) else dv
      if sc.2 && ovf == 3 then none
      else
        match dv, g.valueOf f.ty r.a with
        | .fin _ dm de, .fin xs xm xe =>
          if dm = 0 then some (sc.1 * 256)
          else (convertMag (targetOf (slotFmt sw)) rd (g.draws rd r.t 0) ovf xs ⟨xm, dm, xe - de⟩).map (· + sc.1 * 256)
        | _, _ => some (sc.1 * 256)
    match allSome (rows.map (fun r => (r.t, one r))) with
    | none => s.trap .convovf f.len
    | some l => s'.later f fm.d.width l)

def execScalegen (f : Fields) (s : State) : Host.Outcome State Fault Refusal :=
  let sw := s.slot f.ext.fslot
  s.instr 0x0A4 f (packCheck sw f) false (fun s' fm rows =>
    let g := s'.g
    match allSome (rows.map (fun r =>
      let sc := g.scaleOf f sw rows r
      (r.t, if sc.2 && f.ext.ovf == 3 then none else some (sc.1 * 256)))) with
    | none => s.trap .convovf f.len
    | some l => s'.later f fm.d.width l)

def execQunpk (f : Fields) (s : State) : Host.Outcome State Fault Refusal :=
  let sw := s.slot f.ext.fslot
  let fmt := slotFmt sw
  let h := f.ext.xsub.toNat % 8
  let k := slotSkind sw
  s.instr 0x0A3 f (slotCheck sw packFmts 0 (k != 0 && h < perReg fmt && (k == 3 || f.c == 0xF3))) false (fun s' fm rows =>
    let g := s'.g
    let rd := g.rounding f.rnd
    s'.later f fm.d.width (rows.map (fun r =>
      let x := elemValue fmt (element (fmtBits fmt) h r.a)
      let sc := scaleValue k (r.b / 256 % 256)
      let tv := g.input fp32 r.c
      let srcs := if k = 3 then [x, sc, tv] else [x, sc]
      (r.t, g.result fp32 rd (g.draws rd r.t 0) srcs (if k = 3 then (x.mul sc).mul tv else x.mul sc)))))

end Sys2Proof.Machine
end

