-- ==== Sys2Proof/Machine/Lane.lean ====
section
/-! DEFINITION. Predicates, lane operations, index registers and register allotment (R28 to R32, R111 to R124). -/

namespace Sys2Proof.Machine

/-! ### Predicates (R111 to R114) -/

def execPset (f : Fields) (s : State) : Host.Outcome State Fault Refusal :=
  s.mapPred 0x100 f (fun _ r => r.a &&& r.b != 0)

def execPlop (f : Fields) (s : State) : Host.Outcome State Fault Refusal :=
  s.mapPred 0x101 f (fun g r =>
    let op (x y : Bool) : Bool := if f.mod = 0 then x && y else if f.mod = 1 then x || y else x != y
    op (op (g.predField f.u f.a r.t) (g.predField f.u f.b r.t)) (g.predField f.u f.c r.t))

/-- All predicates of a thread, or the g registers, as bits 7 to 0. -/
def Group.predWord (g : Group) (u : Bool) (t : Nat) : Nat :=
  ((List.range 8).map (fun n => (if u then g.gpred n else g.pred n t).toNat * 2 ^ n)).sum

def execPmov (f : Fields) (s : State) : Host.Outcome State Fault Refusal :=
  s.instr 0x102 f .ok false (fun s fm rows =>
    if f.mod = 0 then s.chain f fm.d.width (rows.map (fun r => (r.t, s.g.predWord f.u r.t)))
    else
      s.done (rows.foldl (fun g r => (List.range 7).foldl (fun g n =>
        if f.u then g.setGpred n (bit r.a n) else g.setPred n r.t (bit r.a n)) g) s.g) f.len)

def execVote (f : Fields) (s : State) : Host.Outcome State Fault Refusal :=
  s.instr 0x103 f .ok false (fun s fm rows =>
    let g := s.g
    let yes := rows.filter (fun r => g.predField false f.a r.t)
    if f.mod = 2 then s.later f fm.d.width [(0, (yes.map (fun r => 2 ^ r.t)).sum)]
    else s.done (g.setGpred (f.d.toNat % 8) (if f.mod = 0 then yes.length == rows.length else !yes.isEmpty)) f.len)

/-! ### Lane operations (R115 to R121) -/

/-- Value that an active thread offers; none for an inactive one. -/
def valueIn (rows : List Row) (t : Nat) : Option Nat := (rows.find? (fun r => r.t == t)).map Row.a

/-- A deferred instruction whose threads read each other. -/
def State.cross (s : State) (op : Nat) (f : Fields) (fn : Group → List Row → Row → Nat) : Host.Outcome State Fault Refusal :=
  s.instr op f .ok false (fun s fm rows => s.later f fm.d.width (rows.map (fun r => (r.t, fn s.g rows r))))

/-- Source thread of SHFL; none where it is invalid (R116). -/
def shflFrom (mod t b : Nat) : Option Nat :=
  match mod with
  | 0 => some (b % 32)
  | 1 => if t < b then none else some (t - b)
  | 2 => if 31 < t + b then none else some (t + b)
  | _ => some (t ^^^ (b % 32))

def execShfl (f : Fields) (s : State) : Host.Outcome State Fault Refusal :=
  s.cross 0x110 f (fun _ rows r => ((shflFrom f.mod.toNat r.t r.b).bind (valueIn rows)).getD r.a)
def execSwpair (f : Fields) (s : State) : Host.Outcome State Fault Refusal :=
  s.cross 0x111 f (fun _ rows r => (valueIn rows (r.t ^^^ 1)).getD r.a)
def execBcast (f : Fields) (s : State) : Host.Outcome State Fault Refusal :=
  s.cross 0x112 f (fun _ rows r => (valueIn rows (r.b % 32)).getD 0)

/-- The combining operation of REDUX and SCAN, with its draw index (R119, R120). -/
def Group.combine (g : Group) (f : Fields) (t : Nat) (x y : Nat) : Nat :=
  let w := bitsOf f.ty
  let sg := isSigned f.ty
  let rd := g.rounding f.rnd
  match f.c.toNat with
  | 0 =>
    if f.ty = .f32 then
      let a := g.input fp32 x
      let b := g.input fp32 y
      g.result fp32 rd (g.draws rd t 0) [a, b] (sumFV rd [a, b])
    else (x + y) % 2 ^ w
  | 1 => if f.ty = .f32 then g.fpick fp32 FV.min x y else if toInt sg w y < toInt sg w x then y else x
  | 2 => if f.ty = .f32 then g.fpick fp32 FV.max x y else if toInt sg w x < toInt sg w y then y else x
  | 3 => x &&& y
  | 4 => x ||| y
  | _ => x ^^^ y

/-- One step of the tree of R119. -/
def treeStep (op : Nat → Nat → Nat → Nat) (step : Nat) (lv : Nat → Option Nat) (i : Nat) : Option Nat :=
  if i % 2 ^ step != 0 then lv i
  else
    match lv i, lv (i + 2 ^ (step - 1)) with
    | none, y => y
    | some x, none => some x
    | some x, some y => some (op (32 * step + i) x y)

/-- The value of the whole tree. -/
def treeOf (op : Nat → Nat → Nat → Nat) (lv : Nat → Option Nat) : Option Nat :=
  (List.range' 1 5).foldl (fun l step =>
    let vals := (List.range 32).map (fun i => treeStep op step (fun j => (l.getD j none)) i)
    vals) ((List.range 32).map lv) |>.getD 0 none

/-- A value as the operation takes it, also where it meets no other: an .f32 value flushed, a NaN the result for a NaN input (R57, R58). -/
def Group.enter (g : Group) (f : Fields) (x : Nat) : Nat :=
  if f.ty = .f32 then
    let y := g.flushIn fp32 x
    (g.nanOf fp32 [fp32.decode y]).getD y
  else x

def execRedux (f : Fields) (s : State) : Host.Outcome State Fault Refusal :=
  s.cross 0x113 f (fun g rows _ => (treeOf (g.combine f) (fun t => (valueIn rows t).map (g.enter f))).getD 0)

/-- Identity of an operation for a type (R120). -/
def identityOf (f : Fields) : Nat :=
  let w := bitsOf f.ty
  match f.c.toNat with
  | 1 => if f.ty = .f32 then 0x7F800000 else if isSigned f.ty then 2 ^ (w - 1) - 1 else 2 ^ w - 1
  | 2 => if f.ty = .f32 then 0xFF800000 else if isSigned f.ty then 2 ^ (w - 1) else 0
  | 3 => 2 ^ w - 1
  | _ => 0

/-- The scan over the active threads in order (R120). -/
def scanFrom (op : Nat → Nat → Nat → Nat) (excl : Bool) (ident : Nat) : Option Nat → List Row → List (Nat × Nat)
  | _, [] => []
  | acc, r :: l =>
    let next := match acc with | none => r.a | some x => op r.t x r.a
    (r.t, if excl then acc.getD ident else next) :: scanFrom op excl ident (some next) l

def execScan (f : Fields) (s : State) : Host.Outcome State Fault Refusal :=
  s.instr 0x114 f .ok false (fun s fm rows =>
    s.later f fm.d.width (scanFrom (s.g.combine f) (f.mod == 1) (identityOf f) none (rows.map (fun r => { r with a := s.g.enter f r.a }))))

def execMatchAny (f : Fields) (s : State) : Host.Outcome State Fault Refusal :=
  s.cross 0x115 f (fun _ rows r => ((rows.filter (fun x => x.a == r.a)).map (fun x => 2 ^ x.t)).sum)

/-! ### Index registers (R122, R123) -/

def execLdx (f : Fields) (s : State) : Host.Outcome State Fault Refusal :=
  s.instr 0x120 f .ok false (fun s _ rows =>
    let n := f.d.toNat % 8
    s.done (rows.foldl (fun g r => { g with x := Cells.set 0 g.x (32 * n + r.t) (.ofNat 8 r.a) }) (s.g.unmark 2 n)) f.len)

/-- STX. A poison mark of its index register is judged before the shared checks, whose order R122 does not extend to it (log 18). -/
def execStx (f : Fields) (s : State) : Host.Outcome State Fault Refusal :=
  s.instr 0x121 f (Chk.when (Cells.get false s.g.miscPoison (miscKey 2 (f.a.toNat % 8)) && !(s.g.active f).isEmpty) (.trap .poison)) false
    (fun s fm rows => s.chain f fm.d.width (rows.map (fun r => (r.t, s.g.index (f.a.toNat % 8) r.t))))

/-- XSET reads base and bound as whole s registers: R123 gives the reads no type (log 45). -/
def execXset (f : Fields) (s : State) : Host.Outcome State Fault Refusal :=
  s.instr 0x122 f .ok false (fun s' _ _ =>
    let base := s'.g.uval f f.a
    let bound := s'.g.uval f f.b
    let n := f.d.toNat % 8
    if 175 < base || 176 < base + bound then s.trap .indexbound f.len
    else
      let g := s'.g.unmark 2 n
      s'.done { g with xbase := Cells.set 0 g.xbase n base, xbound := Cells.set 0 g.xbound n bound } f.len)

/-! ### Register allotment (R28 to R30, R124) -/

/-- Groups that hold registers of the lane pair of a berth. -/
def State.pairGroups (s : State) (core berth : Nat) : List (Nat × Group) :=
  s.groups.filter (fun e => e.2.resident && e.2.core == core && e.2.berth / 16 == berth / 16)

/-- Registers free on a lane pair. -/
def State.freeRegs (s : State) (core berth : Nat) : Nat := 512 - ((s.pairGroups core berth).map (fun e => e.2.allot)).sum

/-- GROW reads all of an s register (log 45). The oldest request of the lane pair is granted first, and a request that cannot be met holds the later ones. -/
def execGrow (f : Fields) (s : State) : Host.Outcome State Fault Refusal :=
  s.instr 0x130 f .ok false (fun s' _ _ =>
    let g := s'.g
    let n := g.uval f f.a
    if !allotOk n then s.trap .illegal f.len
    else if n ≤ g.allot then s'.done g f.len
    else
      let order := g.growReq.getD s'.nextId
      let s' := if g.growReq.isNone then { s' with nextId := s'.nextId + 1 } else s'
      let older := (s'.pairGroups g.core g.berth).any (fun e => e.1 != s'.cur &&
        (match e.2.growReq with | some k => k < order | none => false))
      if older || s'.freeRegs g.core g.berth < n - g.allot then (s'.setG { g with growReq := some order }).stall (.growth n)
      else s'.done { g with allot := n, growReq := none } f.len)

/-- Drop registers from a number on, and the latch records of them (R25, R30). -/
def Group.dropRegs (g : Group) (n : Nat) : Group :=
  { g with
    v := g.v.filter (fun e => e.1 / 32 < n)
    vEmpty := g.vEmpty.filter (fun e => e.1 / 8 < n)
    vPoison := g.vPoison.filter (fun e => e.1 / 32 < n)
    latch := g.latch.map (fun l => match l with | some r => if r < n then some r else none | none => none)
    allot := n }

def execShrink (f : Fields) (s : State) : Host.Outcome State Fault Refusal :=
  s.instr 0x131 f .ok false (fun s' _ _ =>
    let g := s'.g
    let n := g.uval f f.a
    if !allotOk n then s.trap .illegal f.len
    else if g.allot ≤ n then s'.done g f.len
    else if g.pending.any (fun d => d.quads.any (fun q => n ≤ q / 8)) then s'.stall .instruction
    else s'.done (g.dropRegs n) f.len)

def execAllotq (f : Fields) (s : State) : Host.Outcome State Fault Refusal :=
  s.map 0x132 f (fun g _ => g.allot + 256 * (s.freeRegs g.core g.berth / 2) + 2 ^ 16 * g.ucount)

end Sys2Proof.Machine
end

