-- ==== Sys2Proof/Machine/Race.lean ====
section
/-! DEFINITION. The race filter (R174, R178, R187 to R192). -/

namespace Sys2Proof.Machine

/-! ### Task records (R178) -/

def recordSize : Nat := 320

/-- A number in a task record of a context. -/
def State.recNat (s : State) (ctx recNo off n : Nat) : Nat := (s.objNat (s.ctx ctx).trec (recordSize * recNo + off) n).getD 0

/-- Elements of a task record's path. -/
def State.recPath (s : State) (ctx recNo : Nat) : List Word :=
  (List.range (s.recNat ctx recNo 8 1)).map (fun i => .ofNat 32 (s.recNat ctx recNo (32 + 4 * i) 4))

/-- Path of a task-table entry: the elements of its task's record and the strand's own (R174, R190). -/
def State.pathOf (s : State) (e : TaskEntry) : List Word := s.recPath e.ctx e.record ++ [e.selem]

def State.rootOf (s : State) (e : TaskEntry) : Nat := s.recNat e.ctx e.record 0 8

/-! ### The filter -/

/-- Fields of a pedigree element (R172). -/
def elKind (w : Word) : Nat := w.toNat / 2 ^ 31
def elBlk (w : Word) : Nat := bits w.toNat 30 16
def elIdx (w : Word) : Nat := w.toNat % 2 ^ 16

/-- Whether two elements at the first differing level are ordered (R190). -/
def elOrdered (x y : Word) : Bool :=
  if elBlk x != elBlk y then true
  else if elKind x = 1 && elKind y = 1 then true
  else if elKind x = 0 && elKind y = 0 then false
  else if elKind x = 1 then elIdx x < elIdx y
  else elIdx y < elIdx x

/-- Whether the writes of two paths are ordered: decided at the first differing level. -/
def pathOrdered : List Word → List Word → Bool
  | x :: a, y :: b => if x = y then pathOrdered a b else elOrdered x y
  | _, _ => true

/-- Follow the forwarding chain of an entry; at most as many steps as the table has entries. -/
def State.resolveEntry (s : State) : Nat → Nat → Nat
  | 0, i => i
  | n + 1, i => if (s.task i).state = 3 then State.resolveEntry s n (s.task i).fwd else i

/-- Point every entry of a forwarding chain at its end. -/
def State.compress (s : State) (target : Nat) : Nat → Nat → State
  | 0, _ => s
  | n + 1, i =>
    if (s.task i).state = 3 && i != target then
      State.compress (s.setTask i { s.task i with fwd := target }) target n (s.task i).fwd
    else s

/-- A shadow word: the last writer's entry and generation. -/
def shadowWord (idx gen : Nat) : Word := .ofNat 32 (idx * 2 ^ 12 + gen % 2 ^ 12)

/-- The entry at the end of the chain of a granule's last writer; none where either side is unchecked or the writer is of another launch (R190). -/
def State.rival (s : State) (cur key : Nat) : Option Nat :=
  let c := s.task cur
  let w := Cells.get 0 s.shadow key
  let wi := w.toNat / 2 ^ 12
  let e := s.task wi
  if cur = 0 || wi = 0 || e.gen % 2 ^ 12 != w.toNat % 2 ^ 12 || e.ctx != c.ctx || e.lid != c.lid then none
  else some (s.resolveEntry s.tasks.length wi)

/-- Check one granule's write by the strand of entry `cur`: whether it is applied, and the state with the shadow that results. A chain that ends at
entry 0, where the parent's new strand found the table full, is unchecked like that entry itself (log 66). -/
def State.raceCheck (s : State) (cur key : Nat) : Bool × State :=
  let c := s.task cur
  let applied : State := { s with shadow := Cells.set 0 s.shadow key (shadowWord cur (if cur = 0 then 0 else c.gen)) }
  let wi := (Cells.get 0 s.shadow key).toNat / 2 ^ 12
  match s.rival cur key with
  | none => (true, applied)
  | some r =>
    let e := s.task r
    if r = cur || r = 0 || s.rootOf e != s.rootOf c || pathOrdered (s.pathOf e) (s.pathOf c) then (true, applied.compress r s.tasks.length wi)
    else (false, s.compress r s.tasks.length wi)

/-- Address of a task record of a context that the filter compares and whose page has no translation (R345). -/
def State.recordGone (s : State) (cur key : Nat) : Option Nat :=
  match s.rival cur key with
  | none => none
  | some r =>
    if r = cur || r = 0 then none
    else [r, cur].findSome? (fun i =>
      let e := s.task i
      let trec := (s.ctx e.ctx).trec
      if (s.objRun trec (recordSize * e.record) recordSize).isNone then some ((s.obj trec.toNat).vbase + recordSize * e.record) else none)

/-- Offset of a line's four shadow words in the context's shadow object; an object of ALLOCO has no place there (R187, R335; log 54). The line
of a shadow key is the key's quotient by 4. -/
def State.shadowOfs (s : State) (line : Nat) : Option Nat :=
  if 2 ^ 64 ≤ line / 2 ^ 34 then none else some ((s.obj (line / 2 ^ 34)).shofs * 65536 + 16 * (line % 2 ^ 34))

/-- Places of a line's shadow words in the shadow object; none where its page has no translation. -/
def State.shadowRun (s : State) (line : Nat) (write : Bool) : Option (List Loc) :=
  (s.shadowOfs line).bind (fun o => s.objRun (s.ctx (s.obj (line / 2 ^ 34)).ctx).shadow o 16 write)

/-- Four shadow words that L2 holds for a line. -/
def State.setShadows (s : State) (line : Nat) (ws : List Word) : State :=
  { s with shadow := Cells.setAll 0 s.shadow ((List.range 4).map (fun i => (4 * line + i, ws.getD i 0))) }

/-- A line's shadow words read back into L2 where they lie in the shadow object (R187); none where its page has no translation. -/
def State.readShadow (s : State) (key : Nat) : Option State :=
  let line := key / 4
  if !Cells.get false s.shadowOut line then some s
  else
    (s.shadowRun line false).map (fun l =>
      { s.setShadows line ((List.range 4).map (fun i => .ofNat 32 (s.readNat ((l.drop (4 * i)).take 4)))) with
        shadowOut := Cells.set false s.shadowOut line false })

/-- L2 evicts a line: its shadow words go to the shadow object (R187). An unmapped page there makes the context LOST (R345). -/
def State.evictLine (s : State) (line : Nat) : State :=
  match s.shadowOfs line with
  | none => s
  | some _ =>
    match s.shadowRun line true with
    | none =>
      let ctx := (s.obj (line / 2 ^ 34)).ctx
      s.loseCtx ctx ((s.partCores ctx).headD 0) (s.obj (s.ctx ctx).shadow.toNat).vbase
    | some l =>
      let ws := (List.range 4).flatMap (fun i => toLE 4 (Cells.get 0 s.shadow (4 * line + i)).toNat)
      let s := (s.store (l.zip ws) false).setShadows line []
      { s with shadowOut := Cells.set false s.shadowOut line true }

/-- What L2 evicts between two steps. -/
def State.evictShadow (s : State) : State :=
  match s.shadow with
  | [] => s
  | _ => match ((s.shadow.map (fun e => e.1 / 4)).eraseDups)[Config.evict s.freeCount]? with
    | some line => s.evictLine line
    | none => s

/-- An object's shadow words become 0 (R187, R303). -/
def State.clearShadow (s : State) (key : Nat) : State :=
  { s with shadow := s.shadow.filter (fun x => x.1 / 2 ^ 36 != key), shadowOut := s.shadowOut.filter (fun x => x.1 / 2 ^ 34 != key) }

/-- A write of `n` bytes that no strand issues takes the unchecked index 0, which its granules' shadow words then hold (R188, R190). -/
def State.uncheckedWrite (s : State) (key off n : Nat) : State :=
  if !(s.obj key).checked then s
  else
    ((List.range ((off + n + 15) / 16 - off / 16)).map (fun i => key * 2 ^ 36 + off / 16 + i)).foldl (fun s k =>
      match s.readShadow k with
      | some s => { s with shadow := Cells.set 0 s.shadow k 0 }
      | none =>
        let o := s.obj key
        s.loseCtx o.ctx ((s.partCores o.ctx).headD 0) (s.obj (s.ctx o.ctx).shadow.toNat).vbase) s

/-- Detail of a race record (R343): the strand that wrote last, by the entry that the shadow word names, and the strand that writes. -/
def State.raceDetail (s : State) (cur key : Nat) : List Byte :=
  let w := Cells.get 0 s.shadow key
  let e := s.task (w.toNat / 2 ^ 12)
  let c := s.task cur
  toLE 4 e.record ++ toLE 4 e.selem.toNat ++ toLE 4 c.record ++ toLE 4 c.selem.toNat ++ toLE 4 w.toNat ++ toLE 4 0

/-- Report a race: one KIND 6 record, a crumb, and the asynchronous trap of the issuing group (R192). None while the record cannot be
written, or no save slot is free. Where the group has ended, the record alone reports it and no disposition applies (log 66). -/
def State.reportRace (s : State) (gid ctx cur key va : Nat) (pc seq : Word) (core : Nat) : Option State :=
  match s.nameSlot gid with
  | none => none
  | some (slot, s) =>
    match s.faultRecord ctx ⟨6, Cause.race.code, slot, seq, pc, va, s.raceDetail cur key⟩ with
    | .full => none
    | .unmapped => some (s.loseCtx ctx core (s.faultVa ctx))
    | .written s =>
      let s := (s.crumb core ctx 0x10 (gBody pc seq (6 + 256 * Cause.race.code))).crumb core ctx 0x11 (gBody pc seq 0)
      let g := s.grp gid
      some (if g.status = .none then s else s.setGrp gid { g with traps := g.traps ++ [⟨.race, pc, seq⟩] })

/-- What the filter makes of one granule's write. -/
inductive Filtered where
  | apply (s : State)
  | race (s : State)
  | lost (s : State)

/-- Check a granule's write, its shadow word read back first; where that page, or that of a task record, has no translation the context is LOST,
with a KIND 5 record (R187, R190, R345). -/
def State.filterWrite (s : State) (gid ctx core cur key : Nat) (pc seq : Word) : Filtered :=
  match s.readShadow key with
  | none =>
    let r := s.nameOf gid pc seq
    .lost (r.2.loseCtx ctx core (s.obj (s.ctx ctx).shadow.toNat).vbase r.1)
  | some s =>
    match s.recordGone cur key with
    | some va => let r := s.nameOf gid pc seq; .lost (r.2.loseCtx ctx core va r.1)
    | none => let r := s.raceCheck cur key; if r.1 then .apply r.2 else .race r.2

end Sys2Proof.Machine
end

