-- ==== Sys2Proof/Machine/Access.lean ====
section
/-! DEFINITION. Accesses of groups to objects and vault windows: naming, checks, loads, stores, reductions and how a store is
performed (R197, R211, R222, R230 to R245, R334, R335, R341, R342). -/

namespace Sys2Proof.Machine

/-! ### Naming a location (R230, R231) -/

/-- A space: an object through a capability, the own window, or the window of a cluster rank, where it is resident. -/
inductive Space where
  | obj (c : Cap)
  | own (w : Nat)
  | remote (w : Option Nat)
  deriving DecidableEq, Repr

/-- Width of field 2 of a launch: the bits of the cluster rank (R154, R197). -/
def LaunchRec.rankBits (r : LaunchRec) : Nat := (r.fields.headD (0, 0)).1

/-- A workgroup that a remote access reaches: placed, not ended and not being killed (R197). -/
def Workgroup.reached (w : Workgroup) : Bool := w.live && !w.killed && !w.members.isEmpty

/-- The workgroup of a rank in the cluster of a workgroup (R197). -/
def State.rankWg (s : State) (w rank : Nat) : Option Nat :=
  let wg := s.wgOf w
  let n := 2 ^ (s.launch wg.lid).lrec.rankBits
  if n ≤ rank then none
  else (s.wgs.find? (fun e => e.2.reached && e.2.lid == wg.lid && e.2.id == wg.id / n * n + rank)).map Prod.fst

/-- Space that MOD and NUM1 name; none where a task names a vault. -/
def State.spaceOf (s : State) (mod num1 rank : Nat) : Option Space :=
  match mod with
  | 0 => some (.obj (s.g.kreg num1))
  | 1 => s.g.wg.map .own
  | _ => s.g.wg.map (fun w => .remote (s.rankWg w rank))

/-- One thread's access. -/
structure TAcc where
  t : Nat
  off : Nat
  deriving DecidableEq, Repr

/-- Offsets of the active threads (R231). -/
def accsOf (f : Fields) (b : Nat) (rows : List Row) : List TAcc :=
  rows.map (fun r => ⟨r.t, if f.mod = 0 then (b + r.a) % 2 ^ 64 else (b % 2 ^ 32 + r.a % 2 ^ 32) % 2 ^ 32⟩)

/-! ### Precise checks (R235) -/

/-- Tag, rights, then bounds and alignment of every thread's `n` bytes. -/
def State.accCheck (s : State) (sp : Option Space) (rights : List Nat) (n : Nat) (align : Bool) (l : List TAcc) : Chk :=
  let odd := align && l.any (fun a => a.off % n != 0)
  match sp with
  | none => .trap .capinvalid
  | some (.obj c) =>
    if !c.tag then .trap .capinvalid
    else if !rights.all c.has then .trap .caprights
    else Chk.when (odd || !l.all (fun a => c.covers a.off n)) (.trap .capbound)
  | some (.own w) => Chk.when (odd || l.any (fun a => (s.wgOf w).size < a.off + n)) (.trap .capbound)
  | some (.remote _) => Chk.when odd (.trap .capbound)

/-! ### From an access to places (R335, R340) -/

/-- What an access comes to: places with the virtual addresses of object bytes, an asynchronous cause, or a fault. -/
inductive Res where
  | ok (l : List (Option Nat × Loc))
  | async (c : Cause)
  | fault (va : Nat)
  deriving DecidableEq, Repr

/-- A store is ordered before a group's later accesses to its places: the group's own, or in deterministic mode one of the same scheduler
(R226, R398). -/
def State.before (s : State) (p : PStore) (gid : Nat) : Bool :=
  let g := s.grp gid
  p.gid == gid || ((s.ctx p.ctx).det && p.ctx == g.ctx && p.core == g.core && p.sched == g.sched)

/-- A byte that is side-logged by a store ordered before the group's later accesses (R222, R398). -/
def State.loggedBy (s : State) (gid ctx va : Nat) : Bool :=
  s.sideLog.any (fun e => s.before e gid && e.parts.any (fun p => p.bytes.any (fun b => b.1 == .virt ctx va) ||
    p.red.any (fun r => r.1.contains (.virt ctx va))))

/-- Places of `n` bytes for a read, an atomic or a store. A store's faulting bytes get a virtual place (R222, R342); a live meeting object drops
ordinary writes (R385). -/
def State.resolve (s : State) (sp : Space) (off n : Nat) (caps write side : Bool) : Res :=
  let ctx := s.g.ctx
  match sp with
  | .own w => .ok ((List.range n).map (fun i => (none, .vault w (off + i))))
  | .remote none => .async .capinvalid
  | .remote (some w) =>
    if (s.wgOf w).size < off + n then .async .capbound else .ok ((List.range n).map (fun i => (none, .vault w (off + i))))
  | .obj c =>
    match s.portCheck ctx c off n caps with
    | some e => .async e
    | none =>
      let o := s.obj (objKey ctx c.name)
      let va := o.vbase + off
      if o.home != s.devnum then .ok ((List.range n).map (fun i => (none, .peer (objKey ctx c.name) (off + i))))
      else if side && s.meetHeld (objKey ctx c.name) then .ok ((List.range n).map (fun i => (some (va + i), .drop)))
      else
        let page (va n : Nat) : Option (List (Option Nat × Loc)) :=
          match s.translate ctx va write with
          | some pa => some ((List.range n).map (fun i => (some (va + i), .mem (pa + i))))
          | none => if side then some ((List.range n).map (fun i => (some (va + i), .virt ctx (va + i)))) else none
        let n1 := Nat.min n (65536 - va % 65536)
        match page va n1 with
        | none => .fault va
        | some l =>
          if n1 = n then .ok l
          else match page (va + n1) (n - n1) with
            | none => .fault (va + n1)
            | some r => .ok (l ++ r)

/-! ### Loads -/

/-- A pending store of the group that covers a place. -/
def PStore.covers (p : PStore) (l : Loc) : Bool :=
  p.parts.any (fun q => q.bytes.any (fun b => b.1 == l) || q.red.any (fun r => r.1.contains l))

/-- A byte as the group reads it, with its mark: what stands there. A read waits for the group's own pending stores and forwards none of
them (R226, R227). -/
def State.ownByte (s : State) (l : Loc) : Byte × Bool := (s.byteAt l, s.poisonAt l)

/-- The group has no pending store and no side-log entry: what a release waits for (R218, R222). -/
def State.quiet (s : State) : Bool := s.quietOf s.cur

/-- A read of these places waits for a pending store that is ordered before it, or for a side-log entry (R222, R226, R229, R342, R398). -/
def State.readWaits (s : State) (l : List (Option Nat × Loc)) : Bool :=
  let g := s.g
  s.stores.any (fun p => s.before p s.cur && l.any (fun x => p.covers x.2)) ||
  s.sideLog.any (fun p => p.gid == s.cur && p.core != g.core) || l.any (fun x => s.held x.2) ||
  l.any (fun x => match x.1 with | some va => s.loggedBy s.cur g.ctx va | none => false)

/-- What the accesses of a load come to: a wait, a fault, or each thread's places (none where its access failed) and the causes to
report. -/
inductive Loads where
  | wait
  | fault (va : Nat)
  | ok (l : List (Nat × Option (List Loc))) (causes : List Cause)

/-- Resolve the accesses of a load of `n` bytes per thread. -/
def State.loads (s : State) (sp : Space) (n : Nat) (caps write : Bool) (l : List TAcc) : Loads :=
  let rs := l.map (fun a => (a.t, s.resolve sp a.off n caps write false))
  let fault := rs.findSome? (fun r => match r.2 with | .fault va => some va | _ => none)
  match fault with
  | some va => .fault va
  | none =>
    if rs.any (fun r => match r.2 with | .ok x => s.readWaits x | _ => false) then .wait
    else
      .ok (rs.map (fun r => (r.1, match r.2 with | .ok x => some (x.map Prod.snd) | _ => none)))
        (rs.filterMap (fun r => match r.2 with | .async c => some c | _ => none)).eraseDups

/-- Value and poison of a list of places, as the group reads them. -/
def State.loadNat (s : State) (l : List Loc) : Nat × Bool :=
  let b := l.map s.ownByte
  (leNat (b.map Prod.fst), b.any Prod.snd)

/-- Report asynchronous causes of the current instruction (R236). -/
def State.reports (s : State) (l : List Cause) : State :=
  l.foldl (fun s c => s.report s.cur c s.g.pc s.g.seq) s

/-- Remember the translations that an instruction used (R339). -/
def State.cacheAccs (s : State) (sp : Space) (l : List TAcc) : State :=
  match sp with
  | .obj c => l.foldl (fun s a => s.cachePage s.g.ctx ((s.obj (objKey s.g.ctx c.name)).vbase + a.off)) s
  | _ => s

/-! ### Stores -/

/-- One thread's part of a store: its offset and its bytes, or a reduction. -/
structure Put where
  off : Nat
  bytes : List Byte
  red : Option (Nat × Ty × Nat)
  poison : Bool

/-- The aligned block of `n` bytes that holds a place. -/
def Loc.block (n : Nat) : Loc → Nat × Nat × Nat
  | .mem pa => (0, 0, pa / n)
  | .vault w off => (1, w, off / n)
  | .peer key off => (2, key, off / n)
  | .virt ctx va => (3, ctx, va / n)
  | .host i off => (5, i, off / n)
  | .drop => (4, 0, 0)

/-- A byte or a reduction of a store with its places and its source's poison. -/
inductive Item where
  | byte (va : Option Nat) (l : Loc) (b : Byte) (poison : Bool)
  | red (va : Option Nat) (l : List Loc) (op : Nat) (t : Ty) (x : Nat) (poison : Bool)

def Item.loc : Item → Loc
  | .byte _ l _ _ => l
  | .red _ l _ _ _ _ => l.headD .drop

def Item.va : Item → Option Nat
  | .byte v _ _ _ => v
  | .red v _ _ _ _ _ => v

def Item.poison : Item → Bool
  | .byte _ _ _ p => p
  | .red _ _ _ _ _ p => p

/-- The items of a put whose bytes lie at these places. -/
def Put.items (p : Put) (l : List (Option Nat × Loc)) : List Item :=
  match p.red with
  | some (op, t, x) => [.red ((l.headD (none, .drop)).1) (l.map Prod.snd) op t x p.poison]
  | none => (l.zip p.bytes).map (fun e => .byte e.1.1 e.1.2 e.2 p.poison)

/-- A part from the items of one granule. -/
def partOf (shadow : Option (Nat × Nat)) (l : List Item) : Part :=
  { bytes := l.filterMap (fun i => match i with | .byte _ x b _ => some (x, b) | .red _ _ _ _ _ _ => none)
    red := l.filterMap (fun i => match i with | .red _ x op t v _ => some (x, op, t, v) | .byte _ _ _ _ => none)
    poison := l.any Item.poison
    shadow := shadow }

/-- Shadow key of an object's granule (R187). -/
def shadowKey (key off : Nat) : Nat := key * 2 ^ 36 + off / 16

/-- How the stores of an instruction are made. -/
structure StoreMode where
  tag : Bool
  setFull : Bool
  exempt : Bool
  entry : Nat

/-- What issuing a store comes to. -/
inductive Issued where
  | ok (s : State)
  | wait (w : Wait)

/-- Cut items into the pending stores of one instruction: one per 64-byte line, one part per granule (R190, R211). -/
def State.cut (s : State) (sp : Space) (m : StoreMode) (op : Nat) (items : List Item) : List PStore :=
  let g := s.g
  let obj : Option ObjEntry := match sp with | .obj c => some (s.obj (objKey g.ctx c.name)) | _ => none
  let checked := match obj with | some o => o.checked && !m.exempt && o.home == s.devnum | none => false
  let remote := match sp with | .remote _ => true | .own _ => false | .obj c => (s.obj (objKey g.ctx c.name)).home != s.devnum
  let shadow (i : Item) : Option (Nat × Nat) :=
    match sp, i.va with
    | .obj c, some va => if checked then some (shadowKey (objKey g.ctx c.name) (va - (s.obj (objKey g.ctx c.name)).vbase), va / 16 * 16) else none
    | _, _ => none
  let keys (n : Nat) (l : List Item) : List (Nat × Nat × Nat) := (l.map (fun i => i.loc.block n)).eraseDups
  (keys 64 items).map (fun k =>
    let line := items.filter (fun i => i.loc.block 64 == k)
    { gid := s.cur, ctx := g.ctx, lid := g.lid, core := g.core, sched := g.sched, owner := lockOwner g s.cur
      obj := (match sp with | .obj c => some (objKey g.ctx c.name, c.gen) | _ => none)
      kind := if remote then .remote else if checked then .checked else .plain
      parts := (keys 16 line).map (fun q =>
        let l := line.filter (fun i => i.loc.block 16 == q)
        partOf ((l.head?).bind shadow) l)
      tag := m.tag, setFull := m.setFull, entry := m.entry, pc := g.pc, seq := g.seq, op := op
      va := ((line.head?).bind Item.va).getD 0 })

/-- A pending store that waits in the side log. -/
def PStore.virtual (p : PStore) : Bool :=
  p.parts.any (fun q => q.bytes.any (fun b => match b.1 with | .virt _ _ => true | _ => false) ||
    q.red.any (fun r => r.1.any (fun l => match l with | .virt _ _ => true | _ => false)))

/-- The context's fault ring has no room. -/
def State.ringFull (s : State) (ctx : Nat) : Bool :=
  let c := s.ctx ctx
  match s.objNat c.fault 0 8, s.objNat c.fault 8 8 with
  | some w, some rd => c.faultn ≤ w - rd
  | _, _ => false

/-- Entries of a core's side log (R342). -/
def sideLogSize : Nat := 256

/-- Pending walks of a die (R340). -/
def maxWalks : Nat := 128

/-- A store waits in the side log as a whole page piece: where a byte of the piece does, of this store, of an earlier thread's, or of an earlier
store of the group (R212, R222). -/
def State.virtualize (s : State) (seen : List Loc) (l : List (Option Nat × Loc)) : List (Option Nat × Loc) :=
  let ctx := s.g.ctx
  let waits (va : Nat) : Bool := seen.contains (.virt ctx va) || s.loggedBy s.cur ctx va
  let piece (va : Nat) : Bool := l.any (fun x => match x.1 with
    | some v => v / 65536 == va / 65536 && (x.2 == .virt ctx v || waits v)
    | none => false)
  l.map (fun x => match x.1 with | some va => if x.2 != .drop && piece va then (some va, .virt ctx va) else x | none => x)

/-- The items of the puts of an instruction, in thread order. -/
def State.itemsOf (s : State) : List Loc → List (Put × Res) → List Item
  | _, [] => []
  | seen, (p, .ok x) :: l =>
    let x := s.virtualize seen x
    p.items x ++ State.itemsOf s (seen ++ x.map Prod.snd) l
  | seen, _ :: l => State.itemsOf s seen l

/-- Issue the stores of an instruction: side-logged where their translation faults, counted where they go to a remote target
(R204, R222, R240, R342). -/
def State.issueStores (s : State) (sp : Space) (m : StoreMode) (n : Nat) (caps : Bool) (l : List Put) : Issued :=
  let g := s.g
  let rs := l.map (fun p => (p, s.resolve sp p.off n caps true true))
  let causes := (rs.filterMap (fun r => match r.2 with | .async c => some c | _ => none)).eraseDups
  let items := s.itemsOf [] rs
  let all := s.cut sp m 0 items
  let side := all.filter PStore.virtual
  let now := all.filter (fun p => !p.virtual)
  let remote := now.any (fun p => p.kind == .remote)
  let used := (s.sideLog.filter (fun p => p.core == g.core)).length
  if sideLogSize < used + side.length then .wait .sideLogFull
  else if !side.isEmpty && s.ringFull g.ctx then .wait .ringFull
  else if remote && 255 ≤ g.count 4 then .wait .waitc
  else if items.any (fun i => s.held i.loc) then .wait .instruction
  else
    let (op, s) := if remote then s.opStart s.cur 4 else (0, s)
    let s := s.reports causes
    let walks := side.map (fun p => (⟨s.dieOf g.core, s.nextId, g.ctx, p.va, true, 2, s.cur, g.pc, g.seq⟩ : Walk))
    .ok { s with
      stores := s.stores ++ now.map (fun p => { p with op := op })
      sideLog := s.sideLog ++ side
      walks := s.walks ++ walks
      nextId := s.nextId + 1 }

/-! ### Performing a store -/

/-- A read-modify-write operation of R244, on values of the type's width; none where a compare fails. Operations 8 and 9 are the
nibble writes of STT (R243). -/
def aopApply (aop : Nat) (t : Ty) (old x swp : Nat) : Option Nat :=
  let w := bitsOf t
  let sg := isSigned t
  match aop with
  | 0 =>
    if t = .f32 then some (fp32.encode .rne 0 (sumFV .rne [fp32.decode old, fp32.decode x]))
    else some ((old + x) % 2 ^ w)
  | 1 =>
    if t = .f32 then some (fp32.encode .rne 0 (FV.min (fp32.decode old) (fp32.decode x)))
    else some (if toInt sg w x < toInt sg w old then x else old)
  | 2 =>
    if t = .f32 then some (fp32.encode .rne 0 (FV.max (fp32.decode old) (fp32.decode x)))
    else some (if toInt sg w old < toInt sg w x then x else old)
  | 3 => some (old &&& x)
  | 4 => some (old ||| x)
  | 5 => some (old ^^^ x)
  | 6 => some x
  | 8 => some (old / 16 * 16 + x % 16)
  | 9 => some (x % 16 * 16 + old % 16)
  | _ => if old = x then some swp else none

/-- One reduction: the operation on what stands at its places, then the mark of a poisoned source (R245, R435). -/
def State.applyRed (s : State) (poison : Bool) (r : List Loc × Nat × Ty × Nat) : State :=
  match aopApply r.2.1 r.2.2.1 (s.readNat r.1) r.2.2.2 0 with
  | some v =>
    let s := s.writeAll (r.1.zip (toLE r.1.length v))
    if poison && !s.dropsWrite (r.1.headD .drop) then s.setPoison (r.1.headD .drop) true else s
  | none => s

/-- Apply a part: its bytes and reductions in order, the granule's marks, and its tag. -/
def State.applyPart (s : State) (p : Part) (tag setFull : Bool) : State :=
  let s := s.store p.bytes p.poison
  let s := p.red.foldl (fun s r => s.applyRed p.poison r) s
  let s := if setFull then s.setFull (p.bytes.map Prod.fst) else s
  match p.bytes.head? with
  | some (.mem pa, _) => if tag then { s with tags := Cells.set false s.tags (pa / 16) true } else s
  | some (.peer n off, _) => if tag then s.send (.tagPeer (s.obj n).home (.ofNat 64 n) off) else s
  | _ => s

/-- A part of a store to a CHECKED object goes through the race filter; none while its report cannot be made (R190, R192). -/
def State.performPart (s : State) (p : PStore) (q : Part) : Option State :=
  match q.shadow with
  | none => some (s.applyPart q p.tag p.setFull)
  | some (key, va) =>
    match s.filterWrite p.gid p.ctx p.core p.entry key p.pc p.seq with
    | .apply s => some (s.applyPart q p.tag p.setFull)
    | .race s => s.reportRace p.gid p.ctx p.entry key va p.pc p.seq p.core
    | .lost s => some s

def State.performParts (s : State) (p : PStore) : List Part → Option State
  | [] => some s
  | q :: l => (s.performPart p q).bind (fun s => State.performParts s p l)

/-- Two stores touch a common place. -/
def PStore.meets (p q : PStore) : Bool :=
  p.parts.any (fun x => x.bytes.any (fun b => q.covers b.1) || x.red.any (fun r => r.1.any q.covers))

/-- The first of two stores is ordered before the second where they meet: of one group, or in deterministic mode of one scheduler (R226, R398). -/
def State.orders (s : State) (q p : PStore) : Bool :=
  q.gid == p.gid || ((s.ctx q.ctx).det && q.ctx == p.ctx && q.core == p.core && q.sched == p.sched)

/-- A store of a list may be performed: no older store that is ordered before it touches a place of it (R226, R398). -/
def State.storeReady (s : State) (i : Nat) : Bool :=
  match s.stores[i]? with
  | none => false
  | some p => (s.stores.take i).all (fun q => !s.orders q p || !p.meets q)

/-- The object that a store names still stands, with the generation that it had at issue (R304). -/
def State.current (s : State) (p : PStore) : Bool :=
  match p.obj with
  | some (key, gen) => (s.obj key).live && (s.obj key).gen == gen
  | none => true

/-- A store to a remote vault window whose workgroup has ended, or is being killed, since it was issued (R197). -/
def State.windowGone (s : State) (p : PStore) : Bool :=
  let gone (l : Loc) : Bool := match l with | .vault w _ => !(s.wgOf w).reached | _ => false
  p.kind == .remote && p.parts.any (fun q => q.bytes.any (fun b => gone b.1) || q.red.any (fun r => r.1.any gone))

/-- A store to the object of a meeting that is live: it is dropped (R385). -/
def State.meetDrops (s : State) (p : PStore) : Bool := match p.obj with | some (key, _) => s.meetHeld key | none => false

/-- A byte of a peer device that cannot be reached. -/
def State.cutOff (s : State) (l : Loc) : Bool := match l with | .peer n _ => !s.reachable (s.obj n).home | _ => false

/-- Perform a pending store of a kind, or report CAPINVALID where its object has been freed (R304) or its remote window is gone (R197), or POISON
where its route has no port up (R362); one to a live meeting object is dropped (R385). Retire its REMOTE operation with its last line (R204). -/
def State.performStore (s : State) (i : Nat) (kind : StoreKind) : State :=
  match s.stores[i]? with
  | none => s
  | some p =>
    if p.kind != kind || !s.storeReady i then s
    else
      let lost := p.parts.any (fun q => q.bytes.any (fun b => s.cutOff b.1) || q.red.any (fun r => r.1.any s.cutOff))
      let s0 : State := { s with stores := s.stores.eraseIdx i }
      match (if !s.current p || s.windowGone p then some (s0.report p.gid .capinvalid p.pc p.seq)
             else if lost then some (s0.report p.gid .poison p.pc p.seq)
             else if s.meetDrops p then some s0
             else s0.performParts p p.parts) with
      | none => s
      | some s' =>
        if p.op != 0 && !s'.stores.any (fun q => q.gid == p.gid && q.op == p.op) then s'.opDone p.gid p.op else s'

/-- Replace virtual places by the physical ones that now stand behind them. -/
def State.mapLoc (s : State) (l : Loc) : Option Loc :=
  match l with
  | .virt ctx va => (s.translate ctx va true).map .mem
  | l => some l

def allMapped {α : Type} : List (Option α) → Option (List α)
  | [] => some []
  | none :: _ => none
  | some x :: l => (allMapped l).map (x :: ·)

/-- A part whose bytes are all mapped. -/
def State.mapPart (s : State) (p : Part) : Option Part :=
  match allMapped (p.bytes.map (fun b => (s.mapLoc b.1).map (fun l => (l, b.2)))),
    allMapped (p.red.map (fun r => (allMapped (r.1.map s.mapLoc)).map (fun l => (l, r.2)))) with
  | some b, some r => some { p with bytes := b, red := r }
  | _, _ => none

/-- Perform a side-log entry. One that faults again stays (R342), and so does one behind an earlier entry of its group or its core's log, or behind
a pending store that is ordered before it, for a common place (R222, R226, R342, R398). -/
def State.replayOne (s : State) (i : Nat) : Option State :=
  match s.sideLog[i]? with
  | none => none
  | some p =>
    let s' : State := { s with sideLog := s.sideLog.eraseIdx i }
    if (s.sideLog.take i).any (fun q => (q.core == p.core || s.orders q p) && p.meets q) then none
    else if !s.current p then some (s'.report p.gid .capinvalid p.pc p.seq)
    else if s.meetDrops p then some s'
    else match allMapped (p.parts.map s.mapPart) with
      | none => none
      | some parts =>
        if s.stores.any (fun q => s.orders q p && { p with parts := parts }.meets q) then none else s'.performParts p parts

/-- Replay side-log entries of a context from index `i` on, in log order: `n` entries are looked at. -/
def State.replay (s : State) (ctx lo hi : Nat) : Nat → Nat → State
  | 0, _ => s
  | n + 1, i =>
    match s.sideLog[i]? with
    | none => s
    | some p =>
      if p.ctx == ctx && lo ≤ p.va && p.va < hi then
        match s.replayOne i with
        | some s' => State.replay s' ctx lo hi n i
        | none => State.replay s ctx lo hi n (i + 1)
      else State.replay s ctx lo hi n (i + 1)

end Sys2Proof.Machine
end

