-- ==== Sys2Proof/Machine/Ctl.lean ====
section
/-! DEFINITION. Control flow, reconvergence, mode and system registers (R56, R125 to R136, R165, R400). -/

namespace Sys2Proof.Machine

/-! ### The reconvergence stack (R125, R130) -/

/-- Entries held in hardware; deeper ones lie in k2's window. -/
def hwEntries : Nat := 32

/-- Entries that a stack may hold. -/
def maxEntries : Nat := 288

def Group.depth (g : Group) : Nat := g.stack.length + g.spilled

/-- Image of an entry. -/
def RsEntry.image (e : RsEntry) : Nat :=
  e.mask.toNat + 2 ^ 32 * e.merge.toNat + 2 ^ 34 * (if e.merge then 0 else e.resume.toNat / 4) +
    2 ^ 64 * ((e.join.map BitVec.toNat).getD 0xFFFFFFFF)

/-- An entry from its image. -/
def RsEntry.ofImage (n : Nat) : RsEntry :=
  let j := bits n 95 64
  { merge := bit n 32, mask := .ofNat 32 n, join := if j = 0xFFFFFFFF then none else some (.ofNat 32 j)
    resume := .ofNat 32 (bits n 63 34 * 4) }

/-- The top entry: none, the entry with its poison mark, or what the refill of a spilled entry meets. -/
inductive Peek where
  | empty
  | entry (e : RsEntry) (poison : Bool)
  | chk (c : Chk)

def State.peek (s : State) (g : Group) : Peek :=
  if g.spilled = 0 then (match g.stack with | [] => .empty | e :: _ => .entry e false)
  else
    let acc : TAcc := ⟨0, (g.kreg 2).start + 16 * (g.spilled - 1)⟩
    let sp := Space.obj (g.kreg 2)
    match s.accCheck (some sp) [rRead] 16 false [acc] with
    | .ok =>
      match s.loads sp 16 false false [acc] with
      | .wait => .chk (.wait .instruction)
      | .fault va => .chk (.hold va)
      | .ok [(_, some l)] _ => let v := s.loadNat l; .entry (RsEntry.ofImage v.1) v.2
      | .ok _ (c :: _) => .chk (.trap c)
      | .ok _ [] => .chk (.trap .capinvalid)
    | c => .chk c

/-- Remove the top entry. -/
def Group.popEntry (g : Group) : Group := if g.spilled = 0 then { g with stack := g.stack.tail } else { g with spilled := g.spilled - 1 }

/-- Push an entry; beyond the hardware's entries it is stored through k2. -/
def State.pushEntry (s : State) (e : RsEntry) : Except Chk State :=
  let g := s.g
  if g.depth < hwEntries then .ok (s.setG { g with stack := e :: g.stack })
  else if maxEntries ≤ g.depth then .error (.trap .capbound)
  else
    let off := (g.kreg 2).start + 16 * g.spilled
    let sp := Space.obj (g.kreg 2)
    match s.accCheck (some sp) [rWrite] 16 false [⟨0, off⟩] with
    | .ok =>
      match s.issueStores sp ⟨false, false, false, g.entry⟩ 16 false [⟨off, toLE 16 e.image, none, false⟩] with
      | .ok s => .ok (s.setG { s.g with spilled := s.g.spilled + 1 })
      | .wait w => .error (.wait w)
    | c => .error c

/-- Where a JOIN or an EXIT that pops leads: on, or nowhere; or what a pop meets. -/
inductive Flow where
  | go (g : Group) (next : Word)
  | ends
  | chk (c : Chk)

/-- The loop of R128. -/
def State.joinLoop (s : State) (pc : Word) : Nat → Group → Flow
  | 0, g => .go g (pc + 8)
  | n + 1, g =>
    match s.peek g with
    | .empty => .go g (pc + 8)
    | .chk c => .chk c
    | .entry e poison =>
      if e.join != some pc then .go g (pc + 8)
      else if poison then .chk (.trap .poison)
      else
        let m := e.mask &&& g.live
        let g := g.popEntry
        if m = 0 then State.joinLoop s pc n g
        else if e.merge then State.joinLoop s pc n { g with cur := m }
        else .go { g with cur := m } e.resume

/-- The loop of R129. -/
def State.exitLoop (s : State) : Nat → Group → Flow
  | 0, _ => .ends
  | n + 1, g =>
    match s.peek g with
    | .empty => .ends
    | .chk c => .chk c
    | .entry e poison =>
      if poison then .chk (.trap .poison)
      else
        let m := e.mask &&& g.live
        let g := g.popEntry
        if m = 0 then State.exitLoop s n g
        else .go { g with cur := m } (if e.merge then (e.join.getD 0xFFFFFFFF) + 8 else e.resume)

/-! ### Branches and calls (R126, R127, R131) -/

/-- A signed count of 4-byte units as a byte offset. -/
def unitOffset (w : Nat) (x : Nat) : Word := .ofInt 32 (4 * toSigned w x)

/-- OFS24 of a branch. -/
def ofs24 (f : Fields) : Word := unitOffset 24 (f.ext.num1.toNat * 2 ^ 16 + f.ext.num2.toNat * 2 ^ 8 + f.ext.xsub.toNat)

/-- Mask of some threads. -/
def maskOf (l : List Nat) : Word := .ofNat 32 ((l.map (fun t => 2 ^ t)).sum)

/-- Check of an instruction that consumes a poisoned guard or moves past a fault. -/
def State.flow (s : State) (f : Fields) (k : Flow) (ends : State) : State :=
  match k with
  | .go g next => s.setG (g.jump next)
  | .ends => ends
  | .chk c => s.onChkAt (s.levelOf s.g (.mem 0)) c f.len s

/-- The pushes of a divergent branch. A top entry that is spilled is read through k2 for its join, as a pop reads it, so that the branch can wait, be
held by a fault, or trap there (R127, R130; log 63). -/
def State.diverge (s : State) (pc target : Word) (j : Option Word) (taken fall : Word) : Except Chk State :=
  let g := s.g
  let top : Except Chk (Option Word) :=
    match j with
    | none => .ok none
    | some _ => match s.peek g with
      | .empty => .ok none
      | .entry e poison => if poison then .error (.trap .poison) else .ok e.join
      | .chk c => .error c
  match top with
  | .error c => .error c
  | .ok tj =>
    let merge : Except Chk State :=
      if j.isSome && tj != j then s.pushEntry ⟨true, g.cur, j, 0⟩ else .ok s
    match merge with
    | .error c => .error c
    | .ok s =>
      let path : Except Chk State :=
        if some (pc + 12) != j then s.pushEntry ⟨false, fall, j, pc + 12⟩ else .ok s
      match path with
      | .error c => .error c
      | .ok s => .ok (s.setG ({ s.g with cur := taken }.jump target))

def execBra (f : Fields) (s : State) : Host.Outcome State Fault Refusal :=
  s.instr 0x140 f .ok false (fun s' _ rows =>
    let g := s'.g
    let target := g.pc + ofs24 f
    let taken := maskOf (rows.map Row.t)
    let fall := g.cur &&& ~~~taken
    if f.u || fall = 0 then s'.setG (g.jump target)
    else
      let jofs := f.c.toNat * 256 + f.b.toNat
      match s'.diverge g.pc target (if jofs = 0 then none else some (g.pc + unitOffset 16 jofs)) taken fall with
      | .ok s => s
      | .error c => s.onChkAt (s.levelOf s.g (.mem 0)) c f.len s)

/-- A call, computed branch or return, with its crumb (R415). -/
def State.xfer (s : State) (arg : Nat) (g : Group) : State := (s.gcrumb s.cur 0x02 arg).setG g

def execCall (f : Fields) (s : State) : Host.Outcome State Fault Refusal :=
  s.uniform 0x141 f (fun s =>
    let g := s.g
    s.xfer 0 ((g.write f.d 2 0 (g.pc + 12).toNat).jump (g.pc + ofs24 f)))
def execBrx (f : Fields) (s : State) : Host.Outcome State Fault Refusal :=
  s.uniform 0x142 f (fun s => s.xfer 1 (s.g.jumpTo (s.g.sreg (opNum f.a))))
def execRet (f : Fields) (s : State) : Host.Outcome State Fault Refusal :=
  s.uniform 0x144 f (fun s => s.xfer 2 (s.g.jumpTo (s.g.sreg (opNum f.a))))

/-! ### JOIN and EXIT (R128, R129) -/

def execJoin (f : Fields) (s : State) : Host.Outcome State Fault Refusal :=
  s.instr 0x143 f .ok false (fun s' _ _ => s'.flow f (s'.joinLoop s'.g.pc (maxEntries + 1) s'.g) s')

/-- A group whose last thread has left: a task with children waits for its implicit SYNC, every other group ends (R129, R168,
R297). -/
def State.finish (s : State) (g : Group) : State :=
  let s := s.setG { g with live := 0, cur := 0, stack := [], spilled := 0, retired := g.retired + 1, wait := .none }
  if g.pedDepth = 0 then s.endGroup s.cur
  else
    let s := s.endBlock s.cur false
    if (s.block g.block).live then s.setG { s.g with status := .ending, wait := .sync } else s.leave s.cur false

def execExit (f : Fields) (s : State) : Host.Outcome State Fault Refusal :=
  s.instr 0x145 f .ok false (fun s' _ rows =>
    let g := s'.g
    if f.u then s'.finish g
    else
      let gone := maskOf (rows.map Row.t)
      let g' := { g with live := g.live &&& ~~~gone, cur := g.cur &&& ~~~gone }
      if g'.cur != 0 then s'.done g' f.len
      else s'.flow f (s'.exitLoop (maxEntries + 1) g') (s'.finish g'))

/-! ### The other control instructions (R132, R133) -/

def execBkpt (f : Fields) (s : State) : Host.Outcome State Fault Refusal :=
  s.instr 0x146 f .ok false (fun _ _ _ => s.trap .bkpt f.len)


/-- Runs of R160 have four issues. -/
def runLimit : Nat := 4

def execYield (f : Fields) (s : State) : Host.Outcome State Fault Refusal :=
  s.instr 0x147 f .ok false (fun s' _ _ =>
    let g := s'.g
    let c := s'.core g.core
    let sc := Cells.get Sched.reset c.scheds g.sched
    (s'.setCore g.core { c with scheds := Cells.set Sched.reset c.scheds g.sched { sc with run := runLimit } }).done g f.len)

def execNop (f : Fields) (s : State) : Host.Outcome State Fault Refusal :=
  s.instr 0x148 f .ok false (fun s' _ _ => s'.done s'.g f.len)

def execTrap (f : Fields) (s : State) : Host.Outcome State Fault Refusal :=
  s.instr 0x14A f .ok false (fun _ _ rows =>
    let g := s.g
    let code := (rows.headD ⟨0, 0, 0, 0⟩).a % 2 ^ 16
    let mask := if f.u then g.cur else maskOf (rows.map Row.t)
    s.takeTrap .softtrap g.pc g.pc (g.pc + .ofNat 32 f.len) g.seq (toLE 2 code ++ toLE 2 0 ++ toLE 4 mask.toNat))

/-- System software has asked for the context's groups to be saved. -/
def State.preempting (s : State) (ctx : Nat) : Bool := (s.ctx ctx).state == .saving

/-- The live-mask record at an offset of k0's window; none where it cannot be read (R133). -/
def State.liveMask (s : State) (off : Nat) : Option (BitVec 176 × BitVec 48) :=
  let c := s.g.kreg 0
  if !c.tag || !c.covers (c.start + off) 32 then none
  else
    match s.resolve (.obj c) (c.start + off) 32 false false false with
    | .ok l =>
      let v := s.loadNat (l.map Prod.snd)
      if v.2 then none else some (.ofNat 176 v.1, .ofNat 48 (v.1 / 2 ^ 176))
    | _ => none

/-- A hard pre-emption: its crumb and flag, then the save (R165); none while the recorder's queue has no room (R416). -/
def State.hardSave (s : State) (gid : Nat) : Option State :=
  let g := s.grp gid
  let t := s.crumb g.core g.ctx 0x01 (gBody g.pc g.seq (Cause.hardpreempt.code + 256 * 3))
  guardSome (!s.recorderFull g.core) ((t.setCtx g.ctx { s.ctx g.ctx with hard := true }).save gid .hard)

def execSafept (f : Fields) (s : State) : Host.Outcome State Fault Refusal :=
  s.instr 0x149 f .ok false (fun s' _ _ =>
    let g := s'.g
    if !s'.preempting g.ctx then s'.done g f.len
    else
      let g' := g.advance f.len
      match s'.liveMask f.imm.toNat with
      | some m => ((s'.setG { g' with saveMask := some m }).save s'.cur .safe).getD (s'.stall .instruction)
      | none => ((s'.setG { g' with saveMask := some (0, 0) }).hardSave s'.cur).getD (s'.stall .instruction))

/-! ### MODE and system registers (R56, R135, R136) -/

/-- A DIVN or REMN of the group is in flight. -/
def Group.dividing (g : Group) : Bool := g.pending.any Deferred.div

/-- MODE carries a poison mark. -/
def Group.modePoison (g : Group) : Chk := Chk.when (Cells.get false g.miscPoison (miscKey 4 0)) (.trap .poison)

def execSmode (f : Fields) (s : State) : Host.Outcome State Fault Refusal :=
  s.uniform 0x160 f (fun s' =>
    let g := s'.g
    let v : Word := .ofNat 32 (g.uval f f.a)
    let r := if f.mod = 0 then v else if f.mod = 1 then g.mode ||| v else g.mode &&& ~~~v
    let r := r &&& modeMask
    if g.dividing then s.stall .instruction
    else s'.onChk (if f.mod = 0 then .ok else g.modePoison) f.len
      (if !modeOk r then s.trap .illegal f.len else s'.done { g.unmark 4 0 with mode := r } f.len))

def execGmode (f : Fields) (s : State) : Host.Outcome State Fault Refusal :=
  s.uniform 0x161 f (fun s' =>
    let g := s'.g
    if g.dividing then s.stall .instruction
    else s'.onChk g.modePoison f.len (s'.done (g.write f.d 2 0 g.mode.toNat) f.len))

/-- Value of a system register. -/
def State.sysReg (s : State) (n : Nat) : DWord :=
  let g := s.g
  let det := (s.ctx g.ctx).det
  match n with
  | 0 => if det then g.retired else .ofNat 64 (s.core g.core).cycle
  | 1 => g.retired
  | 2 => if det then 0 else .ofNat 64 g.core
  | 3 => if det then 0 else .ofNat 64 (s.dieOf g.core)
  | 4 => if det then 0 else .ofNat 64 g.berth
  | 5 => if det then 0 else .ofNat 64 g.ctx
  | 6 => g.live ++ g.cur
  | 7 => .ofNat 64 g.depth
  | 0x10 => g.gscratch0
  | _ => g.gscratch1

def execRdsys (f : Fields) (s : State) : Host.Outcome State Fault Refusal :=
  s.uniform 0x162 f (fun s => s.done (s.g.write f.d 2 0 (s.sysReg f.ext.num1.toNat).toNat) f.len)

def execWrsys (f : Fields) (s : State) : Host.Outcome State Fault Refusal :=
  s.uniform 0x163 f (fun s =>
    let g := s.g
    let v := g.sreg (opNum f.a)
    s.done (if f.ext.num1 = 0x10 then { g with gscratch0 := v } else { g with gscratch1 := v }) f.len)

end Sys2Proof.Machine
end

