-- ==== Sys2Proof/Machine/MemI.lean ====
section
/-! DEFINITION. LD, ST, LDU, LDT, STT, ATOM, RED, FENCE and PREF (R196, R198 to R202, R230 to R247). -/

namespace Sys2Proof.Machine

/-! ### Loads -/

/-- Outcome of a check made after the reads: the trap or wait starts from the state before them. -/
def State.unless (s0 : State) (c : Chk) (len : Nat) (k : State) : State := match c with | .ok => k | c => s0.onChk c len s0

/-- The mask and bytes of a load as the replay log holds them (R403); a key is a thread, or a thread and 32 times a place in its
fragment. -/
def logData (n : Nat) (vals : List (Nat × Nat × Bool)) : List Byte :=
  toLE 8 (((vals.map (fun v => v.1 % 32)).eraseDups.map (2 ^ ·)).sum) ++ vals.flatMap (fun v => toLE n v.2.1)

/-- The values of a load with the bytes of a log entry in their place. -/
def unlogData (n : Nat) (vals : List (Nat × Nat × Bool)) (d : List Byte) : List (Nat × Nat × Bool) :=
  vals.zipIdx.map (fun e => (e.1.1, leNat ((d.drop (8 + n * e.2)).take n), false))

/-- The space is an object of a peer device. -/
def State.isPeer (s : State) (sp : Space) : Bool := match sp with | .obj c => (s.obj (objKey s.g.ctx c.name)).home != s.devnum | _ => false

/-- The requests that read bytes of a peer's object. -/
def State.readsPeer (s : State) (sp : Space) (n : Nat) (l : List TAcc) : State :=
  match sp with
  | .obj c => l.foldl (fun s a => s.send (.readPeer (s.obj (objKey s.g.ctx c.name)).home c.name a.off n)) s
  | _ => s

/-- Pass the values that come from outside the context through the replay log; those that a replay gives carry no mark (R404). -/
def State.logged (s : State) (kind n : Nat) (vals : List (Nat × Nat × Bool)) : Option (State × List (Nat × Nat × Bool)) :=
  let g := s.g
  (s.replayInput g.ctx g.logGid g.retired.toNat kind (logData n vals)).map (fun r =>
    (r.1, if s.replaying g.ctx && !(r.1.ctx g.ctx).marked then unlogData n vals r.2 else vals))

/-- Places of the accesses that succeeded. -/
def placesOf (ls : List (Nat × Option (List Loc))) : List Loc := ls.flatMap (fun x => x.2.getD [])

/-- Perform a load of `n` bytes per thread: `k` gets the value and poison of each thread, zero where its access failed, and the level code that
the load reached; `all` gives the values of every active thread from those of the accesses. -/
def State.loadWith (s0 s : State) (sp : Space) (n : Nat) (l : List TAcc) (k : State → List (Nat × Nat × Bool) → Nat → State)
    (all : List (Nat × Nat × Bool) → List (Nat × Nat × Bool) := id) : State :=
  match s.loads sp n false false l with
  | .wait => s0.stall .instruction
  | .fault va => s0.holdFault va false
  | .ok ls causes =>
    let vals := all (ls.map (fun x => (x.1, match x.2 with | some p => s.loadNat p | none => (0, false))))
    let level := s.levelOfAll s.g (placesOf ls)
    match (if s.isPeer sp then (s.readsPeer sp n l).logged 2 n vals else some (s, vals)) with
    | none => s0.stall .replayFull
    | some (s, vals) => k ((s.reports causes).cacheAccs sp l) vals level

/-- Extend a value of `n` bytes to `w` bits. -/
def extend (sx : Bool) (n w x : Nat) : Nat := if sx then wrap w (toSigned (8 * n) x) else x % 2 ^ (8 * n)

/-- Complete a load: each quad's results arrive later, by themselves (R240). -/
def State.loaded (s : State) (f : Fields) (w : Nat) (vals : List (Nat × Nat × Bool)) (level : Nat := 0) : State :=
  let quads := (vals.map (fun v => v.1 / 4)).eraseDups
  s.done (quads.foldl (fun g q => g.defer f.d w (vals.filter (fun v => v.1 / 4 == q)) true false false level) s.g) f.len

/-- Granule of a thread's full/empty access. -/
def granOf (l : List Loc) : Option (Nat × Nat) := match l with | .vault w off :: _ => some (w, off / 16) | _ => none

/-- A `.fe` or `.fec` load: each thread reads its granule once it is full; the group waits until every thread has (R201, R202, R238). -/
def State.loadFe (s0 s : State) (f : Fields) (w : Nat) (sp : Space) (l : List TAcc) : State :=
  match s.loads sp 16 false false l with
  | .wait => s0.stall .instruction
  | .fault va => s0.holdFault va false
  | .ok ls causes =>
    let done := s.g.feDone
    let todo := ls.filter (fun x => !done.any (fun d => d.1 == x.1))
    let full (x : Nat × Option (List Loc)) : Bool :=
      match x.2 with
      | none => true
      | some p =>
        (match granOf p with | some (w, n) => Cells.get false (s.wgOf w).full n | none => true) &&
          !s.stores.any (fun q => q.gid == s.cur && p.any q.covers)
    let now := todo.filter full
    let got : List (Nat × Nat × Bool) := now.map (fun x => (x.1, match x.2 with | some p => (s.readNat p, p.any s.poisonAt) | none => (0, false)))
    let clear := if f.ext.fe = 2 then (now.filterMap (fun x => x.2.bind granOf)).eraseDups else []
    let emptied (s : State) : State := clear.foldl (fun s e => s.setWg e.1 { s.wgOf e.1 with full := Cells.del (s.wgOf e.1).full e.2 }) s
    let all := done ++ got
    if now.length = todo.length then
      let vals := ls.filterMap (fun x => all.find? (fun d => d.1 == x.1))
      let s := emptied (s.reports causes)
      (s.setG { s.g with feDone := [] }).loaded f w vals (s.levelOfAll s.g (placesOf ls))
    else
      let s := emptied s0
      (s.setG { s.g with feDone := all }).stall .fullEmpty

def execLd (f : Fields) (s : State) : Host.Outcome State Fault Refusal :=
  s.instr 0x1C0 f .ok false (fun s' fm rows =>
    let b := s'.g.uval f f.b
    let n := 2 ^ f.ext.sz
    let l := accsOf f b rows
    let sp := s'.spaceOf f.mod.toNat f.ext.num1.toNat (b / 2 ^ 32)
    s.unless (s'.accCheck sp [rRead] n (f.ext.ord != 0 || f.ext.fe != 0) l) f.len
      (match sp with
       | none => s
       | some sp =>
         if f.ext.fe != 0 then s.loadFe s' f fm.d.width sp l
         else s.loadWith s' sp n l (fun s vals level =>
           s.loaded f fm.d.width (vals.map (fun v => (v.1, extend f.ext.sx n (32 * fm.d.width) v.2.1, v.2.2))) level)))

def execLdu (f : Fields) (s : State) : Host.Outcome State Fault Refusal :=
  s.instr 0x1C4 f .ok false (fun s' _ rows =>
    let b := s'.g.uval f f.b
    let n := 2 ^ f.ext.sz
    let l := accsOf f b rows
    let sp := s'.spaceOf f.mod.toNat f.ext.num1.toNat (b / 2 ^ 32)
    s.unless (s'.accCheck sp [rRead] n (f.ext.ord != 0) l) f.len
      (match sp with
       | none => s
       | some sp => s.loadWith s' sp n l (fun s vals level =>
           s.loaded f 2 (vals.map (fun v => (v.1, extend f.ext.sx n 64 v.2.1, v.2.2))) level)))

/-! ### Stores -/

/-- A poisoned data source in C in one thread; the `i`-th of `n` active threads pops the `i`-th elements of a queue after those that A and
B pop (R208, R436). -/
def Group.dataPoison (g : Group) (f : Fields) (fm : Form) (n t i : Nat) : Bool :=
  let w := fm.c.width
  if kindOf f.c = .o then (((Cells.get [] g.oq (opNum f.c)).drop (popsBefore fm f n 2 (opNum f.c) + w * i)).take w).any Prod.snd
  else g.srcPoison fm.c f.c [t]

/-- A release waits until the group's earlier writes are performed (R222). -/
def State.releaseWait (s0 : State) (rel : Bool) (k : State) : State := if rel && !s0.quiet then s0.stall .release else k

/-- Issue stores and complete. -/
def State.stored (s0 s : State) (f : Fields) (sp : Space) (m : StoreMode) (n : Nat) (caps : Bool) (l : List Put) : State :=
  match s.issueStores sp m n caps l with
  | .wait w => s0.stall w
  | .ok s => s.done s.g f.len

/-- Data of a store: a uniform ST's s register is read whole, and its immediate as 64 bits. -/
def Group.stData (g : Group) (f : Fields) (r : Row) : Nat :=
  if f.u && kindOf f.c == .s then g.uval f f.c else if f.u && kindOf f.c != .o then immOperand f 2 else r.c

def execSt (f : Fields) (s : State) : Host.Outcome State Fault Refusal :=
  s.instr 0x1C1 f .ok true (fun s' fm rows =>
    let b := s'.g.uval f f.b
    let n := 2 ^ f.ext.sz
    let l := accsOf f b rows
    let sp := s'.spaceOf f.mod.toNat f.ext.num1.toNat (b / 2 ^ 32)
    let puts := (l.zip rows).zipIdx.map (fun (e : (TAcc × Row) × Nat) =>
      (⟨e.1.1.off, toLE n (s'.g.stData f e.1.2), none, s.g.dataPoison f fm rows.length e.1.2.t e.2⟩ : Put))
    s.unless (s'.accCheck sp [rWrite] n (f.ext.ord != 0 || f.ext.fe != 0) l) f.len
      (match sp with
       | none => s
       | some sp => s.releaseWait (f.ext.ord == 3 || f.ext.fe == 2)
           (s.stored s' f sp ⟨false, f.ext.fe == 2, false, s.g.entry⟩ n false puts)))

/-! ### Layout entries (R198 to R200) -/

/-- A layout entry. -/
structure Layout where
  base : Nat
  ext : List Nat
  strides : List Nat
  pad : Nat
  rsh : Nat
  swb : Nat
  unit : Nat
  fmt : Nat
  tile : Nat
  cap : Nat
  space : Nat
  bits : Nat
  ndim : Nat

def imgBytes (i : BitVec 512) (off n : Nat) : Nat := i.toNat / 2 ^ (8 * off) % 2 ^ (8 * n)

def Layout.ofImage (i : BitVec 512) : Layout :=
  let ctl := imgBytes i 56 4
  let swz := imgBytes i 52 4
  { base := imgBytes i 0 8, ext := (List.range 5).map (fun d => imgBytes i (12 + 4 * d) 4)
    strides := (List.range 4).map (fun d => imgBytes i (32 + 4 * d) 4), pad := imgBytes i 48 4
    rsh := Sys2Proof.bits swz 15 8, swb := Sys2Proof.bits swz 7 4, unit := swz % 16
    fmt := Sys2Proof.bits ctl 19 16, tile := Sys2Proof.bits ctl 15 12, cap := Sys2Proof.bits ctl 11 8, space := Sys2Proof.bits ctl 7 6
    bits := 4 * 2 ^ Sys2Proof.bits ctl 5 3, ndim := ctl % 8 }

/-- Layout entry of a launch; none at or above the count. -/
def State.layoutIn (s : State) (lid n : Nat) : Option Layout :=
  let l := s.launch lid
  if n < l.lrec.lcount then (l.layouts[n]?).map Layout.ofImage else none

/-- Layout entry of the current group's launch. -/
def State.layout (s : State) (n : Nat) : Option Layout := s.layoutIn s.g.lid n

/-- The swizzle function of R200. -/
def swizzle (rsh swb unit x row : Nat) : Nat := x ^^^ (row / 2 ^ rsh % 2 ^ swb * 2 ^ unit)

/-- Every coordinate lies inside its extent (R199). -/
def Layout.inside (l : Layout) (c : List Int) : Bool :=
  (c.zip l.ext).all (fun e => 0 ≤ e.1 && e.1 < (e.2 : Int))

/-- Byte address of an element in the entry's space (R199). -/
def Layout.addr (l : Layout) (c : List Int) : Nat :=
  let n (i : Nat) : Nat := (c.getD i 0).toNat
  l.base + swizzle l.rsh l.swb l.unit (n 0 * l.bits / 8) (n 1) +
    ((List.range 4).map (fun d => n (d + 1) * l.strides.getD d 0)).sum

/-- Offset and size in bytes of a tile register of a launch; size zero where it is not declared (R195, R196). -/
def LaunchRec.tileAt (r : LaunchRec) (t : Nat) : Nat × Nat := (4096 * (r.tiles.take t).sum, 4096 * r.tiles.getD t 0)

/-- The space and the offset of an address of an entry, with the check that a tile register's bytes stay inside it. -/
def State.layoutSpace (s : State) (l : Layout) : Option Space :=
  if l.space = 0 then some (.obj (s.g.kreg l.cap)) else s.g.wg.map .own

def State.layoutOff (s : State) (l : Layout) (a : Nat) : Nat :=
  if l.space = 2 then ((s.launch s.g.lid).lrec.tileAt l.tile).1 + a else a

/-- Check of the elements accessed through an entry (R199, R235, R436). -/
def State.layoutCheck (s : State) (l : Layout) (sp : Option Space) (right n : Nat) (align : Bool) (accs : List TAcc) : Chk :=
  let tile := (s.launch s.g.lid).lrec.tileAt l.tile
  (Chk.when (l.space == 0 && Cells.get false s.g.miscPoison (miscKey 3 l.cap)) (.trap .poison)).and <| (s.accCheck sp [right] n align accs).and
    (Chk.when (l.space == 2 && accs.any (fun a => tile.1 + tile.2 < a.off + n)) (.trap .capbound))

/-- Coordinates of a thread: two in A, two in B (R242). -/
def coords (a b : Nat) : List Int :=
  [toSigned 32 a, toSigned 32 (a / 2 ^ 32), toSigned 32 b, toSigned 32 (b / 2 ^ 32), 0]

/-- Check of the register run, of the hold and of SX of LDT and STT (R25, R26, R242); the entry count comes first. -/
def layoutPre (l : Option Layout) (code : BitVec 8) (f : Fields) (sx : Bool) : Chk :=
  match l with
  | none => .ok
  | some l =>
    let pair := (kindOf code == .v && code.toNat % 2 == 1) || code == 0xF2 || (f.hold == 3 && f.he == 2)
    Chk.when ((l.bits == 64 && pair) || (sx && 16 < l.bits)) (.trap .illegal)

/-- Bytes of an element: a 4-bit one lies in one byte. -/
def Layout.bytes (l : Layout) : Nat := if l.bits = 4 then 1 else l.bits / 8

def execLdt (f : Fields) (s : State) : Host.Outcome State Fault Refusal :=
  let lay := s.layout f.ext.num1.toNat
  let fm := form 0x1C2 f
  let w := match lay with | some l => if l.bits = 64 then 2 else 1 | none => 1
  s.instrAs 0x1C2 f { fm with d := .dst [.v, .ix, .zero] w } (layoutPre lay f.d f f.ext.sx) false (fun s' _ rows =>
    match lay with
    | none => s.trap .capbound f.len
    | some l =>
      let b := s'.g.uval f f.b
      let cs := rows.map (fun r => (r.t, coords r.a b))
      let live := cs.filter (fun c => l.inside c.2)
      let accs := live.map (fun c => (⟨c.1, s'.layoutOff l (l.addr c.2)⟩ : TAcc))
      let sp := s'.layoutSpace l
      s.unless (s'.layoutCheck l sp rRead l.bytes (f.ext.ord != 0) accs) f.len
        (match sp with
         | none => s
         | some sp => s.loadWith s' sp l.bytes accs (fun s vals level =>
             s.loaded f w (cs.map (fun c =>
               let v := (vals.find? (fun v => v.1 == c.1)).getD (c.1, 0, false)
               let high := l.bits = 4 ∧ l.inside c.2 ∧ (c.2.headD 0).toNat % 2 = 1
               let raw := if high then v.2.1 / 16 % 16 else v.2.1 % 2 ^ l.bits
               (c.1, if f.ext.sx then wrap 32 (toSigned l.bits raw) else raw, v.2.2))) level)
             (fun vals => cs.map (fun c => (vals.find? (fun v => v.1 == c.1)).getD (c.1, l.pad % 2 ^ l.bits, false)))))

def execStt (f : Fields) (s : State) : Host.Outcome State Fault Refusal :=
  let lay := s.layout f.ext.num1.toNat
  let fm := form 0x1C3 f
  let w := match lay with | some l => if l.bits = 64 then 2 else 1 | none => 1
  s.instrAs 0x1C3 f { fm with c := .gen f w } (layoutPre lay f.c f false) true (fun s' fm rows =>
    match lay with
    | none => s.trap .capbound f.len
    | some l =>
      let b := s'.g.uval f f.b
      let cs := rows.zipIdx.filter (fun e => l.inside (coords e.1.a b))
      let offs := cs.map (fun e => s'.layoutOff l (l.addr (coords e.1.a b)))
      let accs := (cs.zip offs).map (fun e => (⟨e.1.1.t, e.2⟩ : TAcc))
      let puts := (cs.zip offs).map (fun (e : (Row × Nat) × Nat) =>
        let poison := s.g.dataPoison f fm rows.length e.1.1.t e.1.2
        let hi := ((coords e.1.1.a b).headD 0).toNat % 2 = 1
        if l.bits = 4 then (⟨e.2, [], some (if hi then 9 else 8, .n32, e.1.1.c), poison⟩ : Put)
        else ⟨e.2, toLE l.bytes e.1.1.c, none, poison⟩)
      let sp := s'.layoutSpace l
      s.unless (s'.layoutCheck l sp rWrite l.bytes (f.ext.ord != 0) accs) f.len
        (match sp with
         | none => s
         | some sp => s.releaseWait (f.ext.ord == 3) (s.stored s' f sp ⟨false, false, false, s.g.entry⟩ l.bytes false puts)))

/-! ### ATOM and RED (R244, R245) -/

/-- Operand of a read-modify-write: the compare or only value, and the swap value. An o register gives both in turn (R16, R245; log 62). -/
def Group.aopOperand (g : Group) (f : Fields) (aop w : Nat) (r : Row) : Nat × Nat :=
  if f.u && kindOf f.c != .o then
    if aop = 7 then
      (if w = 4 then ((g.sreg (opNum f.c)).toNat % 2 ^ 32, (g.sreg (opNum f.c)).toNat / 2 ^ 32)
       else ((g.sreg (opNum f.c)).toNat, (g.sreg (opNum f.c + 1)).toNat))
    else (r.c % 2 ^ (8 * w), 0)
  else (r.c % 2 ^ (8 * w), r.c / 2 ^ (8 * w))

/-- The read-modify-writes of an ATOM in thread order; a live meeting object keeps its bytes (R385); `given` are the old values of a replay. None while a race record cannot be
written. -/
def State.atoms (s : State) (f : Fields) (w : Nat) (sp : Space) (checked : Bool) (given : Option (List Nat)) :
    List (Row × Option (List Loc) × Nat) → Option (State × List (Nat × Nat × Bool))
  | [] => some (s, [])
  | (r, p, off) :: l =>
    match p with
    | none => (State.atoms s f w sp checked (given.map List.tail) l).map (fun x => (x.1, (r.t, 0, false) :: x.2))
    | some p =>
      let old := match given with | some (o :: _) => o | _ => s.readNat p
      let poison := p.any s.poisonAt
      let x := s.g.aopOperand f (f.ext.num2.toNat % 16) w r
      let held := match sp with | .obj c => s.meetHeld (objKey s.g.ctx c.name) | _ => false
      let next : Option State :=
        match (if held then none else aopApply (f.ext.num2.toNat % 16) f.ty old x.1 x.2) with
        | none => some s
        | some v =>
          match sp with
          | .obj c =>
            if checked then
              let key := shadowKey (objKey s.g.ctx c.name) off
              match s.filterWrite s.cur s.g.ctx s.g.core s.g.entry key s.g.pc s.g.seq with
              | .apply s => some (s.writeAll (p.zip (toLE w v)))
              | .race s => s.reportRace s.cur s.g.ctx s.g.entry key (((s.obj (objKey s.g.ctx c.name)).vbase + off) / 16 * 16) s.g.pc s.g.seq s.g.core
              | .lost s => some s
            else some (s.writeAll (p.zip (toLE w v)))
          | _ => some (s.writeAll (p.zip (toLE w v)))
      next.bind (fun s => (State.atoms s f w sp checked (given.map List.tail) l).map (fun x => (x.1, (r.t, old, poison) :: x.2)))

/-- A pending store of the group covers one of these places. -/
def State.ownPending (s : State) (l : List (Nat × Option (List Loc))) : Bool :=
  s.stores.any (fun p => p.gid == s.cur && l.any (fun x => match x.2 with | some q => q.any p.covers | none => false))

def execAtom (f : Fields) (s : State) : Host.Outcome State Fault Refusal :=
  s.instr 0x1C5 f .ok false (fun s' fm rows =>
    let b := s'.g.uval f f.b
    let w := 4 * regsOf f.ty
    let l := accsOf f b rows
    let sp := s'.spaceOf f.mod.toNat f.ext.num1.toNat (b / 2 ^ 32)
    s.unless (s'.accCheck sp [rRead, rWrite] w true l) f.len
      (match sp with
       | none => s
       | some sp => s.releaseWait (f.ext.ord == 3 || f.ext.ord == 4)
         (match s'.loads sp w false true l with
          | .wait => s.stall .instruction
          | .fault va => s.holdFault va true
          | .ok ls causes =>
            if s'.ownPending ls then s.stall .instruction
            else
              let cap := match sp with | .obj c => c | _ => Cap.null
              let nd := cap.has rNdatom
              let checked := (s'.obj (objKey s'.g.ctx cap.name)).checked && !nd && !s'.isPeer sp
              let items := (rows.zip (ls.zip l)).map (fun e => (e.1, e.2.1.2, e.2.2.off))
              let peer := s'.isPeer sp
              let run : Option (State × List (Nat × Nat × Bool)) :=
                if (peer || nd) && s'.logging s'.g.ctx then
                  (s'.atoms f w sp checked none items).bind (fun dry =>
                    (if peer then s'.logged 2 w dry.2 else some (s', dry.2)).bind (fun r =>
                      (if nd then r.1.logged 4 w r.2 else some r).bind (fun r =>
                        (r.1.atoms f w sp checked (some (r.2.map (fun v => v.2.1))) items).map (fun x => (x.1, r.2)))))
                else s'.atoms f w sp checked none items
              match run with
              | none => s.stall .replayFull
              | some (s, vals) => if s.g.status != .running then s else ((s.reports causes).cacheAccs sp l).loaded f fm.d.width vals (s'.levelOfAll s'.g (placesOf ls)))))

def execRed (f : Fields) (s : State) : Host.Outcome State Fault Refusal :=
  s.instr 0x1C6 f .ok false (fun s' _ rows =>
    let b := s'.g.uval f f.b
    let w := 4 * regsOf f.ty
    let l := accsOf f b rows
    let aop := f.ext.num2.toNat % 16
    let sp := s'.spaceOf f.mod.toNat f.ext.num1.toNat (b / 2 ^ 32)
    let puts := (l.zip rows).map (fun e => (⟨e.1.off, [], some (aop, f.ty, e.2.c % 2 ^ (8 * w)), false⟩ : Put))
    s.unless (s'.accCheck sp [rWrite] w true l) f.len
      (match sp with
       | none => s
       | some sp => s.releaseWait (f.ext.ord == 3)
           (s.stored s' f sp ⟨false, false, f.ty != .f32, s.g.entry⟩ w false puts)))

/-! ### FENCE and PREF (R246, R247) -/

def execFence (f : Fields) (s : State) : Host.Outcome State Fault Refusal :=
  s.instr 0x1C7 f .ok false (fun s' _ _ => s.releaseWait (f.ext.ord != 2) (s'.done s'.g f.len))

/-- PREF has no effect beyond its reads; of the checks at issue only REGRANGE traps, and where another fails it is dropped with nothing
popped. -/
def execPref (f : Fields) (s : State) : Host.Outcome State Fault Refusal :=
  if s.g.status != .running then .fault .noRunningGroup
  else
    let fm := form 0x1D6 f
    let act := s.g.active f
    .next (match s.g.rangeCheck fm f act with
      | .trap .regrange => s.trap .regrange f.len
      | _ =>
        match (if act.isEmpty then .ok else (s.g.queueCheck fm f act.length).and (s.g.emptyCheck fm f act)) with
        | .wait w => s.stall w
        | .hold va => s.holdFault va false
        | .trap _ => s.done (s.g.record fm f) f.len
        | .ok => s.done ((s.g.readAll fm f act).1.record fm f) f.len)

end Sys2Proof.Machine
end

