-- ==== Sys2Proof/Machine/Sync.lean ====
section
/-! DEFINITION. Barriers, WAITC, buffer handles and line locks (R203, R204, R221, R223, R248 to R251, R258 to R261). -/

namespace Sys2Proof.Machine

/-! ### BAR (R248) -/

/-- A phase is complete: `(P - q) mod 2^32` lies in 1 to 2^31. -/
def phaseDone (p q : Word) : Bool := between 1 (2 ^ 31) (p - q).toNat

/-- A group arrives at its workgroup's barrier. -/
def State.barArrive (s : State) (w : Nat) : State :=
  let wg := s.wgOf w
  s.setWg w ({ wg with arrived := wg.arrived ++ [s.cur] }).settle

def execBarSync (f : Fields) (s : State) : Host.Outcome State Fault Refusal :=
  s.uniform 0x1C8 f (fun s' =>
    let g := s'.g
    match g.wg with
    | none => s.releaseWait true (s'.done { g with taskPhase := g.taskPhase + 1 } f.len)
    | some w =>
      let wg := s'.wgOf w
      match g.wait with
      | .barrier p =>
        if phaseDone wg.phase p then s'.done g f.len
        else if wg.broken then s.trap .barbroken f.len
        else s.stall (.barrier p)
      | _ =>
        s.releaseWait true
          (if wg.broken then s.trap .barbroken f.len
           else if wg.arrived.contains s.cur then s.stall .barrierOpen
           else
             let s'' := s'.barArrive w
             if phaseDone (s''.wgOf w).phase wg.phase then s''.done s''.g f.len else (s.barArrive w).stall (.barrier wg.phase)))

def execBarArrive (f : Fields) (s : State) : Host.Outcome State Fault Refusal :=
  s.uniform 0x1C8 f (fun s' =>
    let g := s'.g
    match g.wg with
    | none => s.releaseWait true (s'.done ({ g with taskPhase := g.taskPhase + 1 }.write f.d 2 0 g.taskPhase.toNat) f.len)
    | some w =>
      let wg := s'.wgOf w
      s.releaseWait true
        (if wg.broken then s.trap .barbroken f.len
         else if wg.arrived.contains s.cur then s.stall .barrierOpen
         else (s'.barArrive w).done (g.write f.d 2 0 wg.phase.toNat) f.len))

def execBarWait (f : Fields) (s : State) : Host.Outcome State Fault Refusal :=
  s.uniform 0x1C8 f (fun s' =>
    let g := s'.g
    let q : Word := (g.sreg (opNum f.a)).setWidth 32
    match g.wg with
    | none => if phaseDone g.taskPhase q then s'.done g f.len else s.stall (.barrier q)
    | some w =>
      let wg := s'.wgOf w
      if phaseDone wg.phase q then s'.done g f.len
      else if wg.broken then s.trap .barbroken f.len
      else s.stall (.barrier q))

/-! ### ABAR (R249, R250) -/

/-- A word of an object: 0 flags, 1 PENDING, 2 EXPECT, 3 PHASE. -/
def State.abarWord (s : State) (w off i : Nat) : Nat := leNat ((List.range 4).map (fun k => Cells.get 0 (s.wgOf w).vault (off + 4 * i + k)))

def State.abarPut (s : State) (w off i v : Nat) : State :=
  let wg := s.wgOf w
  s.setWg w { wg with vault := Cells.setAll 0 wg.vault ((toLE 4 v).zipIdx.map (fun e => (off + 4 * i + e.2, e.1))) }

def State.abarLive (s : State) (w off : Nat) : Bool := (s.wgOf w).abars.contains off
def State.abarBroken (s : State) (w off : Nat) : Bool := bit (s.abarWord w off 0) 28
def State.abarPhase (s : State) (w off : Nat) : Word := .ofNat 32 (s.abarWord w off 3)

/-- Flags word of a live object. -/
def abarFlags (scope : Nat) (broken : Bool) : Nat := 2 ^ 27 + 2 ^ 28 * broken.toNat + 2 ^ 29 * scope

/-- The object an ABAR names: its workgroup and offset, or the check that fails. Failures on the own window are precise, those on a
remote one asynchronous. -/
def State.abarAt (s : State) (f : Fields) : Except Chk (Nat × Nat) :=
  let g := s.g
  let b := g.uval f f.b
  let off := b % 2 ^ 32
  match g.wg with
  | none => .error (.trap .capinvalid)
  | some w =>
    if off % 16 != 0 then .error (.trap .capbound)
    else if f.mod = 1 then (if (s.wgOf w).size < off + 16 then .error (.trap .capbound) else .ok (w, off))
    else
      match s.rankWg w (b / 2 ^ 32) with
      | none => .error (.trap .capinvalid)
      | some w => if (s.wgOf w).size < off + 16 then .error (.trap .capbound) else .ok (w, off)

/-- A failure of an ABAR: precise on the own window or for a misaligned offset, else reported while the instruction completes. -/
def State.abarFail (s0 s : State) (f : Fields) (c : Chk) : State :=
  let late := f.mod = 2 && s.g.wg.isSome && s.g.uval f f.b % 16 = 0
  match c with
  | .trap c => if late then let s := s.report s.cur c s.g.pc s.g.seq; s.done (s.g.write f.d 2 0 0) f.len else s0.trap c f.len
  | c => s0.unless c f.len s0

/-- Check of an operation other than `.init` (R250). -/
def State.abarCheck (s : State) (w off : Nat) : Chk :=
  if !s.abarLive w off then .trap .capinvalid else if s.abarBroken w off then .trap .barbroken else .ok

/-- One arrival: PENDING falls, and the phase completes at zero. -/
def State.abarStep (s : State) (w off : Nat) : State :=
  let p := s.abarWord w off 1
  if p = 1 then
    (s.abarPut w off 3 ((s.abarWord w off 3 + 1) % 2 ^ 32)).abarPut w off 1 (s.abarWord w off 2)
  else s.abarPut w off 1 (p - 1)

/-- An arrival of the current group, with the crumb of a remote one (R415). -/
def State.abarArrive (s : State) (f : Fields) (w off : Nat) : State :=
  let g := s.g
  let s := if f.mod = 2 then
      let r := (s.core g.core).recorder
      s.crumb (s.wgOf w).core g.ctx 0x32 (mBody (s.physCore g.core) (r.cseq + 2 ^ 28 - 1) 0)
    else s
  s.abarStep w off

def execAbarInit (f : Fields) (s : State) : Host.Outcome State Fault Refusal :=
  s.uniform 0x1C9 f (fun s' =>
    let c := s'.g.uval f f.c
    match s'.abarAt f with
    | .error e => s.abarFail s' f e
    | .ok (w, off) =>
      if !between 1 (2 ^ 31 - 1) c then s.trap .capbound f.len
      else
        let s' := if s'.abarLive w off then s'.breakWaiters w off else s'
        let wg := s'.wgOf w
        let s' := s'.setWg w { wg with abars := if wg.abars.contains off then wg.abars else off :: wg.abars }
        let s' := (((s'.abarPut w off 0 (abarFlags (f.ext.xsub.toNat / 8 % 8) false)).abarPut w off 1 c).abarPut w off 2 c).abarPut w off 3 0
        s'.done s'.g f.len)

def execAbarArrive (f : Fields) (s : State) : Host.Outcome State Fault Refusal :=
  s.uniform 0x1C9 f (fun s' =>
    match s'.abarAt f with
    | .error e => s.abarFail s' f e
    | .ok (w, off) =>
      match s'.abarCheck w off with
      | .ok => s.releaseWait true ((s'.abarArrive f w off).done (s'.g.write f.d 2 0 (s'.abarPhase w off).toNat) f.len)
      | c => s.abarFail s' f c)

/-- Wait for a phase of an object. -/
def State.abarAwait (s0 s : State) (f : Fields) (w off : Nat) (q : Word) : State :=
  if phaseDone (s.abarPhase w off) q then s.done s.g f.len else s0.stall (.abar w off q)

def execAbarWait (f : Fields) (s : State) : Host.Outcome State Fault Refusal :=
  s.uniform 0x1C9 f (fun s' =>
    if s'.g.wait = .broken then s.abarFail s' f (.trap .barbroken)
    else
      match s'.abarAt f with
      | .error e => s.abarFail s' f e
      | .ok (w, off) =>
        match s'.abarCheck w off with
        | .ok => s.abarAwait s' f w off ((s'.g.sreg (opNum f.a)).setWidth 32)
        | c => s.abarFail s' f c)

def execAbarSync (f : Fields) (s : State) : Host.Outcome State Fault Refusal :=
  s.uniform 0x1C9 f (fun s' =>
    match s'.g.wait with
    | .broken => s.abarFail s' f (.trap .barbroken)
    | .abar w off q => s.abarAwait s' f w off q
    | _ =>
      match s'.abarAt f with
      | .error e => s.abarFail s' f e
      | .ok (w, off) =>
        match s'.abarCheck w off with
        | .ok =>
          let q := s'.abarPhase w off
          s.releaseWait true ((s.abarArrive f w off).abarAwait (s'.abarArrive f w off) f w off q)
        | c => s.abarFail s' f c)

def execAbarInval (f : Fields) (s : State) : Host.Outcome State Fault Refusal :=
  s.uniform 0x1C9 f (fun s' =>
    match s'.abarAt f with
    | .error e => s.abarFail s' f e
    | .ok (w, off) =>
      if !s'.abarLive w off then s.trap .capinvalid f.len
      else
        let s' := s'.breakWaiters w off
        let s' := s'.abarPut w off 0 (s'.abarWord w off 0 - 2 ^ 27)
        let wg := s'.wgOf w
        (s'.setWg w { wg with abars := wg.abars.filter (· != off) }).done s'.g f.len)

/-! ### WAITC (R204, R251) -/

def execWaitc (f : Fields) (s : State) : Host.Outcome State Fault Refusal :=
  s.uniform 0x1CA f (fun s' =>
    if s'.g.count f.ext.num2.toNat ≤ f.ext.num1.toNat then s'.done s'.g f.len else s.stall .waitc)

/-! ### Buffer handles (R203, R258, R259) -/

def hFree : Nat := 0
def hFilling : Nat := 1
def hFull : Nat := 2
def hDraining : Nat := 3

def Workgroup.handle (w : Workgroup) (n : Nat) : Handle := Cells.get ⟨0, 0, 0⟩ w.handles n
def Workgroup.setHandle (w : Workgroup) (n : Nat) (h : Handle) : Workgroup := { w with handles := Cells.set ⟨0, 0, 0⟩ w.handles n h }

/-- Move a handle of a workgroup from one state to another; none where it is in another state. -/
def State.handleMove (s : State) (w n src dst : Nat) : Option State :=
  let wg := s.wgOf w
  let h := wg.handle n
  if h.state = src then some (s.setWg w (wg.setHandle n { h with state := dst })) else none

/-- An instruction on a handle of the workgroup: CAPBOUND at or above the count. -/
def State.onHandle (s : State) (op : Nat) (f : Fields) (k : State → Nat → Nat → State) : Host.Outcome State Fault Refusal :=
  s.uniform op f (fun s' =>
    let n := f.ext.num1.toNat
    match s'.g.wg with
    | none => s.trap .capbound f.len
    | some w => if (s'.wgOf w).nHandles ≤ n then s.trap .capbound f.len else k s' w n)

/-- A transition by a group, which waits until it is defined. -/
def State.handleStep (s0 s : State) (f : Fields) (w n src dst : Nat) : State :=
  match s.handleMove w n src dst with
  | some s => s.done s.g f.len
  | none => s0.stall .buffer

/-- Set every granule of a region empty. -/
def Workgroup.emptyRegion (w : Workgroup) (off len : Nat) : Workgroup :=
  { w with full := w.full.filter (fun e => !(256 * off ≤ e.1 && e.1 < 256 * (off + len))) }

def execBufacqFill (f : Fields) (s : State) : Host.Outcome State Fault Refusal :=
  s.onHandle 0x1D2 f (fun s' w n =>
    let a := s'.g.uval f f.a
    let off := a % 2 ^ 16
    let len := a / 2 ^ 16 % 2 ^ 16
    let wg := s'.wgOf w
    if !between 1 240 len || wg.size < 4096 * (off + len) then s.trap .capbound f.len
    else if (wg.handle n).state != hFree then s.stall .buffer
    else (s'.setWg w ((wg.setHandle n ⟨hFilling, off, len⟩).emptyRegion off len)).done s'.g f.len)

def execBufacqDrain (f : Fields) (s : State) : Host.Outcome State Fault Refusal :=
  s.onHandle 0x1D2 f (fun s' w n => s.handleStep s' f w n hFull hDraining)
def execBufrelFill (f : Fields) (s : State) : Host.Outcome State Fault Refusal :=
  s.onHandle 0x1D3 f (fun s' w n => s.releaseWait true (s.handleStep s' f w n hFilling hFull))
def execBufrelDrain (f : Fields) (s : State) : Host.Outcome State Fault Refusal :=
  s.onHandle 0x1D3 f (fun s' w n => s.releaseWait true (s.handleStep s' f w n hDraining hFree))

def execBufwait (f : Fields) (s : State) : Host.Outcome State Fault Refusal :=
  s.onHandle 0x1D4 f (fun s' w n =>
    if ((s'.wgOf w).handle n).state = f.ext.xsub.toNat then s'.done s'.g f.len else s.stall .buffer)

def execBufstate (f : Fields) (s : State) : Host.Outcome State Fault Refusal :=
  s.onHandle 0x1D5 f (fun s' w n =>
    let h := (s'.wgOf w).handle n
    s'.done (s'.g.write f.d 2 0 (h.state + 2 ^ 8 * h.off + 2 ^ 24 * h.len)) f.len)

/-! ### Line locks (R260, R261) -/

/-- Key of the line that holds an offset of an object. -/
def lineKey (obj off : Nat) : Nat := obj * 2 ^ 40 + off / 64

/-- Entries of a die's lock table, of lines homed there, and lines that one owner may hold. -/
def lockTable : Nat := 4096
def lockMax : Nat := 8

/-- Offset of a lock instruction and its check with read rights. -/
def State.lockAt (s : State) (f : Fields) : Cap × Nat × Chk :=
  let g := s.g
  let c := g.kreg f.ext.num1.toNat
  let off := (g.uval f f.b + g.uval f f.a) % 2 ^ 64
  (c, off, s.accCheck (some (.obj c)) [rRead] 1 false [⟨0, off⟩])

/-- A line of a peer's object is held by another device, or its table is full there, as a free bit says (log 9). -/
def execLlock (f : Fields) (s : State) : Host.Outcome State Fault Refusal :=
  s.uniform 0x1D7 f (fun s' =>
    let g := s'.g
    let (c, off, chk) := s'.lockAt f
    s.unless chk f.len
      (match s'.portCheck g.ctx c off 1 false with
       | some e => let s' := s'.report s'.cur e g.pc g.seq; s'.done (s'.g.setGpred (f.d.toNat % 8) false) f.len
       | none =>
           let key := lineKey (objKey g.ctx c.name) off
           let die (k : Nat) : Nat := Config.homeDie (k / 2 ^ 40) (k % 2 ^ 40) % 4
           let me := lockOwner g s'.cur
           let held := Cells.get 0 s'.locks key
           let mine := (s'.locks.filter (fun e => e.2 == me)).length
           let home (k : Nat) : Bool := (s'.obj (k / 2 ^ 40)).home == s'.devnum
           let full := lockTable ≤ (s'.locks.filter (fun e => home e.1 && die e.1 == die key)).length
           let far := bit (Config.peerByte s'.freeCount (objKey g.ctx c.name) off).toNat 0
           let got := held == me || (held == 0 && mine < lockMax && (if s'.isPeer (.obj c) then far else !full))
           let s' := if got then { s' with locks := Cells.set 0 s'.locks key me } else s'
           s'.done (g.setGpred (f.d.toNat % 8) got) f.len))

def execLunlk (f : Fields) (s : State) : Host.Outcome State Fault Refusal :=
  s.uniform 0x1D8 f (fun s' =>
    let g := s'.g
    let (c, off, chk) := s'.lockAt f
    s.unless chk f.len
      (s.releaseWait true
        (match s'.portCheck g.ctx c off 1 false with
         | some e => let s' := s'.report s'.cur e g.pc g.seq; s'.done s'.g f.len
         | none =>
           let key := lineKey (objKey g.ctx c.name) off
           if Cells.get 0 s'.locks key = lockOwner g s'.cur then { s' with locks := Cells.del s'.locks key }.done g f.len
           else (s'.gcrumb s'.cur 0x14 0).done g f.len)))

end Sys2Proof.Machine
end

