-- ==== Sys2Proof/Machine/Caps.lean ====
section
/-! DEFINITION. CAPLD, CAPST, CAPRESTR and CAPQ (R187, R241, R252 to R254, R333, R334). -/

namespace Sys2Proof.Machine

/-- Tag of a 16-byte place; a peer's tag is a free value. -/
def State.tagAt (s : State) (l : Loc) : Bool :=
  match l with
  | .mem pa => Cells.get false s.tags (pa / 16)
  | .peer n off => bit (Config.peerByte s.freeCount n (2 ^ 40 + off)).toNat 0
  | _ => false

/-- Capability, offset and check of a capability-array access. -/
def State.capAt (s : State) (f : Fields) (right : Nat) : Cap × Nat × Chk :=
  let g := s.g
  let c := g.kreg f.ext.num1.toNat
  let off := (g.uval f f.b + g.uval f f.a) % 2 ^ 64
  (c, off, s.accCheck (some (.obj c)) [right] 16 true [⟨0, off⟩])

def execCapld (f : Fields) (s : State) : Host.Outcome State Fault Refusal :=
  s.uniform 0x1CB f (fun s' =>
    let (c, off, chk) := s'.capAt f rCapLoad
    let n := f.ext.num2.toNat
    s.unless chk f.len
      (match s'.loads (.obj c) 16 true false [⟨0, off⟩] with
       | .wait => s.stall .instruction
       | .fault va => s.holdFault va false
       | .ok ls causes =>
         if s'.ownPending ls then s.stall .instruction
         else
           let s' := s'.reports causes
           match ls with
           | [(_, some l)] =>
             let g := s'.g.setK n ⟨.ofNat 128 (s'.readNat l), s'.tagAt (l.headD .drop)⟩
             let g := if l.any s'.poisonAt then { g with miscPoison := Cells.set false g.miscPoison (miscKey 3 n) true } else g
             s'.done g f.len
           | _ => s'.done (s'.g.setK n Cap.null) f.len))

def execCapst (f : Fields) (s : State) : Host.Outcome State Fault Refusal :=
  s.uniform 0x1CC f (fun s' =>
    let (c, off, chk) := s'.capAt f rCapStore
    let k := s'.g.kreg f.ext.num2.toNat
    s.unless chk f.len
      (s.releaseWait (f.ext.ord == 3)
        (s.stored s' f (.obj c) ⟨k.tag, false, false, s.g.entry⟩ 16 true [⟨off, toLE 16 k.image.toNat, none, false⟩])))

def execCaprestr (f : Fields) (s : State) : Host.Outcome State Fault Refusal :=
  s.uniform 0x1CD f (fun s' =>
    let g := s'.g
    let c := g.kreg f.ext.num1.toNat
    let start := g.uval f f.a
    let len := g.uval f f.b
    let mask := g.uval f f.c
    if !c.tag then s.trap .capinvalid f.len
    else if start % 16 != 0 || len % 16 != 0 || len < 16 || c.length < start + len then s.trap .capbound f.len
    else
      match windowExp (c.start + start) len with
      | none => s.trap .capbound f.len
      | some e =>
        let rights := ((c.rights &&& mask) % 256) &&& (255 - 2 ^ rCheck) ||| (c.rights &&& 2 ^ rCheck)
        s'.done (g.setK f.ext.num2.toNat (Cap.make c.name c.gen rights e ((c.start + start) / 2 ^ (4 + e)) (len / 2 ^ (4 + e) - 1))) f.len)

def execCapq (f : Fields) (s : State) : Host.Outcome State Fault Refusal :=
  s.uniform 0x1CE f (fun s' =>
    let c := s'.g.kreg f.ext.num1.toNat
    let v := match f.ext.xsub.toNat with
      | 0 => c.name.toNat
      | 1 => c.start
      | 2 => c.length
      | _ => c.rights + 2 ^ 8 * c.gen + 2 ^ 16 * c.tag.toNat
    s'.done (s'.g.write f.d 2 0 v) f.len)

end Sys2Proof.Machine
end

