-- ==== Sys2Proof/Machine/Engine.lean ====
section
/-! DEFINITION. Streams and the copy engine (R200, R203 to R210, R255 to R257, R366, R437). -/

namespace Sys2Proof.Machine

/-! ### Streams (R205 to R207, R255, R256) -/

/-- Fields of a stream record's image. -/
def imgByte (i : BitVec 512) (n : Nat) : Nat := imgBytes i n 1
def Stream.mode (st : Stream) : Nat := imgByte st.image 40 % 4
def Stream.cnt (st : Stream) (d : Nat) : Nat := imgBytes st.image (20 + 2 * d) 2
def Stream.conv (st : Stream) : Nat := imgBytes st.image 56 8

/-- Queue of a stream: an o register, or its own coordinates for an index stream. -/
def Stream.queue (st : Stream) (n : Nat) : Nat := if st.isIndex then 8 + n else st.odest

def Group.stream (g : Group) (n : Nat) : Stream := Cells.get Stream.free g.streams n
def Group.setStream (g : Group) (n : Nat) (st : Stream) : Group := { g with streams := Cells.set Stream.free g.streams n st }

/-- Filter fields of convolution mode are in range (R205). -/
def convOk (v : Nat) : Bool :=
  between 1 15 (bits v 7 0) && between 1 15 (bits v 15 8) && between 1 8 (bits v 19 16) && between 1 8 (bits v 23 20) &&
    between 1 8 (bits v 27 24) && between 1 8 (bits v 31 28)

/-- The image may be bound as stream `n` (R255). -/
def Group.streamOk (g : Group) (n : Nat) (i : BitVec 512) : Bool :=
  let st : Stream := { Stream.free with image := i }
  let idx := st.isIndex
  let others := g.streams.filter (fun e => e.1 != n && e.2.bound)
  imgBytes i 44 4 == 0 && imgByte i 38 == 0 && imgByte i 41 % 16 == 0 && bits (imgByte i 40) 4 2 == 0 && bits st.conv 63 40 == 0 &&
    st.mode != 3 && (List.range 5).all (fun d => st.cnt d != 0) && (st.mode != 2 || convOk st.conv) &&
    (idx || !others.any (fun e => !e.2.isIndex && e.2.odest == st.odest)) &&
    (st.mode != 1 || (imgByte i 43 < 5 && (g.stream (imgByte i 42)).bound && (g.stream (imgByte i 42)).isIndex && imgByte i 42 != n))

/-- Elements of a stream: REMAIN at the binding. -/
def Stream.total (st : Stream) : Nat :=
  ((List.range 5).map st.cnt).foldl (· * ·) 1 * (if st.mode = 2 then bits st.conv 7 0 * bits st.conv 15 8 else 1)

/-- Stop a stream: its run-ahead ends and its counter operation retires. -/
def State.streamStop (s : State) (gid n : Nat) : State :=
  let g := s.grp gid
  let st := g.stream n
  if st.active && !st.done then (s.setGrp gid (g.setStream n { st with active := false })).opDone gid st.op
  else s.setGrp gid (g.setStream n { st with active := false })

/-- Free a record: stop it and discard its queued elements. -/
def State.streamFree (s : State) (gid n : Nat) : State :=
  let st := (s.grp gid).stream n
  if !st.bound then s
  else
    let s := s.streamStop gid n
    let g := s.grp gid
    s.setGrp gid { g with streams := Cells.del g.streams n, oq := Cells.del g.oq (st.queue n) }

/-- Stream records of a core (R205). -/
def streamRecords : Nat := 64

def State.streamsOn (s : State) (core : Nat) : Nat :=
  ((s.groups.filter (fun e => e.2.resident && e.2.core == core)).map (fun e => (e.2.streams.filter (fun x => x.2.bound && !x.2.held)).length)).sum

def execStrmset (f : Fields) (s : State) : Host.Outcome State Fault Refusal :=
  s.uniform 0x1CF f (fun s' =>
    let g := s'.g
    let n := f.ext.num1.toNat
    let i := g.image f.a
    if !g.streamOk n i then s.trap .illegal f.len
    else if (s'.layout (imgByte i 39)).isNone then s.trap .capbound f.len
    else if (!(g.stream n).bound || (g.stream n).held) && streamRecords ≤ s'.streamsOn g.core then s.stall .queueReg
    else
      let s' := s'.streamFree s'.cur n
      let st : Stream := { Stream.free with bound := true, image := i }
      s'.done (s'.g.setStream n { st with remain := st.total }) f.len)

/-- Give the core's free records to streams of a group that a restore left without one (R350). -/
def State.giveRecords (s : State) (gid : Nat) : State :=
  ((s.grp gid).streams.filter (fun e => e.2.held)).foldl (fun s e =>
    if s.streamsOn (s.grp gid).core < streamRecords then s.setGrp gid ((s.grp gid).setStream e.1 { e.2 with held := false }) else s) s

/-- STRMCTL on a bound stream; it waits for the record of a restored stream that has none (R350). -/
def State.onStream (s : State) (f : Fields) (k : State → Nat → Stream → State) : Host.Outcome State Fault Refusal :=
  s.uniform 0x1D0 f (fun s' =>
    let n := f.ext.num1.toNat
    let st := s'.g.stream n
    if !st.bound then s.trap .illegal f.len else if st.held then s.stall .queueReg else k s' n st)

def execStrmctlStart (f : Fields) (s : State) : Host.Outcome State Fault Refusal :=
  s.onStream f (fun s' n st =>
    if st.active || st.done then s'.done s'.g f.len
    else s.releaseWait true
      (if 255 ≤ s'.g.count 2 then s.stall .waitc
       else
         let (op, s') := s'.opStart s'.cur 2
         s'.done (s'.g.setStream n { st with active := true, fault := none, op := op }) f.len))

def execStrmctlStop (f : Fields) (s : State) : Host.Outcome State Fault Refusal :=
  s.onStream f (fun s' n _ => let s' := s'.streamStop s'.cur n; s'.done s'.g f.len)

/-- FLAGS of a stream: DONE, RUNOUT, ACTIVE, INDEX. -/
def Stream.flags (st : Stream) : Nat := 2 ^ 7 * st.done.toNat + 2 ^ 6 * st.runout.toNat + 2 ^ 5 * st.active.toNat + 2 ^ 4 * st.isIndex.toNat

def execStrmctlQuery (f : Fields) (s : State) : Host.Outcome State Fault Refusal :=
  s.onStream f (fun s' _ st => s'.done (s'.g.write f.d 2 0 (st.flags + 2 ^ 8 * (st.remain % 2 ^ 48))) f.len)

def execStrmctlFree (f : Fields) (s : State) : Host.Outcome State Fault Refusal :=
  s.onStream f (fun s' n _ => let s' := s'.streamFree s'.cur n; s'.done s'.g f.len)

/-- Digits of a position in mixed radices, the first varying fastest. -/
def digits : List Nat → Nat → List Nat
  | [], p => [p]
  | r :: l, p => p % r :: digits l (p / r)

/-- Coordinates of the element at a position, with the coordinate a gather takes from its index stream (R206). -/
def Stream.coordAt (st : Stream) (pos : Nat) (idx : Int) : List Int :=
  let coord (d : Nat) : Int := toSigned 32 (imgBytes st.image (4 * d) 4)
  let step (d : Nat) : Int := if d < 4 then toSigned 16 (imgBytes st.image (30 + 2 * d) 2) else 1
  if st.mode = 2 then
    let v := st.conv
    let i := digits [st.cnt 0, bits v 15 8, bits v 7 0, st.cnt 1, st.cnt 2] pos
    let n (k : Nat) : Int := (i.getD k 0 : Nat)
    let fld (hi lo : Nat) : Int := (bits v hi lo : Nat)
    [coord 0 + n 0, (coord 1 + n 3) * fld 23 20 - fld 39 36 + n 1 * fld 31 28,
     (coord 2 + n 4) * fld 19 16 - fld 35 32 + n 2 * fld 27 24, coord 3 + n 5, 0]
  else
    let i := digits ((List.range 4).map st.cnt) pos
    let c := (List.range 5).map (fun d => coord d + (i.getD d 0 : Nat) * step d)
    if st.mode = 1 then c.set (imgByte st.image 43) idx else c

/-- A read of one element by the run-ahead engine: its value and poison, a cause, a fault, or a wait. -/
inductive ElemRead where
  | val (v : Nat) (poison : Bool)
  | cause (c : Cause)
  | fault (va : Nat)
  | wait

def State.readElem (s : State) (l : Layout) (c : List Int) : ElemRead :=
  if !l.inside c then .val (l.pad % 2 ^ l.bits) false
  else
    let off := s.layoutOff l (l.addr c)
    let sp := s.layoutSpace l
    match s.layoutCheck l sp rRead l.bytes false [⟨0, off⟩], sp with
    | .ok, some sp =>
      match s.loads sp l.bytes false false [⟨0, off⟩] with
      | .wait => .wait
      | .fault va => .fault va
      | .ok [(_, some p)] _ =>
        let v := s.loadNat p
        .val (if l.bits = 4 then v.1 / (if (c.headD 0).toNat % 2 = 1 then 16 else 1) % 16 else v.1) v.2
      | .ok _ (e :: _) => .cause e
      | .ok _ [] => .wait
    | .trap e, _ => .cause e
    | _, _ => .cause .capinvalid

/-- Level code of what an entry's space holds (R429). -/
def State.layoutLevel (s : State) (l : Layout) : Nat :=
  match s.layoutSpace l with
  | some (.obj c) => if s.isPeer (.obj c) then 8 else s.levelOf s.g (.mem 0)
  | _ => 1

/-- Elements that an o register holds (R207). -/
def queueDepth : Nat := 64

/-- The run-ahead engine reads the next element of a stream of a group; nothing happens where it cannot. A refused read stops the
stream and ends its operation; a page fault only holds it (R204, R207; log 20). -/
def State.readAhead (s0 : State) (gid n : Nat) : State :=
  let s := { s0 with cur := gid }
  let g := s.g
  let st := g.stream n
  match s.layout (imgByte st.image 39) with
  | none => s0
  | some l =>
    let q := Cells.get [] g.oq (st.queue n)
    let need := if l.bits = 64 then 2 else 1
    let src := imgByte st.image 42
    let iq := Cells.get [] g.oq (8 + src)
    if g.status != .running || !st.bound || !st.active || st.held || st.done || st.fault.isSome || queueDepth < q.length + need ||
        (st.mode == 1 && iq.isEmpty) then s0
    else
      let idx : Int := toSigned 32 ((iq.headD (0, false)).1.toNat)
      let c := st.coordAt st.pos idx
      let back (st : Stream) : State := { s.setGrp gid (g.setStream n st) with cur := s0.cur }
      match s.readElem l c with
      | .wait => s0
      | .cause e => (back { st with active := false, fault := some e }).opDone gid st.op
      | .fault va => back { st with fault := some .page, fva := va }
      | .val v poison =>
        let poison := poison || (st.mode == 1 && (iq.headD (0, false)).2)
        let ws : List (Word × Bool) := (List.range need).map (fun i => (.ofNat 32 (v / 2 ^ (32 * i)), poison))
        let runout := st.runout || (st.mode == 2 && ((l.ext.getD 3 0 : Nat) : Int) ≤ c.getD 3 0)
        let st' := { st with pos := st.pos + 1, remain := st.remain - 1, runout := runout, done := st.remain ≤ 1 }
        let g := { g.setStream n st' with oq := Cells.set [] g.oq (st.queue n) (q ++ ws) }
        let g := if st.mode = 1 then { g with oq := Cells.set [] g.oq (8 + src) iq.tail } else g
        let g := if poison then { g with markLevel := Cells.set 0 g.markLevel (oMark (st.queue n)) (s.layoutLevel l) } else g
        let s := match (if l.inside c then s.layoutSpace l else none) with | some sp => s.readsPeer sp l.bytes [⟨0, s.layoutOff l (l.addr c)⟩] | none => s
        let s := { s.setGrp gid g with cur := s0.cur }
        if st'.done then s.opDone gid st.op else s

def execStreamReadAhead (gid n : Nat) (s : State) : Host.Outcome State Fault Refusal := .next (s.readAhead gid n)

/-! ### Places that engines reach -/

/-- The host-object table entry of a name (R366). -/
def State.hostIndex (s : State) (name : DWord) : Option Nat :=
  if name.toNat / 2 ^ 62 = 3 then (s.hostObjs.find? (fun e => e.2.valid && e.2.name == name)).map Prod.fst else none

/-- The traffic of a queue pair is paused (R363; its priority is not stated, log 58). -/
def State.qpPaused (s : State) (port qp : Nat) : Bool := Cells.get 0 s.paused (8 * port + Config.hostPrio qp % 8) != 0

/-- A side of a copy is a host object whose port pauses it. -/
def Copy.held (c : Copy) (s : State) : Bool :=
  let side (v : Option Nat) (k : Cap) : Bool :=
    match v, s.hostIndex k.name with
    | none, some i => let h := Cells.get HostObj.none s.hostObjs i; s.qpPaused h.port h.qp
    | _, _ => false
  side c.srcVault c.src || side c.dstVault c.dst

/-- Places of bytes for an engine of a context: a vault window, or an object through a capability. A host object is no entry of the object
table (R366). -/
def State.engineRes (s : State) (ctx : Nat) (c : Cap) (vault : Option Nat) (off n : Nat) (write : Bool) : Res :=
  match vault with
  | some w => if (s.wgOf w).size < off + n then .async .capbound else .ok ((List.range n).map (fun i => (none, .vault w (off + i))))
  | none =>
    match s.portCheck ctx c off n false with
    | some e => .async e
    | none =>
      let o := s.obj (objKey ctx c.name)
      if !c.covers off n then .async .capbound
      else if !s.reachable o.home then .async .poison
      else if o.home != s.devnum then .ok ((List.range n).map (fun i => (none, .peer (objKey ctx c.name) (off + i))))
      else if write && s.meetHeld (objKey ctx c.name) then .ok ((List.range n).map (fun i => (some (o.vbase + off + i), .drop)))
      else
        match s.transRun ctx (o.vbase + off) n write with
        | .error va => .fault va
        | .ok l => .ok (l.zipIdx.map (fun e => (some (o.vbase + off + e.2), .mem e.1)))

/-- Places of bytes for the copy engine, which alone reaches a host object (R210, R366). -/
def State.copyRes (s : State) (ctx : Nat) (c : Cap) (vault : Option Nat) (off n : Nat) (write : Bool) : Res :=
  match vault, s.hostIndex c.name with
  | none, some i =>
    if (Cells.get HostObj.none s.hostObjs i).len < off + n || !c.covers off n then .async .capbound
    else .ok ((List.range n).map (fun k => (none, .host i (off + k))))
  | _, _ => s.engineRes ctx c vault off n write

/-- Write bytes for an engine: through the race filter for a CHECKED object with the strand's entry, and filling vault granules
(R190, R201). None while a race record cannot be written. -/
def State.engineWrite (s : State) (c : Cap) (l : List (Option Nat × Loc)) (b : List Byte) (entry gid ctx lid core : Nat) (pc seq : Word) :
    Option State :=
  let o := s.obj (objKey ctx c.name)
  let items := (l.zip b).map (fun e => Item.byte e.1.1 e.1.2 e.2 false)
  let keys := (items.map (fun i => i.loc.block 16)).eraseDups
  keys.foldl (fun s k => s.bind (fun s =>
    let its := items.filter (fun i => i.loc.block 16 == k)
    let va := ((its.head?).bind Item.va)
    let shadow := match va with
      | some va => if o.checked && o.live && (match its.head?.map Item.loc with | some (.mem _) => true | _ => false)
          then some (shadowKey (objKey ctx c.name) (va - o.vbase), va / 16 * 16) else none
      | none => none
    let p := partOf shadow its
    let fill := match its.head?.map Item.loc with | some (.vault _ _) => true | _ => false
    s.performPart { gid := gid, ctx := ctx, lid := lid, core := core, kind := .plain, parts := [], tag := false, setFull := fill,
                    entry := entry, pc := pc, seq := seq, op := 0, va := 0, obj := none, sched := 0, owner := 0 } p)) (some s)

/-! ### The copy engine (R209, R210, R257) -/

def copyChunk (i : BitVec 512) : Nat := imgBytes i 48 2 % 16
def copyRowlen (i : BitVec 512) : Nat := imgBytes i 28 4
def copyRows (i : BitVec 512) : Nat := imgBytes i 32 4
def copyHandle (i : BitVec 512) : Nat := imgBytes i 50 2

/-- A swizzle word's rules for rows of a length (R200). -/
def swzOk (w rowlen : Nat) : Bool :=
  let unit := w % 16
  let swb := bits w 7 4
  bits w 31 16 == 0 &&
    (if swb = 0 then unit == 0 && bits w 15 8 == 0
     else swb ≤ 6 && between 4 12 unit && bits w 15 8 ≤ 31 && rowlen % 2 ^ (unit + swb) == 0)

/-- The rules of R209 and R200 that hold for every copy. -/
def copyOk (i : BitVec 512) : Bool :=
  let ch := copyChunk i
  let swz := imgBytes i 44 4
  imgBytes i 56 8 == 0 && imgBytes i 52 4 < 2 && imgBytes i 48 2 < 16 && between 4 12 ch && copyRowlen i % 2 ^ ch == 0 && copyRows i != 0 &&
    swzOk swz (copyRowlen i) && (bits swz 7 4 == 0 || swz % 16 == ch)

/-- Bytes that a side spans: its offset and length. -/
def copySpan (i : BitVec 512) (dst : Bool) : Nat × Nat :=
  (imgBytes i (if dst then 16 else 8) 8, (copyRows i - 1) * imgBytes i (if dst then 40 else 36) 4 + copyRowlen i)

/-- Check of one side at issue (R257). -/
def State.copyCheck (s : State) (c : Cap) (vault : Option Nat) (right : Nat) (span : Nat × Nat) : Chk :=
  match vault with
  | some w => Chk.when ((s.wgOf w).size < span.1 + span.2) (.trap .capbound)
  | none =>
    if !c.tag then .trap .capinvalid
    else if !c.has right then .trap .caprights
    else Chk.when (!c.covers span.1 span.2) (.trap .capbound)

/-- A CPY consumes the marks of the k registers that its image names (R436). -/
def Group.copyPoison (g : Group) (sc dc : Nat) : Chk :=
  Chk.when ([sc, dc].any (fun n => n < 16 && Cells.get false g.miscPoison (miscKey 3 n))) (.trap .poison)

/-- A side of a CPY: a k register or the own window; none for another index. -/
def sideOk (n : Nat) : Bool := n < 16 || n == 0x100

def execCpy (f : Fields) (s : State) : Host.Outcome State Fault Refusal :=
  s.uniform 0x1D1 f (fun s' =>
    let g := s'.g
    let i := g.image f.a
    let sc := imgBytes i 24 2
    let dc := imgBytes i 26 2
    let h := copyHandle i
    let vault (n : Nat) : Option Nat := if n = 0x100 then g.wg else none
    let nh := match g.wg with | some w => (s'.wgOf w).nHandles | none => 0
    if imgBytes i 0 8 != 0 || !copyOk i || !sideOk sc || !sideOk dc then s.trap .illegal f.len
    else if (sc == 0x100 || dc == 0x100) && g.wg.isNone then s.trap .capinvalid f.len
    else
      s.unless ((g.copyPoison sc dc).and ((s'.copyCheck (g.kreg sc) (vault sc) rRead (copySpan i false)).and
          (s'.copyCheck (g.kreg dc) (vault dc) rWrite (copySpan i true)))) f.len
        (if h != 0xFFFF && nh ≤ h then s.trap .capbound f.len
         else s.releaseWait true
           (if 255 ≤ g.count 0 then s.stall .waitc
            else
              let (op, s') := s'.opStart s'.cur 0
              let c := s'.core g.core
              let cp : Copy := { image := i, src := g.kreg sc, dst := g.kreg dc, srcVault := vault sc, dstVault := vault dc, ctx := g.ctx
                                 lid := g.lid, gid := s'.cur, wg := g.wg, op := op, entry := g.entry, queue := none, pc := g.pc, seq := g.seq + 1, pos := 0
                                 paused := none, sent := false }
              let s' := s'.setCore g.core { c with copies := c.copies ++ [cp] }
              s'.done { s'.g with seq := g.seq + 1 } f.len)))

/-- How far a copy came. -/
inductive CopyRes where
  | done (s : State)
  | stop (s : State) (c : Cause)
  | pause (s : State) (pos va : Nat) (write : Bool)
  | wait (s : State) (pos : Nat)

/-- A chunk of a copy, read: its destination places and its bytes, or why it does not move. -/
inductive CopyChunk where
  | ok (l : List (Option Nat × Loc)) (b : List Byte)
  | stop (c : Cause)
  | pause (va : Nat) (write : Bool)
  | hold

/-- Offset of a chunk in the source. -/
def Copy.srcOff (c : Copy) (pos : Nat) : Nat :=
  let ch := 2 ^ copyChunk c.image
  let per := copyRowlen c.image / ch
  imgBytes c.image 8 8 + pos / per * imgBytes c.image 36 4 + pos % per * ch

/-- The request that reads a chunk from a peer's object (R361). -/
def State.askChunk (s : State) (c : Copy) (pos : Nat) : State :=
  match s.copyRes c.ctx c.src c.srcVault (c.srcOff pos) (2 ^ copyChunk c.image) false with
  | .ok ((_, .peer n off) :: _) => s.send (.readPeer (s.obj n).home (.ofNat 64 n) off (2 ^ copyChunk c.image))
  | _ => s

/-- Read a chunk; it waits while the paths to a peer of either side are about to change (R361). -/
def State.readChunk (s : State) (c : Copy) (pos : Nat) : CopyChunk :=
  let i := c.image
  let ch := 2 ^ copyChunk i
  let per := copyRowlen i / ch
  let r := pos / per
  let j := pos % per
  let swz := imgBytes i 44 4
  let so := c.srcOff pos
  let d := imgBytes i 16 8 + r * imgBytes i 40 4 + swizzle (bits swz 15 8) (bits swz 7 4) (swz % 16) (j * ch) r
  match s.copyRes c.ctx c.src c.srcVault so ch false, s.copyRes c.ctx c.dst c.dstVault d ch true with
  | .async e, _ => .stop e
  | .fault va, _ => .pause va false
  | .ok src, dst =>
    if (src ++ (match dst with | .ok l => l | _ => [])).any (fun x => s.held x.2) then .hold
    else if src.any (fun x => s.poisonAt x.2) then .stop .poison
    else
      match dst with
      | .async e => .stop e
      | .fault va => .pause va true
      | .ok dl => .ok dl (src.map (fun x => s.byteAt x.2))

def State.copyWrite (s : State) (core : Nat) (c : Copy) (l : List (Option Nat × Loc)) (b : List Byte) : Option State :=
  s.engineWrite c.dst l b c.entry c.gid c.ctx c.lid core c.pc c.seq

/-- Move the chunks of a copy from a position on, each granule of a chunk in one piece (R210). -/
def State.moveAligned (s : State) (core : Nat) (c : Copy) : Nat → Nat → CopyRes
  | 0, _ => .done s
  | n + 1, pos =>
    match s.readChunk c pos with
    | .stop e => .stop s e
    | .pause va write => .pause s pos va write
    | .hold => .wait s pos
    | .ok l b =>
      match (s.askChunk c pos).copyWrite core c l b with
      | none => .wait s pos
      | some s => State.moveAligned s core c n (pos + 1)

/-- Move all chunks at once: two of them may share a granule, which is written in one piece too. -/
def State.moveGathered (s : State) (core : Nat) (c : Copy) : List (Option Nat × Loc) → List Byte → Nat → Nat → CopyRes
  | l, b, 0, _ => match s.copyWrite core c l b with | none => .wait s 0 | some s => .done s
  | l, b, n + 1, pos =>
    match s.readChunk c pos with
    | .stop e => .stop s e
    | .pause va write => .pause s 0 va write
    | .hold => .wait s 0
    | .ok l' b' => State.moveGathered (s.askChunk c pos) core c (l ++ l') (b ++ b') n (pos + 1)

/-- Move a copy's chunks from a position on (R210): one by one where every chunk fills whole granules of its destination. -/
def State.moveChunks (s : State) (core : Nat) (c : Copy) (n pos : Nat) : CopyRes :=
  if imgBytes c.image 16 8 % 16 = 0 && imgBytes c.image 40 4 % 16 = 0 then s.moveAligned core c n pos else s.moveGathered core c [] [] n pos

/-- Chunks of a copy. -/
def Copy.chunks (c : Copy) : Nat := copyRows c.image * (copyRowlen c.image / 2 ^ copyChunk c.image)

end Sys2Proof.Machine
end

