-- ==== Sys2Proof/Machine/Frag.lean ====
section
/-! DEFINITION. Matrix instructions on register fragments: MMAF, MMAI, MMAQ, LDFRAG, STFRAG and FRAGMOV (R137 to R153). -/

namespace Sys2Proof.Machine

/-! ### Fragment layouts (R141, R142) -/

/-- A fragment as rows of equal-width elements: a row of an A fragment is i, of a B fragment n, of an accumulator i, and the
elements of a row lie in the registers of consecutive threads, in order. -/
structure Frag where
  rows : Nat
  cols : Nat
  w : Nat
  deriving DecidableEq, Repr

/-- Threads that hold one row, and elements of a thread. -/
def Frag.perRow (q : Frag) : Nat := 32 / q.rows
def Frag.per (q : Frag) : Nat := q.cols / q.perRow

/-- Element of row `r` and column `c`, where `vals` are the threads' register runs as numbers. -/
def Frag.get (q : Frag) (vals : List Nat) (r c : Nat) : Nat :=
  element q.w (c % q.per) (vals.getD (r * q.perRow + c / q.per) 0)

/-- Row and column of place `p` of a thread. -/
def Frag.row (q : Frag) (t : Nat) : Nat := t / q.perRow
def Frag.col (q : Frag) (t p : Nat) : Nat := t % q.perRow * q.per + p

/-- The register run of a thread. -/
def Frag.run (q : Frag) (fn : Nat → Nat → Nat) (t : Nat) : Nat :=
  ((List.range q.per).map (fun p => fn (q.row t) (q.col t p) % 2 ^ q.w * 2 ^ (q.w * p))).sum

/-- M, N, K and the operands' element width of a shape code (R149). -/
def shapeDims : Nat → Nat × Nat × Nat × Nat
  | 0 => (16, 16, 16, 16)
  | 1 => (32, 8, 16, 16)
  | 2 => (8, 32, 16, 16)
  | 3 => (16, 16, 32, 8)
  | _ => (16, 16, 64, 4)

def fragA (shape : Nat) : Frag := let d := shapeDims shape; ⟨d.1, d.2.2.1, d.2.2.2⟩
def fragB (shape : Nat) : Frag := let d := shapeDims shape; ⟨d.2.1, d.2.2.1, d.2.2.2⟩
def fragAcc (shape : Nat) : Frag := let d := shapeDims shape; ⟨d.1, d.2.1, 32⟩

/-- log2 of the elements per scale of an SKIND (R49). -/
def skindShift : Nat → Nat
  | 1 => 3
  | 2 => 5
  | _ => 4

/-- The scale fragment of an SKIND for 64 elements of K (R142). -/
def fragScale (skind : Nat) : Frag := ⟨16, 64 / 2 ^ skindShift skind, 8⟩

/-! ### Checks (R137 to R140, R143) -/

/-- All 32 threads are active (R139). -/
def Group.converged (g : Group) : Chk := Chk.when (g.cur != 0xFFFFFFFF) (.trap .converge)

/-- The checks of a fragment instruction up to its own: slots at decode, register ranges, CONVERGE, and then the waits; `xv` and
`xs` are the v and s registers that EXT names, which behave as FEX = 0 (R139, R140, R145). -/
def Group.fragPre (g : Group) (fm : Form) (f : Fields) (slots : Chk) (xv xs : List Nat) : Chk :=
  Chk.all [slots, g.rangeCheck fm f threads, Chk.when (xv.any (fun n => g.allot ≤ n) || xs.any (fun n => g.ucount ≤ n)) (.trap .regrange),
    g.converged, g.emptyCheck fm f threads,
    Chk.when (threads.any (g.quadEmpty xv) || xs.any (fun n => Cells.get false g.sEmpty n)) (.wait .regEmpty),
    Chk.when (xv.any (fun n => threads.any (fun t => Cells.get false g.vPoison (32 * n + t))) || xs.any (fun n => Cells.get false g.sPoison n))
      (.trap .poison)]

/-- The frame of a multiplication: `fn` forms element (i, n) of the result from the runs of A, B and C. -/
def State.fragMul (s : State) (op : Nat) (f : Fields) (shape : Nat) (slots : Chk) (xv xs : List Nat)
    (fn : Group → List Nat → List Nat → Nat → Nat → Nat → Nat) : Host.Outcome State Fault Refusal :=
  s.instr op f (s.g.fragPre (form op f) f slots xv xs) false (fun s' _ rows =>
    let q := fragAcc shape
    let a := rows.map Row.a
    let b := rows.map Row.b
    let c := rows.map Row.c
    s'.later f 8 (threads.map (fun t => (t, q.run (fun i n => fn s'.g a b i n (q.get c i n)) t))))

/-! ### The multiplications (R143 to R147) -/

/-- One chunk sum and one rounding (R63, R144). -/
def mmafElem (shape : Nat) (fa fb : Fmt) (a b : List Nat) (i n c : Nat) : Nat :=
  chunkAdd c ((List.range (fragA shape).cols).map (fun k =>
    (fa.decode ((fragA shape).get a i k)).mul (fb.decode ((fragB shape).get b n k))))

/-- MMAF on BF16 or FP16 operands. -/
def State.mmaf16 (s : State) (op : Nat) (f : Fields) (shape : Nat) : Host.Outcome State Fault Refusal :=
  let fm := fmtOfTy f.ty
  s.fragMul op f shape .ok [] [] (fun _ a b i n c => mmafElem shape fm fm a b i n c)

def execMmaf16x16x16 (f : Fields) (s : State) : Host.Outcome State Fault Refusal := s.mmaf16 0x180 f 0
def execMmaf32x8x16 (f : Fields) (s : State) : Host.Outcome State Fault Refusal := s.mmaf16 0x181 f 1
def execMmaf8x32x16 (f : Fields) (s : State) : Host.Outcome State Fault Refusal := s.mmaf16 0x182 f 2

/-- Floating format of a slot. -/
def slotFormat (w : Word) : Fmt := (fmtOf (slotFmt w)).getD fp32

def execMmaf16x16x32 (f : Fields) (s : State) : Host.Outcome State Fault Refusal :=
  let sa := s.slot f.ext.fslot
  let sb := s.slot f.ext.fslotb
  s.fragMul 0x183 f 3 ((slotCheck sa [3, 4] 0 (slotSkind sa == 0)).and (slotCheck sb [3, 4] 0 (slotSkind sb == 0))) [] []
    (fun _ a b i n c => mmafElem 3 (slotFormat sa) (slotFormat sb) a b i n c)

/-- Exact integer sum, wrapped or saturated (R147). -/
def mmaiElem (sat : Bool) (a b : List Nat) (i n c : Nat) : Nat :=
  let x : Int := toSigned 32 c + ((List.range 32).map (fun k =>
    toSigned 8 ((fragA 3).get a i k) * toSigned 8 ((fragB 3).get b n k))).sum
  if sat then wrap 32 (if x < -2 ^ 31 then -2 ^ 31 else if 2 ^ 31 - 1 < x then 2 ^ 31 - 1 else x) else wrap 32 x

def execMmai (f : Fields) (s : State) : Host.Outcome State Fault Refusal :=
  let sa := s.slot f.ext.fslot
  let sb := s.slot f.ext.fslotb
  s.fragMul 0x184 f 3 ((slotCheck sa [7] 0 true).and (slotCheck sb [7] 0 true)) [] []
    (fun _ a b i n c => mmaiElem (f.mod == 1) a b i n c)

/-- Scale factor of element (r, k) of an operand (R145). -/
def fragFactor (skind : Nat) (scales : List Nat) (tensor r k : Nat) : FV :=
  let v := scaleValue skind ((fragScale skind).get scales r (k / 2 ^ skindShift skind))
  if skind = 3 then v.mul (fp32.decode tensor) else v

def execMmaq (f : Fields) (s : State) : Host.Outcome State Fault Refusal :=
  let sa := s.slot f.ext.fslot
  let sb := s.slot f.ext.fslotb
  let tensor := slotSkind sa == 3 || slotSkind sb == 3
  let n1 := f.ext.num1.toNat
  let n2 := f.ext.num2.toNat
  let ts := if tensor then [opNum f.ext.xsub] else []
  s.fragMul 0x185 f 4
    (Chk.all [slotCheck sa [5, 6] 0 (slotSkind sa != 0), slotCheck sb [5, 6] 0 (slotSkind sb != 0),
      Chk.when (tensor == (f.ext.xsub == 0)) (.trap .illegal)]) [n1, n2] ts
    (fun g a b i n c =>
      let va := threads.map (g.vreg n1)
      let vb := threads.map (g.vreg n2)
      let t := if tensor then (g.sreg (opNum f.ext.xsub)).toNat else 0
      chunkAdd c ((List.range 64).map (fun k =>
        (((slotFormat sa).decode ((fragA 4).get a i k)).mul (fragFactor (slotSkind sa) va (t % 2 ^ 32) i k)).mul
          (((slotFormat sb).decode ((fragB 4).get b n k)).mul (fragFactor (slotSkind sb) vb (t / 2 ^ 32) n k)))))

/-! ### FRAGMOV (R148) -/

/-- Conversion of an accumulator element to the 16-bit type: no flush, infinity on overflow. -/
def Group.fragConv (g : Group) (f : Fields) (x : Nat) : Nat :=
  let r := match g.rounding f.rnd with | .rsr => .rne | r => r
  (g.convert (.fp (fmtOfTy f.ty)) r 0 1 (fp32.decode x)).getD 0

def execFragmov (f : Fields) (s : State) : Host.Outcome State Fault Refusal :=
  let fm := form 0x18A f
  s.instr 0x18A f (s.g.fragPre fm f .ok [] []) false (fun s' _ rows =>
    let acc := rows.map Row.a
    let g := s'.g
    let q : Frag := if f.mod = 2 then fragAcc 0 else fragA 0
    s'.later f fm.d.width (threads.map (fun t => (t, q.run (fun r c =>
      match f.mod.toNat with
      | 0 => g.fragConv f ((fragAcc 0).get acc r c)
      | 1 => g.fragConv f ((fragAcc 0).get acc c r)
      | _ => (fragAcc 0).get acc c r) t))))

/-! ### LDFRAG and STFRAG (R149 to R151) -/

/-- The fragment that shape, role and slot name. -/
def fragOf (x : Nat) (sw : Word) : Frag :=
  match x / 4 % 8 with
  | 0 => fragA (x / 32)
  | 1 => fragB (x / 32)
  | 2 => fragAcc (x / 32)
  | _ => fragScale (slotSkind sw)

/-- Coordinates of place `p` of thread `t`: the fragment's rows are columns of the matrix for `.b` (R150). -/
def fragCoord (x : Nat) (q : Frag) (a b t p : Nat) : List Int :=
  let r0 : Nat × Nat := (q.row t, q.col t p)
  let rc := if x / 4 % 8 = 1 then (r0.2, r0.1) else r0
  let c : Int := toSigned 32 a + (rc.2 : Nat)
  let r : Int := toSigned 32 (a / 2 ^ 32) + (rc.1 : Nat)
  let d := if bit x 0 then (r, c) else (c, r)
  [d.1, d.2, toSigned 32 b, toSigned 32 (b / 2 ^ 32), 0]

/-- Slot check of the scale roles. -/
def State.fragSlot (s : State) (f : Fields) : Chk :=
  let sw := s.slot f.ext.fslot
  if 3 ≤ f.ext.xsub.toNat / 4 % 8 then Chk.when (!(slotValid sw && slotSkind sw != 0)) (.trap .illegal) else .ok

/-- Every thread and place of a fragment, in thread order. -/
def Frag.places (q : Frag) : List (Nat × Nat) := threads.flatMap (fun t => (List.range q.per).map (fun p => (t, p)))

/-- Places of a fragment inside the entry's extents, with their offsets; the access key is `32 * place + thread`. -/
def State.fragAccs (s : State) (l : Layout) (x a b : Nat) (q : Frag) : List TAcc :=
  (q.places.filter (fun e => l.inside (fragCoord x q a b e.1 e.2))).map (fun e =>
    ⟨32 * e.2 + e.1, s.layoutOff l (l.addr (fragCoord x q a b e.1 e.2))⟩)

/-- Bytes that hold an element of the fragment; a 4-bit one lies in one byte. -/
def Frag.bytes (q : Frag) : Nat := if q.w = 4 then 1 else q.w / 8

/-- A 4-bit element lies in the upper half of its byte: at an odd coordinate of an entry of 4-bit elements (R38, R150; log 27). -/
def Frag.upper (q : Frag) (l : Layout) (odd : Bool) : Bool := q.w == 4 && l.bits == 4 && odd

/-- Write registers later, each with its own poison mark (R33, R436). -/
def Group.deferRegs (g : Group) (load : Bool) (l : List (Nat × Nat × Nat × Bool)) (level : Nat := 0) : Group :=
  g.await { load := load, v := l.map (fun e => (32 * e.1 + e.2.1, (.ofNat 32 e.2.2.1, e.2.2.2)))
            quads := (l.map (fun e => 8 * e.1 + e.2.1 / 4)).dedup, s := none, div := false, dz := false, pc := g.pc, seq := g.seq, skip := [], level := level }

/-- The fault that the object table or a cluster finds in an element's access: of these two instructions it is precise (R151, R235; log 27). -/
def State.fragCause (s : State) (sp : Space) (n : Nat) (write : Bool) (l : List TAcc) : Option Cause :=
  l.findSome? (fun a => match s.resolve sp a.off n false write write with | .async c => some c | _ => none)

/-- Registers of a run from their elements: `get` gives an element and its poison by thread and place. Bytes of a register that no element fills,
which R142 calls ignored for the scale roles, are written zero (log 27). -/
def Frag.regs (q : Frag) (code n : Nat) (get : Nat → Nat → Nat × Bool) : List (Nat × Nat × Nat × Bool) :=
  threads.flatMap (fun t => (List.range n).map (fun j =>
    let m := Nat.min q.per (32 / q.w)
    let es := (List.range m).map (fun h => get t (j * m + h))
    (code + j, t, (es.zipIdx.map (fun e => e.1.1 % 2 ^ q.w * 2 ^ (q.w * e.2))).sum, es.any Prod.snd)))

def execLdfrag (f : Fields) (s : State) : Host.Outcome State Fault Refusal :=
  let x := f.ext.xsub.toNat
  let fm := form 0x188 f
  s.instr 0x188 f (s.g.fragPre fm f (s.fragSlot f) [] []) false (fun s' _ _ =>
    match s'.layout f.ext.num1.toNat with
    | none => s.trap .capbound f.len
    | some l =>
      let q := fragOf x (s'.slot f.ext.fslot)
      let accs := s'.fragAccs l x (s'.g.uval f f.a) (s'.g.uval f f.b) q
      let sp := s'.layoutSpace l
      s.unless (s'.layoutCheck l sp rRead q.bytes false accs) f.len
        (match sp with
         | none => s
         | some sp =>
           match s'.fragCause sp q.bytes false accs with
           | some c => s.trap c f.len
           | none => s.loadWith s' sp q.bytes accs (fun s vals level =>
             let odd (t p : Nat) : Bool := (fragCoord x q (s'.g.uval f f.a) (s'.g.uval f f.b) t p).headD 0 % 2 == 1
             let get (t p : Nat) : Nat × Bool :=
               match vals.find? (fun v => v.1 == 32 * p + t) with
               | some v => (if q.upper l (odd t p) then v.2.1 / 16 else v.2.1, v.2.2)
               | none => (l.pad, false)
             s.done (s.g.deferRegs true (q.regs f.d.toNat fm.d.width get) level) f.len)))

def execStfrag (f : Fields) (s : State) : Host.Outcome State Fault Refusal :=
  let x := f.ext.xsub.toNat
  let fm := form 0x189 f
  s.instr 0x189 f (s.g.fragPre fm f (s.fragSlot f) [] []) true (fun s' _ rows =>
    match s'.layout f.ext.num1.toNat with
    | none => s.trap .capbound f.len
    | some l =>
      let q := fragOf x (s'.slot f.ext.fslot)
      let accs := s'.fragAccs l x (s'.g.uval f f.a) (s'.g.uval f f.b) q
      let run := rows.map Row.c
      let puts := accs.map (fun (a : TAcc) =>
        let t := a.t % 32
        let p := a.t / 32
        let v := element q.w p (run.getD t 0)
        let poison := Cells.get false s'.g.vPoison (32 * (f.c.toNat + p * q.w / 32) + t)
        let hi := (fragCoord x q (s'.g.uval f f.a) (s'.g.uval f f.b) t p).headD 0 % 2 == 1
        if q.w = 4 then (⟨a.off, [], some (if q.upper l hi then 9 else 8, .n32, v), poison⟩ : Put) else ⟨a.off, toLE q.bytes v, none, poison⟩)
      let sp := s'.layoutSpace l
      s.unless (s'.layoutCheck l sp rWrite q.bytes false accs) f.len
        (match sp with
         | none => s
         | some sp =>
           match s'.fragCause sp q.bytes true accs with
           | some c => s.trap c f.len
           | none => s.stored s' f sp ⟨false, false, false, s.g.entry⟩ q.bytes false puts))

end Sys2Proof.Machine
end

