-- ==== Sys2Proof/Machine/Tile.lean ====
section
/-! DEFINITION. The tile engine: command rings, MMA, EPI and SCALE commands, and the tile instructions (R263 to R288, R437). -/

namespace Sys2Proof.Machine

/-! ### Command images (R267, R268, R279, R281) -/

/-- Operand descriptor of an MMA command. -/
structure OpDesc where
  le : Nat
  h0 : Nat
  rs : Nat
  first : Nat
  stride : Nat
  ksl : Nat
  row0 : Nat
  deriving DecidableEq, Repr

def opDesc (i : BitVec 512) (at_ : Nat) : OpDesc :=
  ⟨imgBytes i at_ 1, imgBytes i (at_ + 1) 1, imgBytes i (at_ + 2) 1, imgBytes i (at_ + 3) 1, imgBytes i (at_ + 8) 2, imgBytes i (at_ + 10) 2,
    imgBytes i (at_ + 12) 4⟩

def aDesc (i : BitVec 512) : OpDesc := opDesc i 16
def bDesc (i : BitVec 512) : OpDesc := opDesc i 32
def cmdTile (i : BitVec 512) : Nat := imgBytes i 8 1 % 4
def cmdZero (i : BitVec 512) : Bool := bit (imgBytes i 8 1) 2
def cmdApply (i : BitVec 512) : Bool := bit (imgBytes i 8 1) 2
def cmdStore (i : BitVec 512) : Bool := bit (imgBytes i 8 1) 3
def cmdM (i : BitVec 512) : Nat := 16 * (imgBytes i 9 1 % 8 + 1)
def cmdN (i : BitVec 512) : Nat := 16 * (imgBytes i 10 1 % 8 + 1)
def cmdSlotA (i : BitVec 512) : Nat := imgBytes i 11 1 % 8
def cmdSlotB (i : BitVec 512) : Nat := imgBytes i 11 1 / 8 % 8
def cmdKch (i : BitVec 512) : Nat := imgBytes i 12 2
def cmdKind (i : BitVec 512) : Nat := imgBytes i 0 1
def cmdSeq (i : BitVec 512) : Word := .ofNat 32 (imgBytes i 4 4)

/-- Bytes 9 to 11 keep their reserved bits zero. -/
def dimsOk (i : BitVec 512) : Bool := imgBytes i 9 1 < 8 && imgBytes i 10 1 < 8 && imgBytes i 11 1 < 64

/-- Slot word of a launch. -/
def State.slotIn (s : State) (lid n : Nat) : Word := (s.launch lid).lrec.slots.getD n 0

/-- k-chunk of a pair of slots (R62). -/
def pairChunk (wa wb : Word) : Nat := Nat.min (chunkOf (slotFmt wa)) (chunkOf (slotFmt wb))

/-! ### Rings and their bytes (R265) -/

def Workgroup.widx (w : Workgroup) (r : Ring) : Nat := w.peek r.base 4
def Workgroup.ridx (w : Workgroup) (r : Ring) : Nat := w.peek (r.base + 4) 4

/-- Commands appended and not retired. -/
def Workgroup.backlog (w : Workgroup) (r : Ring) : Nat := (w.widx r + 2 ^ 32 - w.ridx r) % 2 ^ 32

/-- Image of the `i`-th unretired command. -/
def Workgroup.command (w : Workgroup) (r : Ring) (i : Nat) : BitVec 512 :=
  .ofNat 512 (w.peek (r.base + 256 + 64 * ((w.ridx r + i) % r.n)) 64)

/-- SEQST of a running command (R277). -/
def seqst : Option RunCmd → Nat
  | some c => c.chdone % 2 ^ 32 + 2 ^ 32 * (c.oslot % 2 ^ 16) + 2 ^ 64 * c.holdA.toNat + 2 ^ 65 * c.holdB.toNat
  | none => 0

/-- Put a ring back, with its sequencer state in the header. -/
def Workgroup.setRing (w : Workgroup) (r : Ring) : Workgroup := { w with ring := some r }.poke (r.base + 16) 32 (seqst r.run)

/-- Rings and tiles of one core, and of one engine (R263). -/
def maxRings : Nat := 16
def maxTiles : Nat := 4

/-- A workgroup's ring stands still: its context is being saved and every group of it is, or it is on no core (R167, R287). An eviction or a
HANDLE trap leaves the workgroup on its core. -/
def State.parked (s : State) (w : Nat) : Bool :=
  let wg := s.wgOf w
  wg.core == noCore || ((s.ctx wg.ctx).state != .running && !wg.members.isEmpty &&
    wg.members.all (fun gid => match (s.grp gid).status with | .saved _ _ => true | _ => false))

/-- Rings claimed by the workgroups on a core (R263). -/
def State.ringsOn (s : State) (core : Nat) : List (Nat × Ring) :=
  s.wgs.filterMap (fun e => if e.2.live && e.2.core == core then e.2.ring.map (fun r => (e.1, r)) else none)

/-! ### Appending a command (R264, R266, R267, R282) -/

/-- Append a command of a kind for the current group. -/
def State.append (s0 s : State) (f : Fields) (w : Nat) (r : Ring) (kind : Nat) (i : BitVec 512) (capA capB : Cap) : State :=
  let g := s.g
  let wg := s.wgOf w
  if r.n ≤ wg.backlog r || 255 ≤ g.count 1 then s0.stall .waitc
  else
    s0.releaseWait true
      (let (op, s) := s.opStart s.cur 1
       let wg := s.wgOf w
       let at_ := wg.widx r
       let seq := g.seq + 1
       let img := i.toNat + kind + 2 ^ 32 * seq.toNat
       let wg := (wg.poke (r.base + 256 + 64 * (at_ % r.n)) 64 img).poke r.base 4 ((at_ + 1) % 2 ^ 32)
       let wg := { wg with ring := some { r with owners := r.owners ++ [⟨at_, s.cur, op, g.pc, seq, capA, capB⟩] } }
       let s := s.setWg w wg
       s.done { s.g with seq := seq } f.len)

/-- The frame of TMMA, TSCALE and TEPI: a ring must be held. -/
def State.tileCmd (s : State) (op : Nat) (f : Fields) (k : State → Nat → Ring → BitVec 512 → State) : Host.Outcome State Fault Refusal :=
  s.uniform op f (fun s' =>
    match s'.g.wg with
    | none => s.trap .capinvalid f.len
    | some w =>
      match (s'.wgOf w).ring with
      | none => s.trap .capinvalid f.len
      | some r => k s' w r (s'.g.image f.a))

/-! ### The checks of TMMA (R270) -/

/-- The entry's space is an undeclared tile register. -/
def State.undeclared (s : State) (lid : Nat) (l : Layout) : Bool := l.space == 2 && ((s.launch lid).lrec.tileAt l.tile).2 == 0

/-- End of the bytes of an entry in two dimensions, relative to its space. -/
def Layout.spanEnd (l : Layout) : Nat := l.base + (l.ext.getD 1 0 - 1) * l.strides.getD 0 0 + (l.ext.getD 0 0 * l.bits + 7) / 8

/-- Size of the window or tile register that an entry names. -/
def State.spaceSize (s : State) (w : Nat) (l : Layout) : Nat :=
  if l.space = 2 then ((s.launch (s.wgOf w).lid).lrec.tileAt l.tile).2 else (s.wgOf w).size

/-- Step 6 for an operand. -/
def State.operandOk (s : State) (w : Nat) (l : Layout) (d : OpDesc) (fmt kc : Nat) : Bool :=
  l.space != 0 && l.bits == fmtBits fmt && l.ext.getD 0 0 == d.ksl * kc && !s.undeclared (s.wgOf w).lid l &&
    { l with base := l.base + (d.rs - 1) * d.stride * 4096 }.spanEnd ≤ s.spaceSize w l

/-- Formats of MMA operands (R270 step 3). -/
def mmaFmt (w : Word) : Bool := slotValid w && between 1 6 (slotFmt w)
def wide (w : Word) : Bool := slotFmt w ≤ 2

/-- Step 7: a scale entry in an object. -/
def Group.scaleCap (g : Group) (l : Layout) : Chk :=
  if l.space != 0 then .ok
  else
    let c := g.kreg l.cap
    if Cells.get false g.miscPoison (miscKey 3 l.cap) then .trap .poison
    else if !c.tag then .trap .capinvalid else Chk.when (!c.has rRead) (.trap .caprights)

/-- Checks 2 to 7 of R270 in order. -/
def State.mmaCheck (s : State) (w : Nat) (r : Ring) (i : BitVec 512) : Chk :=
  let wg := s.wgOf w
  let lid := wg.lid
  let a := aDesc i
  let b := bDesc i
  let wa := s.slotIn lid (cmdSlotA i)
  let wb := s.slotIn lid (cmdSlotB i)
  let kc := pairChunk wa wb
  let lcount := (s.launch lid).lrec.lcount
  let scales := [wa, wb].filter (fun x => slotSkind x != 0)
  let entry (n : Nat) : Layout := (s.layoutIn lid n).getD (Layout.ofImage 0)
  Chk.all [
    Chk.when (imgBytes i 0 8 != 0 || 8 ≤ imgBytes i 8 1 || !dimsOk i || imgBytes i 14 2 != 0 || imgBytes i 48 16 != 0 || imgBytes i 20 4 != 0 ||
      imgBytes i 36 4 != 0 || cmdKch i == 0 || a.ksl == 0 || b.ksl == 0 || !between 1 16 a.rs || !between 1 16 b.rs || a.rs ≤ a.first ||
      b.rs ≤ b.first || a.ksl != b.ksl || cmdKch i % a.ksl != 0) (.trap .illegal),
    Chk.when (!mmaFmt wa || !mmaFmt wb || wide wa != wide wb) (.trap .illegal),
    Chk.when ((slotBand wa && a.row0 % 64 != 0) || (slotBand wb && b.row0 % 64 != 0)) (.trap .illegal),
    Chk.when (r.tiles ≤ cmdTile i || wg.nHandles < a.h0 + a.rs || wg.nHandles < b.h0 + b.rs || lcount ≤ a.le || lcount ≤ b.le ||
      scales.any (fun x => lcount ≤ slotLayout x)) (.trap .capbound),
    Chk.when (!s.operandOk w (entry a.le) a (slotFmt wa) kc || !s.operandOk w (entry b.le) b (slotFmt wb) kc ||
      scales.any (fun x => s.undeclared lid (entry (slotLayout x)) || (entry (slotLayout x)).bits != 8)) (.trap .capbound),
    Chk.all (scales.map (fun x => s.g.scaleCap (entry (slotLayout x))))]

/-- Capability of a slot's scale tensor. -/
def State.scaleOf (s : State) (lid : Nat) (x : Word) : Cap :=
  if slotSkind x = 0 then Cap.null
  else match s.layoutIn lid (slotLayout x) with | some l => if l.space = 0 then s.g.kreg l.cap else Cap.null | none => Cap.null

def execTmma (f : Fields) (s : State) : Host.Outcome State Fault Refusal :=
  s.tileCmd 0x1A0 f (fun s' w r i =>
    let lid := (s'.wgOf w).lid
    s.unless (s'.mmaCheck w r i) f.len
      (s.append s' f w r 1 i (s'.scaleOf lid (s'.slotIn lid (cmdSlotA i))) (s'.scaleOf lid (s'.slotIn lid (cmdSlotB i)))))

def execTscale (f : Fields) (s : State) : Host.Outcome State Fault Refusal :=
  s.tileCmd 0x1A2 f (fun s' w r i =>
    if imgBytes i 0 8 != 0 || 4 ≤ imgBytes i 8 1 || imgBytes i 9 7 != 0 || imgBytes i 28 4 != 0 || imgBytes i 44 20 != 0 then s.trap .illegal f.len
    else s.append s' f w r 2 i Cap.null Cap.null)

/-- Fields of an EPI command's store. -/
def epiLe (i : BitVec 512) : Nat := imgBytes i 21 1
def epiHandle (i : BitVec 512) : Nat := imgBytes i 22 1
def epiTarget (i : BitVec 512) : Nat := imgBytes i 20 1 / 32
def epiOvf (i : BitVec 512) : Nat := imgBytes i 20 1 / 8 % 4
def epiRnd (i : BitVec 512) : Nat := imgBytes i 20 1 % 8

/-- The checks of TEPI (R279). -/
def State.epiCheck (s : State) (w : Nat) (r : Ring) (i : BitVec 512) : Chk :=
  let wg := s.wgOf w
  let lid := wg.lid
  let st := cmdStore i
  Chk.all [
    Chk.when (imgBytes i 0 8 != 0 || 16 ≤ imgBytes i 8 1 || !dimsOk i || imgBytes i 23 1 != 0 || imgBytes i 32 32 != 0) (.trap .illegal),
    Chk.when (st && (3 ≤ epiTarget i || !between 1 5 (epiRnd i) || !ovfOkFmt (epiTarget i) (epiOvf i))) (.trap .illegal),
    Chk.when (cmdApply i && (!slotValid (s.slotIn lid (cmdSlotA i)) || !slotValid (s.slotIn lid (cmdSlotB i)))) (.trap .illegal),
    Chk.when (r.tiles ≤ cmdTile i) (.trap .capbound),
    Chk.when st (match s.layoutIn lid (epiLe i) with
      | none => .trap .capbound
      | some l => Chk.when ((epiHandle i != 0xFF && wg.nHandles ≤ epiHandle i) || l.space == 0 || s.undeclared lid l ||
          l.bits != fmtBits (epiTarget i)) (.trap .capbound))]

def execTepi (f : Fields) (s : State) : Host.Outcome State Fault Refusal :=
  s.tileCmd 0x1A5 f (fun s' w r i => s.unless (s'.epiCheck w r i) f.len (s.append s' f w r 3 i Cap.null Cap.null))

/-! ### Accumulator memory (R263, R284) -/

def accKey (tile i j : Nat) : Nat := tile * 16384 + i * 128 + j
def Workgroup.accAt (w : Workgroup) (tile i j : Nat) : Word := Cells.get 0 w.acc (accKey tile i j)
def Workgroup.accBad (w : Workgroup) (tile i j : Nat) : Bool := Cells.get false w.accPoison (accKey tile i j)

/-- Write elements of a tile; the poison marks are given. -/
def Workgroup.setAcc (w : Workgroup) (tile : Nat) (l : List ((Nat × Nat) × Nat × Bool)) : Workgroup :=
  { w with acc := Cells.setAll 0 w.acc (l.map (fun (e : (Nat × Nat) × Nat × Bool) => (accKey tile e.1.1 e.1.2, .ofNat 32 e.2.1)))
           accPoison := Cells.setAll false w.accPoison (l.map (fun (e : (Nat × Nat) × Nat × Bool) => (accKey tile e.1.1 e.1.2, e.2.2))) }

/-- Every element of the region of a command. -/
def region (m n : Nat) : List (Nat × Nat) := (List.range m).flatMap (fun i => (List.range n).map (fun j => (i, j)))

/-! ### Reads of the engine (R269, R274) -/

/-- What reading an element comes to: its value, an error status, or a page fault of a scale read. -/
inductive TileRead where
  | val (v : FV)
  | status (n : Nat)
  | page (va : Nat)

/-- Bits of an element at coordinates of an entry whose space is the window or a tile register, with its poison mark. -/
def State.tileElem (s : State) (w : Nat) (l : Layout) (c : List Int) : Nat × Bool :=
  if !l.inside c then (l.pad % 2 ^ l.bits, false)
  else
    let base := if l.space = 2 then ((s.launch (s.wgOf w).lid).lrec.tileAt l.tile).1 else 0
    let n := l.bytes
    let ls := (List.range n).map (fun i => Loc.vault w (base + l.addr c + i))
    let v := s.readNat ls
    (if l.bits = 4 then (if (c.headD 0) % 2 = 1 then v / 16 else v % 16) else v, ls.any s.poisonAt)

/-- The scale code at a block and row of a slot's scale tensor. -/
def State.scaleCode (s : State) (w : Nat) (sw : Word) (cap : Cap) (blk row : Int) : Except TileRead Nat :=
  let wg := s.wgOf w
  match s.layoutIn wg.lid (slotLayout sw) with
  | none => .error (.status 6)
  | some l =>
    let c : List Int := [blk, row, 0, 0, 0]
    if l.space != 0 then
      if l.inside c && s.spaceSize w l < l.addr c + l.bytes then .error (.status 6)
      else let e := s.tileElem w l c; if e.2 then .error (.status 4) else .ok e.1
    else if !l.inside c then .ok (l.pad % 256)
    else
      match s.engineRes wg.ctx cap none (l.addr c) 1 false with
      | .async .capbound => .error (.status 6)
      | .async .poison => .error (.status 4)
      | .async _ => .error (.status 5)
      | .fault va => .error (.page va)
      | .ok p =>
        let locs := p.map Prod.snd
        if locs.any s.poisonAt then .error (.status 4) else .ok (s.readNat locs)

/-- Scale factor of an element of an operand (R274). -/
def State.scaleFactor (s : State) (w : Nat) (sw : Word) (sr : ScaleRegs) (cap : Cap) (row kk : Nat) : TileRead :=
  if slotSkind sw = 0 then .val (.fin false 1 0)
  else
    match s.scaleCode w sw cap (sr.basek + ((kk / 2 ^ slotShift sw : Nat) : Int)) (sr.baser + (row : Int)) with
    | .error e => e
    | .ok c =>
      let v := scaleValue (slotSkind sw) c
      .val (if slotSkind sw = 3 then v.mul (fp32.decode sr.t.toNat) else v)

/-- One scaled element of an operand: `k` within the operand slot, `kk` from the command's first k. -/
def State.tileOperand (s : State) (w : Nat) (l : Layout) (sw : Word) (sr : ScaleRegs) (cap : Cap) (row k kk : Nat) : TileRead :=
  let e := s.tileElem w l [(k : Int), (row : Int), 0, 0, 0]
  if e.2 then .status 4
  else match s.scaleFactor w sw sr cap row kk with
    | .val f => .val ((slotFormat sw).decode e.1 |>.mul f)
    | x => x

/-- All values, or the first page fault, or the first error. -/
def readAllElems (l : List TileRead) : Except TileRead (List FV) :=
  match l.find? (fun x => match x with | .page _ => true | _ => false) with
  | some e => .error e
  | none =>
    match l.find? (fun x => match x with | .status _ => true | _ => false) with
    | some e => .error e
    | none => .ok (l.filterMap (fun x => match x with | .val v => some v | _ => none))

/-! ### Serving rings (R276) -/

/-- The operand slot's handles of a command. -/
def slotHandles (i : BitVec 512) (j : Nat) : Nat × Nat :=
  let a := aDesc i
  let b := bDesc i
  (a.h0 + (a.first + j) % a.rs, b.h0 + (b.first + j) % b.rs)

def Workgroup.bothIn (w : Workgroup) (h : Nat × Nat) (st : Nat) : Bool := (w.handle h.1).state == st && (w.handle h.2).state == st

def Workgroup.moveBoth (w : Workgroup) (h : Nat × Nat) (st : Nat) : Workgroup :=
  let w := w.setHandle h.1 { w.handle h.1 with state := st }
  w.setHandle h.2 { w.handle h.2 with state := st }

/-- The next command can start: an EPI command that names a handle waits until it is FILLING (R203). -/
def Workgroup.canStart (w : Workgroup) (r : Ring) : Bool :=
  let i := w.command r 0
  w.backlog r != 0 && (cmdKind i != 3 || !cmdStore i || epiHandle i == 0xFF || (w.handle (epiHandle i)).state == hFilling)

/-- A ring is ready (R276). -/
def Workgroup.ringReady (w : Workgroup) (r : Ring) : Bool :=
  match r.run with
  | none => w.canStart r
  | some c => !c.finished && c.paused.isNone && (c.holdA || w.bothIn (slotHandles (w.command r 0) c.oslot) hFull)

/-- The request to be served next is a SCALEON of a core: new MMA commands wait there (R439). -/
def State.scaleonHeld (s : State) (core : Nat) : Bool :=
  match s.inputs.find? (fun i => !fromHost i && !inputPasses i) with
  | some (.scaleon p) => s.logicalCore p == some core
  | _ => false

/-- A ring whose next command is an MMA command that a SCALEON keeps from starting. -/
def State.ringKept (s : State) (core w : Nat) (r : Ring) : Bool :=
  r.run.isNone && cmdKind ((s.wgOf w).command r 0) == 1 && s.scaleonHeld core

/-- Numbers of a core's rings that are ready and may run. -/
def State.readyRings (s : State) (core : Nat) : List Nat :=
  ((s.ringsOn core).filter (fun e => !s.parked e.1 && (s.wgOf e.1).ringReady e.2 && !s.ringKept core e.1 e.2)).map (fun e => e.2.number)

/-- Mark that the engine stands at an interruption point after serving a ring. -/
def State.atPoint (s : State) (core n : Nat) : State := s.setCore core { s.core core with served := n + 16 }

/-- The order in which the engine looks for a ready ring: after the one served last, or from 0 where it has been idle. -/
def ringOrder (served : Nat) : List Nat :=
  if 32 ≤ served then List.range 16 else (List.range 16).map (fun i => (served % 16 + 1 + i) % 16)

def execInterruptionPoint (core : Nat) (s : State) : Host.Outcome State Fault Refusal :=
  let c := s.core core
  let ready := s.readyRings core
  if c.served < 16 && ready.contains (c.served % 16) then .next s
  else
    match (ringOrder c.served).find? ready.contains with
    | some n => .next (s.setCore core { c with served := n })
    | none => .next s

/-- After every step: an engine with no ready ring is idle, and an idle one serves the first ring that becomes ready. -/
def State.serveIdle (s : State) (core : Nat) : State :=
  let c := s.core core
  let ready := s.readyRings core
  if ready.isEmpty then s.setCore core { c with served := c.served % 16 + 32 }
  else if c.served < 32 then s
  else s.setCore core { c with served := ((ringOrder c.served).find? ready.contains).getD c.served }

/-- Act on the ring that the engine of its core serves. -/
def State.onRing (s : State) (w : Nat) (k : Workgroup → Ring → State) : State :=
  let wg := s.wgOf w
  match wg.ring with
  | some r => if wg.live && !s.parked w && (s.core wg.core).served == r.number then k wg r else s
  | none => s

/-- Side data of a ring's oldest command. -/
def Ring.owner (r : Ring) (w : Workgroup) : CmdOwner := (r.owners.find? (fun o => o.index == w.ridx r)).getD ⟨0, 0, 0, 0, 0, Cap.null, Cap.null⟩

/-- The command needs a scale that the disabled cache does not give (R275). -/
def State.needsCache (s : State) (w : Workgroup) (i : BitVec 512) : Bool :=
  (s.core w.core).scaleOff && [cmdSlotA i, cmdSlotB i].any (fun n => let k := slotSkind (s.slotIn w.lid n); k == 1 || k == 2)

def execMmaCommandStart (w : Nat) (s : State) : Host.Outcome State Fault Refusal :=
  .next (s.onRing w (fun wg r =>
    let i := wg.command r 0
    if r.run.isSome || wg.backlog r = 0 || cmdKind i != 1 then s
    else s.setWg w (wg.setRing { r with run := some ⟨0, 0, false, false, if s.needsCache wg i then 2 else 0, false, none⟩ })))

/-- Advance the scale registers of an operand (R274). -/
def ScaleRegs.advance (x : ScaleRegs) (sw : Word) (k : Nat) : ScaleRegs :=
  if slotSkind sw = 0 then x else { x with basek := toSigned 32 (wrap 32 (x.basek + ((k / 2 ^ slotShift sw : Nat) : Int))) }

/-- Poison a command's region (R437). -/
def Workgroup.poisonRegion (w : Workgroup) (i : BitVec 512) : Workgroup :=
  w.setAcc (cmdTile i) ((region (cmdM i) (cmdN i)).map (fun e => (e, (w.accAt (cmdTile i) e.1 e.2).toNat, true)))

/-- Clear a command's region to +0 before the first chunk of a command with ZERO. -/
def Workgroup.zeroRegion (w : Workgroup) (i : BitVec 512) : Workgroup :=
  w.setAcc (cmdTile i) ((region (cmdM i) (cmdN i)).map (fun e => (e, 0, false)))

/-- Values of a chunk's operand: one row of the chunk after another. -/
def State.chunkRows (s : State) (w : Nat) (i : BitVec 512) (isB : Bool) (sr : ScaleRegs) (cap : Cap) (j chunk kc : Nat) : List (List TileRead) :=
  let wg := s.wgOf w
  let d := if isB then bDesc i else aDesc i
  let sw := s.slotIn wg.lid (if isB then cmdSlotB i else cmdSlotA i)
  match s.layoutIn wg.lid d.le with
  | none => []
  | some l =>
    let l := { l with base := l.base + (d.first + j) % d.rs * d.stride * 4096 }
    (List.range (if isB then cmdN i else cmdM i)).map (fun r =>
      (List.range kc).map (fun k => s.tileOperand w l sw sr cap (d.row0 + r) (chunk % d.ksl * kc + k) (chunk * kc + k)))

/-- What one chunk comes to: the new tile, an error status, or a page fault. -/
inductive ChunkRes where
  | ok (w : Workgroup)
  | bad (w : Workgroup) (status : Nat)
  | page (va : Nat)

/-- One chunk of an MMA command (R271, R280). -/
def State.mmaChunk (s : State) (w : Nat) (r : Ring) (i : BitVec 512) (c : RunCmd) (kc : Nat) : ChunkRes :=
  let wg := s.wgOf w
  let o := r.owner wg
  let ra := s.chunkRows w i false r.a o.capA c.oslot c.chdone kc
  let rb := s.chunkRows w i true r.b o.capB c.oslot c.chdone kc
  let wg0 := if cmdZero i && c.chdone = 0 then wg.zeroRegion i else wg
  match readAllElems (ra.flatten ++ rb.flatten) with
  | .error (.page va) => .page va
  | .error (.status n) => .bad (if n = 4 then wg0.poisonRegion i else wg0) n
  | .error (.val _) => .ok wg0
  | .ok _ =>
    let vals (l : List TileRead) : List FV := l.filterMap (fun x => match x with | .val v => some v | _ => none)
    let a := ra.map vals
    let b := rb.map vals
    .ok (wg0.setAcc (cmdTile i) ((region (cmdM i) (cmdN i)).map (fun e =>
      (e, chunkAdd (wg0.accAt (cmdTile i) e.1 e.2).toNat (List.zipWith FV.mul (a.getD e.1 []) (b.getD e.2 [])), wg0.accBad (cmdTile i) e.1 e.2))))

/-- Run the chunks of the current operand slot to the next interruption point: the end of a 64th k-step or of the slot (R276). -/
def State.runChunks (s : State) (w : Nat) (i : BitVec 512) (kc : Nat) : Nat → State
  | 0 => s
  | n + 1 =>
    let wg := s.wgOf w
    match wg.ring with
    | none => s
    | some r =>
      match r.run with
      | none => s
      | some c =>
        let next (wg : Workgroup) (c : RunCmd) : State :=
          let c := { c with chdone := c.chdone + 1 }
          let ended := c.chdone % (aDesc i).ksl == 0
          let s := s.setWg w (wg.setRing { r with run := some c })
          if ended || c.chdone * kc % 64 = 0 then s else State.runChunks s w i kc n
        if c.status != 0 then next wg c
        else
          match s.mmaChunk w r i c kc with
          | .ok wg => next wg c
          | .bad wg st => next wg { c with status := st }
          | .page va =>
            let o := r.owner wg
            let s := s.setWg w (wg.setRing { r with run := some { c with paused := some va } })
            { s with walks := s.walks ++ [⟨s.dieOf wg.core, s.nextId, wg.ctx, va, false, 3, o.gid, o.pc, o.seq⟩], nextId := s.nextId + 1 }

/-- The end of an operand slot: its handles return to FREE; after the last one the command's last effect is done. -/
def State.slotEnd (s : State) (w : Nat) (i : BitVec 512) (kc : Nat) : State :=
  let wg := s.wgOf w
  match wg.ring with
  | none => s
  | some r =>
    match r.run with
    | none => s
    | some c =>
      if c.paused.isSome || c.chdone != (c.oslot + 1) * (aDesc i).ksl then s
      else
        let wg := wg.moveBoth (slotHandles i c.oslot) hFree
        let fin := c.chdone == cmdKch i
        let c := { c with oslot := c.oslot + 1, holdA := false, holdB := false, finished := fin }
        let k := cmdKch i * kc
        let r := if fin then { r with a := r.a.advance (s.slotIn wg.lid (cmdSlotA i)) k, b := r.b.advance (s.slotIn wg.lid (cmdSlotB i)) k } else r
        s.setWg w (wg.setRing { r with run := some c })

def execMmaOperandSlot (w : Nat) (s : State) : Host.Outcome State Fault Refusal :=
  .next (s.onRing w (fun wg r =>
    let i := wg.command r 0
    match r.run with
    | none => s
    | some c =>
      if c.finished || c.paused.isSome || cmdKind i != 1 then s
      else
        let h := slotHandles i c.oslot
        if !c.holdA && !wg.bothIn h hFull then s
        else
          let kc := pairChunk (s.slotIn wg.lid (cmdSlotA i)) (s.slotIn wg.lid (cmdSlotB i))
          let wg := if c.holdA then wg else wg.moveBoth h hDraining
          let st := if c.status = 0 && s.needsCache wg i then 2 else c.status
          let s := s.setWg w (wg.setRing { r with run := some { c with holdA := true, holdB := true, status := st } })
          ((s.runChunks w i kc (64 / kc)).slotEnd w i kc).atPoint wg.core r.number))

/-! ### EPI and SCALE commands (R279, R281) -/

/-- BF16 band scale of an image at a byte. -/
def bandScale (i : BitVec 512) (at_ : Nat) : FV := bf16.decode (imgBytes i at_ 2)

/-- Band factor of an element. -/
def State.bandFactor (s : State) (lid : Nat) (i : BitVec 512) (e : Nat × Nat) : FV :=
  let one : FV := .fin false 1 0
  let ba := if slotBand (s.slotIn lid (cmdSlotA i)) then bandScale i (if e.1 < 64 then 12 else 14) else one
  let bb := if slotBand (s.slotIn lid (cmdSlotB i)) then bandScale i (if e.2 < 64 then 16 else 18) else one
  ba.mul bb

/-- APPLY of an EPI command (R64). -/
def State.epiApply (s : State) (w : Nat) (i : BitVec 512) : Workgroup :=
  let wg := s.wgOf w
  let t := cmdTile i
  if !cmdApply i then wg
  else wg.setAcc t ((region (cmdM i) (cmdN i)).map (fun e =>
    (e, fp32.encode .rne 0 ((fp32.decode (wg.accAt t e.1 e.2).toNat).mul (s.bandFactor wg.lid i e)), wg.accBad t e.1 e.2)))

/-- Conversion of an element for the store: MODE does not apply to the engine. -/
def epiConv (i : BitVec 512) (x : Word) : Option Nat :=
  Group.blank.convert (.fp ((fmtOf (epiTarget i)).getD fp32)) (rndCode (epiRnd i)) 0 (epiOvf i) (fp32.decode x.toNat)

/-- STORE of an EPI command: its status and the state after it. -/
def State.epiStore (s : State) (w : Nat) (i : BitVec 512) : Nat × State :=
  let wg := s.wgOf w
  let t := cmdTile i
  let es := region (cmdM i) (cmdN i)
  if es.any (fun e => wg.accBad t e.1 e.2) then (4, s)
  else
    let vals := es.map (fun e => (e, epiConv i (wg.accAt t e.1 e.2)))
    if vals.any (fun v => v.2.isNone) then (3, s)
    else
      match s.layoutIn wg.lid (epiLe i) with
      | none => (6, s)
      | some l =>
        let coord (e : Nat × Nat) : List Int := [((imgBytes i 28 4 + e.2 : Nat) : Int), ((imgBytes i 24 4 + e.1 : Nat) : Int), 0, 0, 0]
        let live := vals.filter (fun v => l.inside (coord v.1))
        let lim := s.spaceSize w l
        if live.any (fun v => lim < l.addr (coord v.1) + l.bytes) then (6, s)
        else
          let base := if l.space = 2 then ((s.launch wg.lid).lrec.tileAt l.tile).1 else 0
          let bytes := live.flatMap (fun v => (toLE l.bytes (v.2.getD 0)).zipIdx.map (fun b => (Loc.vault w (base + l.addr (coord v.1) + b.2), b.1)))
          let s := (s.store bytes false).setFull (bytes.map Prod.fst)
          let h := epiHandle i
          (0, if h = 0xFF then s else (s.handleMove w h hFilling hFull).getD s)

/-- Start and finish a command of a kind other than MMA; it retires afterwards. -/
def State.runOther (s : State) (w kind : Nat) (k : Ring → BitVec 512 → Nat × State) : State :=
  s.onRing w (fun wg r =>
    let i := wg.command r 0
    if r.run.isSome || !wg.canStart r || cmdKind i != kind then s
    else
      let (st, s) := k r i
      let wg := s.wgOf w
      match wg.ring with
      | none => s
      | some r => (s.setWg w (wg.setRing { r with run := some ⟨0, 0, false, false, st, true, none⟩ })).atPoint wg.core r.number)

def execEpiCommand (w : Nat) (s : State) : Host.Outcome State Fault Refusal :=
  .next (s.runOther w 3 (fun _ i =>
    let s := s.setWg w (s.epiApply w i)
    if cmdStore i then s.epiStore w i else (0, s)))

/-- Scale registers of an operand from a SCALE command. -/
def scaleRegsOf (i : BitVec 512) (at_ : Nat) : ScaleRegs :=
  ⟨toSigned 32 (imgBytes i at_ 4), toSigned 32 (imgBytes i (at_ + 4) 4), .ofNat 32 (imgBytes i (at_ + 8) 4)⟩

def execScaleCommand (w : Nat) (s : State) : Host.Outcome State Fault Refusal :=
  .next (s.runOther w 2 (fun r i =>
    let set := imgBytes i 8 1
    let r := { r with a := if bit set 0 then scaleRegsOf i 16 else r.a, b := if bit set 1 then scaleRegsOf i 32 else r.b }
    (0, s.setWg w { s.wgOf w with ring := some r })))

/-! ### Retiring (R266, R280) -/

/-- Trap of a status. -/
def statusCause : Nat → Option Cause
  | 3 => some .convovf
  | 4 => some .poison
  | 5 => some .capinvalid
  | 6 => some .capbound
  | _ => none

/-- Retire the oldest command of a ring with a status. -/
def State.retire (s : State) (w status : Nat) : State :=
  let wg := s.wgOf w
  match wg.ring with
  | none => s
  | some r =>
    let i := wg.command r 0
    let o := r.owner wg
    let at_ := wg.ridx r
    let wg := if status = 0 then wg else (wg.poke (r.base + 8) 4 status).poke (r.base + 12) 4 (cmdSeq i).toNat
    let wg := wg.poke (r.base + 4) 4 ((at_ + 1) % 2 ^ 32)
    let wg := wg.setRing { r with run := none, owners := r.owners.filter (fun x => x.index != at_) }
    let s := (s.setWg w wg).opDone o.gid o.op
    match statusCause status with
    | some c => s.report o.gid c o.pc o.seq
    | none => s

def execTileCommandRetire (w : Nat) (s : State) : Host.Outcome State Fault Refusal :=
  let wg := s.wgOf w
  match wg.ring with
  | some r =>
    match r.run with
    | some c => if c.finished && !s.parked w then .next (s.retire w c.status) else .next s
    | none => .next s
  | none => .next s

/-! ### TCFG, TACCRD, TACCWR, TSTAT, TDRAIN (R283 to R285) -/

/-- Reset scale registers: T is 1.0. -/
def ScaleRegs.reset : ScaleRegs := ⟨0, 0, 0x3F800000⟩

def execTcfgRing (f : Fields) (s : State) : Host.Outcome State Fault Refusal :=
  s.uniform 0x1A1 f (fun s' =>
    let g := s'.g
    let a := g.uval f f.a
    let off := a % 2 ^ 32
    let n := bits a 47 32
    let t := bits a 50 48
    match g.wg with
    | none => s.trap .capinvalid f.len
    | some w =>
      let wg := s'.wgOf w
      if a / 2 ^ 51 != 0 || 4 < t || !between 16 1024 n || n != 2 ^ Nat.log2 n then s.trap .illegal f.len
      else if off % 4096 != 0 || wg.size < off + 256 + 64 * n then s.trap .capbound f.len
      else
        let used := s'.ringsOn wg.core
        let num := leastFree (used.map (fun e => e.2.number))
        let tiles := (used.map (fun e => e.2.tiles)).sum
        let got := wg.ring.isNone && num < maxRings && tiles + t ≤ maxTiles
        let s' := if !got then s' else
          s'.setWg w ({ wg with ring := some ⟨num, off, n, t, ScaleRegs.reset, ScaleRegs.reset, none, []⟩, acc := [], accPoison := [] }.poke off 256 0)
        s'.done (s'.g.setGpred (f.d.toNat % 8) got) f.len)

/-- TCFG, TSTAT and TDRAIN of a task raise CAPINVALID; without a ring `k` gets none. -/
def State.onOwnRing (s : State) (op : Nat) (f : Fields) (k : State → Option (Nat × Ring) → State) : Host.Outcome State Fault Refusal :=
  s.uniform op f (fun s' =>
    match s'.g.wg with
    | none => s.trap .capinvalid f.len
    | some w => k s' ((s'.wgOf w).ring.map (fun r => (w, r))))

def execTcfgFree (f : Fields) (s : State) : Host.Outcome State Fault Refusal :=
  s.onOwnRing 0x1A1 f (fun s' x =>
    match x with
    | none => s'.done s'.g f.len
    | some (w, r) =>
      let wg := s'.wgOf w
      if wg.backlog r != 0 then s.stall .waitc
      else (s'.setWg w { wg with ring := none, acc := [], accPoison := [] }).done s'.g f.len)

/-- An unretired command names a tile: MMA and EPI commands name one. -/
def Workgroup.tileBusy (w : Workgroup) (r : Ring) (tile : Nat) : Bool :=
  (List.range (w.backlog r)).any (fun k => let i := w.command r k; cmdKind i != 2 && cmdTile i == tile)

/-- The frame of TACCRD and TACCWR: column and row of the fragment, its tile, and the wait for the tile's commands. -/
def State.onTile (s : State) (op : Nat) (f : Fields) (k : State → Nat → Nat → Nat → Nat → List Row → State) : Host.Outcome State Fault Refusal :=
  s.instr op f (s.g.fragPre (form op f) f .ok [] []) false (fun s' _ rows =>
    let a := s'.g.uval f f.a
    let col := a % 2 ^ 32
    let row := a / 2 ^ 32
    let t := f.ext.num1.toNat
    match s'.g.wg with
    | none => s.trap .capinvalid f.len
    | some w =>
      let wg := s'.wgOf w
      match wg.ring with
      | none => s.trap .capbound f.len
      | some r =>
        if col % 16 != 0 || 112 < col || row % 16 != 0 || 112 < row || r.tiles ≤ t then s.trap .capbound f.len
        else if wg.tileBusy r t then s.stall .waitc
        else k s' w t col row rows)

def execTaccrd (f : Fields) (s : State) : Host.Outcome State Fault Refusal :=
  s.onTile 0x1A3 f (fun s' w t col row _ =>
    let wg := s'.wgOf w
    let q := fragAcc 0
    s'.done (s'.g.deferRegs false (q.regs f.d.toNat 8 (fun th p =>
      let i := row + q.row th
      let j := col + q.col th p
      ((wg.accAt t i j).toNat, wg.accBad t i j)))) f.len)

def execTaccwr (f : Fields) (s : State) : Host.Outcome State Fault Refusal :=
  s.onTile 0x1A4 f (fun s' w t col row rows =>
    let q := fragAcc 0
    let c := rows.map Row.c
    let els := q.places.map (fun e => ((row + q.row e.1, col + q.col e.1 e.2), element 32 e.2 (c.getD e.1 0), false))
    (s'.setWg w ((s'.wgOf w).setAcc t els)).done s'.g f.len)

def execTstat (f : Fields) (s : State) : Host.Outcome State Fault Refusal :=
  s.onOwnRing 0x1A6 f (fun s' x =>
    let v := match x with
      | none => 0
      | some (w, r) =>
        let wg := s'.wgOf w
        wg.backlog r % 2 ^ 16 + 2 ^ 16 * wg.peek (r.base + 8) 1 + 2 ^ 24 * r.tiles + 2 ^ 27 + 2 ^ 28 * (s'.core wg.core).scaleOff.toNat +
          2 ^ 32 * wg.peek (r.base + 12) 4
    s'.done (s'.g.write f.d 2 0 v) f.len)

def execTdrainWait (f : Fields) (s : State) : Host.Outcome State Fault Refusal :=
  s.onOwnRing 0x1A7 f (fun s' x =>
    match x with
    | none => s'.done s'.g f.len
    | some (w, r) => if (s'.wgOf w).backlog r != 0 then s.stall .waitc else s'.done s'.g f.len)

/-- Stop the running command: its DRAINING handles return to FREE, and it retires with status 1; one whose last effect is done retires
with its own status. -/
def State.stopRun (s : State) (w : Nat) : State :=
  let wg := s.wgOf w
  match wg.ring with
  | none => s
  | some r =>
    match r.run with
    | none => s
    | some c =>
      if c.finished then s.retire w c.status
      else
        let wg := if c.holdA then wg.moveBoth (slotHandles (wg.command r 0) c.oslot) hFree else wg
        (s.setWg w wg).retire w 1

/-- Retire commands that have not started with status 1. -/
def State.dropCommands (s : State) (w : Nat) : Nat → State
  | 0 => s
  | n + 1 => (s.retire w 1).dropCommands w n

def execTdrainAbort (f : Fields) (s : State) : Host.Outcome State Fault Refusal :=
  s.onOwnRing 0x1A7 f (fun s' x =>
    match x with
    | none => s'.done s'.g f.len
    | some (w, r) =>
      let s' := s'.stopRun w
      let s' := s'.dropCommands w ((s'.wgOf w).backlog r)
      s'.done s'.g f.len)

end Sys2Proof.Machine
end

