-- ==== Sys2Proof/Machine/Task.lean ====
section
/-! DEFINITION. Tasks, pedigrees, keyed allocation, the log and reducer views (R171 to R186, R289 to R311). -/

namespace Sys2Proof.Machine

/-! ### Pedigrees (R174, R299 to R302) -/

/-- The strand element of a group's position. -/
def Group.strand (g : Group) : Word := strandElem g.pedBlk g.pedIdx

/-- An access to a pinned object whose page is not mapped makes the context LOST (R345). -/
def State.pinLost (s : State) : State := s.loseCtx s.g.ctx s.g.core (s.obj (s.ctx s.g.ctx).trec.toNat).vbase

/-- A PEDRD result that a record read gives later, with its poison (R290, R299). -/
def State.recordRead (s : State) (f : Fields) (off n : Nat) : State :=
  let g := s.g
  match s.objRun (s.ctx g.ctx).trec (recordSize * g.recNo + off) n with
  | none => s.pinLost
  | some l => s.done (g.defer f.d 2 [(0, s.readNat l, l.any s.poisonAt)] true false false (s.levelOfAll g l)) f.len

def execPedrd (f : Fields) (s : State) : Host.Outcome State Fault Refusal :=
  s.uniform 0x1E3 f (fun s =>
    let g := s.g
    let now (v : Nat) : State := s.done (g.write f.d 2 0 v) f.len
    let d := g.uval f f.a % 2 ^ 7
    match f.mod.toNat with
    | 0 => now g.pedKey
    | 1 => now (g.pedIdx + 2 ^ 16 * g.pedBlk + 2 ^ 32 * g.pedDepth)
    | 2 =>
      if between 1 g.pedDepth d then s.recordRead f (32 + 4 * (d - 1)) 4
      else s.done (g.defer f.d 2 [(0, if d = g.pedDepth + 1 then g.strand.toNat else 0, false)] true false false) f.len
    | _ => if g.pedDepth = 0 then now g.root.toNat else s.recordRead f 0 8)

/-- Code of the order of two elements at one level (R300). -/
def pedcmp (x y : Word) : Nat :=
  if x = y then 0
  else if elBlk x != elBlk y then (if elBlk x < elBlk y then 1 else 2)
  else if elKind x = 1 && elKind y = 1 then (if elIdx x < elIdx y then 1 else 2)
  else if elKind x = 0 && elKind y = 0 then 3
  else
    let s := if elKind x = 1 then elIdx x else elIdx y
    let c := if elKind x = 1 then elIdx y else elIdx x
    if c ≤ s then 3 else if elKind x = 1 then 1 else 2

def execPedcmp (f : Fields) (s : State) : Host.Outcome State Fault Refusal :=
  s.map 0x1E4 f (fun _ r => pedcmp (.ofNat 32 r.a) (.ofNat 32 r.b))

def execRng (f : Fields) (s : State) : Host.Outcome State Fault Refusal :=
  s.mapLater 0x1E5 f (fun g r => if f.mod = 0 then (rngMixed g.pedKey r.a r.t).toNat else (g.pedKey + r.a) % Config.p)

/-! ### Deques (R177 to R180) -/

/-- Descriptor fields of a deque entry. -/
def descEntry (d : BitVec 512) : Word := .ofNat 32 d.toNat
def descElem (d : BitVec 512) : Word := .ofNat 32 (bits d.toNat 63 32)
def descDepth (d : BitVec 512) : Nat := bits d.toNat 69 64
def descAllot (d : BitVec 512) : Nat := 8 * bits d.toNat 79 72
def descUcount (d : BitVec 512) : Nat := 8 * (bits d.toNat 82 80 + 1)
def descCidx (d : BitVec 512) : Nat := bits d.toNat 115 96
def descSblk (d : BitVec 512) : Nat := bits d.toNat 159 128
def descRecord (d : BitVec 512) : Nat := bits d.toNat 183 160
def descKey (d : BitVec 512) : Nat := bits d.toNat 255 192
def descLaunch (d : BitVec 512) : Nat := bits d.toNat 319 256
def descArg0 (d : BitVec 512) : DWord := .ofNat 64 (bits d.toNat 383 320)
def descArg1 (d : BitVec 512) : DWord := .ofNat 64 (bits d.toNat 447 384)

/-- Byte offset of place `k` of a core's overflow ring in the DEQ object. -/
def State.ringOff (s : State) (ctx core k : Nat) : Nat :=
  let cap := (s.ctx ctx).deqcap
  64 * cap * (s.partCores ctx).idxOf core + 64 * (k % cap)

def State.over (s : State) (ctx core : Nat) : Overflow := Cells.get ⟨0, 0⟩ s.overflow (512 * ctx + core)
def State.setOver (s : State) (ctx core : Nat) (o : Overflow) : State := { s with overflow := Cells.set ⟨0, 0⟩ s.overflow (512 * ctx + core) o }

/-- Physical addresses of a ring place, or the address whose translation faults. -/
def State.ringAt (s : State) (ctx core k : Nat) (write : Bool) : Except Nat (List Nat) :=
  let o := s.obj (s.ctx ctx).deq.toNat
  s.transRun ctx (o.vbase + s.ringOff ctx core k) 64 write

/-- Write entries to the bottom of a core's overflow ring, all or none. -/
def State.ringPush (s : State) (ctx core : Nat) : List (BitVec 512) → Except Nat State
  | [] => .ok s
  | d :: l =>
    let o := s.over ctx core
    match s.ringAt ctx core (o.top + o.count) true with
    | .error va => .error va
    | .ok pas => State.ringPush ((s.store ((pas.map Loc.mem).zip (toLE 64 d.toNat)) false).setOver ctx core { o with count := o.count + 1 }) ctx core l

/-- Entries that the hardware part of a deque holds, and how many it spills at once. -/
def dequeSize : Nat := 256
def spillSize : Nat := 128

/-- Push an entry: a full hardware part first spills its oldest entries. -/
def State.dequePush (s : State) (ctx core : Nat) (d : BitVec 512) : Except Nat State :=
  let c := s.core core
  if c.deque.length < dequeSize then .ok (s.setCore core { c with deque := c.deque ++ [d] })
  else
    match s.ringPush ctx core (c.deque.take spillSize) with
    | .error va => .error va
    | .ok s => .ok (s.setCore core { s.core core with deque := c.deque.drop spillSize ++ [d] })

/-- A push would exceed the ring's capacity. -/
def State.dequeFull (s : State) (ctx core : Nat) : Bool :=
  dequeSize ≤ (s.core core).deque.length && (s.ctx ctx).deqcap < (s.over ctx core).count + spillSize

/-! ### Task records (R178) -/

/-- A free task record of a context. -/
def State.freeRecord (s : State) (ctx : Nat) : Option Nat :=
  let c := s.ctx ctx
  let n := leastFree (c.recs.map Prod.fst)
  if n < c.trecn then some n else none

/-- Write a task record; none where its page is not mapped. -/
def State.writeRecord (s : State) (ctx n lid root depth parent key : Nat) (path : List Word) : Option State :=
  let c := s.ctx ctx
  let b := toLE 8 root ++ toLE 1 depth ++ toLE 3 0 ++ toLE 4 parent ++ toLE 8 key ++ toLE 8 lid ++ path.flatMap (fun w => toLE 4 w.toNat)
  (s.objRun c.trec (recordSize * n) recordSize true).map (fun l =>
    (s.store (l.zip ((b ++ List.replicate recordSize 0).take recordSize)) false).setCtx ctx { c with recs := Cells.set 0 c.recs n (lid + 1) })

/-! ### SPAWN, SYNC and TEXIT (R292 to R298) -/

/-- Key of a child at a depth, or of a grid group at depth 0 (R175). -/
def LaunchRec.childKey (r : LaunchRec) (key depth e : Nat) : Nat := (key + r.gamma.getD depth 0 * (e + 1)) % Config.p

/-- The page of the current task's own record has no translation (R345). -/
def State.ownRecordGone (s : State) : Bool :=
  let g := s.g
  g.pedDepth != 0 && (s.objRun (s.ctx g.ctx).trec (recordSize * g.recNo) recordSize).isNone

/-- The elements of a group's path without its strand. -/
def State.spawnPath (s : State) (g : Group) : List Word := if g.pedDepth = 0 then [] else s.recPath g.ctx g.recNo

/-- The effect of SPAWN after its checks, with child record `n`. -/
def State.spawnTask (s0 s : State) (f : Fields) (n : Nat) (target : Word) : State :=
  let g := s.g
  let r := (s.launch g.lid).lrec
  let idx := g.pedIdx + 1
  let e : Word := .ofNat 32 (2 ^ 16 * g.pedBlk + idx)
  let depth := g.pedDepth + 1
  let key := r.childKey g.pedKey depth e.toNat
  match s.writeRecord g.ctx n g.lid g.root.toNat depth g.recNo key (s.spawnPath g ++ [e]) with
  | none => s0.pinLost
  | some s =>
    let (ci, s) := s.newEntry s.cur n (strandElem 0 0)
    let s := s.entryState g.entry 2 0
    let (pi, s) := s.newEntry s.cur g.recNo (strandElem g.pedBlk idx)
    let d : BitVec 512 := .ofNat 512 (target.toNat + 2 ^ 32 * e.toNat + 2 ^ 64 * depth + 2 ^ 72 * (f.c.toNat % 32) + 2 ^ 80 * (f.c.toNat / 32) +
      2 ^ 96 * ci + 2 ^ 116 * ((s.task ci).gen % 2 ^ 12) + 2 ^ 128 * (g.block % 2 ^ 32) + 2 ^ 160 * (n % 2 ^ 24) + 2 ^ 192 * key +
      2 ^ 256 * g.lid + 2 ^ 320 * g.uval f f.a + 2 ^ 384 * g.uval f f.b)
    let b := s.block g.block
    let s := s.setBlock g.block { b with items := b.items ++ [.child n false [], .strand idx []], entries := b.entries ++ [pi] }
    match s.dequePush g.ctx g.core d with
    | .error va => s0.holdFault va true
    | .ok s => s.done { s.g with pedIdx := idx, entry := pi } f.len

def execSpawn (f : Fields) (s : State) : Host.Outcome State Fault Refusal :=
  s.uniform 0x1E0 f (fun s' =>
    let g := s'.g
    let target := g.pc + ofs24 f
    if g.pedIdx = 65535 || 63 ≤ g.pedDepth then s.trap .pedovf f.len
    else if (g.kreg 0).length ≤ target.toNat then s.trap .capbound f.len
    else if s'.dequeFull g.ctx g.core then s.trap .dequespill f.len
    else
      match s'.freeRecord g.ctx with
      | none => s.trap .dequespill f.len
      | some n => s.releaseWait true (if s.ownRecordGone then s.pinLost else s.spawnTask s' f n target))

/-- Complete a SYNC whose block is merged; its strand ended when it began to close (R189, R296). -/
def State.syncDone (s : State) (f : Fields) : State :=
  let g := s.g
  let b := s.block g.block
  let (n, s) := s.newEntry s.cur g.recNo (strandElem (g.pedBlk + 1) 0)
  let s := s.forward b.entries n
  let s := s.setBlock g.block { b with items := [.strand 0 b.acc], acc := [], entries := [n], closing := false }
  s.done { s.g with pedBlk := g.pedBlk + 1, pedIdx := 0, entry := n } f.len

def execSync (f : Fields) (s : State) : Host.Outcome State Fault Refusal :=
  s.uniform 0x1E1 f (fun s' =>
    let g := s'.g
    if g.pedBlk = 32767 then s.trap .pedovf f.len
    else
      let s1 := if (s.block g.block).closing then s else (s.entryState g.entry 2 0).closeBlock g.block
      if (s1.block g.block).merged then ({ s' with blocks := s1.blocks, tasks := s1.tasks }).syncDone f else s1.stall .sync)

def execTexit (f : Fields) (s : State) : Host.Outcome State Fault Refusal :=
  s.uniform 0x1E2 f (fun s' =>
    let g := s'.g
    (s'.setG { g with live := 0, cur := 0, stack := [], spilled := 0, retired := g.retired + 1, wait := .none }).endGroup s'.cur)

/-! ### Keyed allocation (R303, R304) -/

/-- The smallest window length that can be written from base 0, with its exponent. -/
def roundLength (size : Nat) : Nat × Nat :=
  let e := ((List.range 15).find? (fun e => (size + 2 ^ (4 + e) - 1) / 2 ^ (4 + e) ≤ 2 ^ 22)).getD 14
  ((size + 2 ^ (4 + e) - 1) / 2 ^ (4 + e) * 2 ^ (4 + e), e)

/-- Place in the heap for a number of bytes: the first one, at a multiple of a page, that no live object takes (log 25). -/
def State.heapPlace (s : State) (ctx size : Nat) : Option Nat :=
  let h := s.obj (s.ctx ctx).heap.toNat
  let used := s.objs.filterMap (fun e => if e.2.live && e.2.ctx == ctx && 2 ^ 64 ≤ e.1 then some (e.2.vbase, e.2.vbase + e.2.extent) else none)
  let up (x : Nat) : Nat := (x + 65535) / 65536 * 65536
  let cands := (h.vbase :: used.map (fun u => up u.2)).filter (fun v =>
    h.vbase ≤ v && v + size ≤ h.vbase + h.extent && used.all (fun u => v + size ≤ u.1 || u.2 ≤ v))
  if !h.live then none else cands.min?

/-- Zero a run of physical bytes. -/
def State.zeroPhys (s : State) (pa n : Nat) : State :=
  { s with mem := s.mem.filter (fun c => !(pa ≤ c.1 && c.1 < pa + n))
           tags := s.tags.filter (fun c => !(pa / 16 ≤ c.1 && c.1 < (pa + n + 15) / 16))
           memPoison := s.memPoison.filter (fun c => !(pa / 16 ≤ c.1 && c.1 < (pa + n + 15) / 16)) }

/-- Zero virtual bytes page by page, or the address whose translation faults; `va` is a multiple of a page. -/
def State.zeroVirt (s : State) (ctx : Nat) : Nat → Nat → Nat → Except Nat State
  | 0, _, _ => .ok s
  | k + 1, va, n =>
    if n = 0 then .ok s
    else
      match s.translate ctx va true with
      | none => .error va
      | some pa => State.zeroVirt (s.zeroPhys pa (Nat.min n 65536)) ctx k (va + 65536) (n - Nat.min n 65536)

/-- Rights of a new object by MOD: read and write; with CHECK; with cap-load and cap-store. -/
def allocRights : Nat → Nat
  | 0 => 3
  | 1 => 3 + 32
  | _ => 3 + 8 + 16

def execAlloco (f : Fields) (s : State) : Host.Outcome State Fault Refusal :=
  s.uniform 0x1E6 f (fun s' =>
    let g := s'.g
    let size := g.uval f f.a
    let k := f.d.toNat % 16
    let p := f.c.toNat % 8
    if size % 16 != 0 || !between 16 (2 ^ 40) size then s.trap .capbound f.len
    else
      let (len, e) := roundLength size
      let name : DWord := .ofNat 64 ((g.pedKey + (s'.launch g.lid).lrec.delta * (g.allocs + 1)) % Config.p)
      let key := objKey g.ctx name
      let o := s'.obj key
      if o.live || o.retired then s.trap .alloccoll f.len
      else
        let g := { g with allocs := g.allocs + 1 }
        match s'.heapPlace g.ctx len with
        | none => s'.done ((g.setK k { g.kreg k with tag := false }).setGpred p false) f.len
        | some va =>
          match s'.zeroVirt g.ctx (len / 65536 + 1) va len with
          | .error va => s.holdFault va true
          | .ok s' =>
            let m := f.mod.toNat
            let s' := s'.setObj key { o with live := true, vbase := va, extent := len, pin := false, caparr := m == 2, checked := m == 1
                                             home := s'.devnum, ctx := g.ctx, shofs := 0 }
            let s' := s'.clearShadow key
            let c := Cap.make name o.gen (allocRights m) e 0 (len / 2 ^ (4 + e) - 1)
            s'.done ((g.setK k c).setGpred p true) f.len)

/-- The members of a communicator whose key ends erase it too (R448). -/
def State.eraseKeys (s : State) (key : Nat) : State :=
  let o := s.obj key
  if s.commKeys.any (fun e => e.1 == 256 * key + o.gen) then
    (s.otherDevices (.ofNat 64 key) ((s.keyNat key 0 4).getD 0)).foldl (fun s d => s.send (.eraseKey d (.ofNat 64 key) o.gen)) s
  else s

/-- Free an object: its generation rises, one at 255 is retired (R336); a meeting in it and a key of it as a communicator end (R448). -/
def State.freeObj (s : State) (key : Nat) : State :=
  let o := s.obj key
  let s := (s.eraseKeys key).setObj key { o with live := false, retired := o.retired || o.gen == 255, gen := (o.gen + 1) % 256 }
  { s.setMeeting key Meeting.blank with commKeys := Cells.del s.commKeys (256 * key + o.gen) }

def execFreeo (f : Fields) (s : State) : Host.Outcome State Fault Refusal :=
  s.uniform 0x1E7 f (fun s' =>
    let g := s'.g
    let k := f.d.toNat % 16
    let c := g.kreg k
    let key := objKey g.ctx c.name
    let o := s'.obj key
    if Cells.get false g.miscPoison (miscKey 3 k) then s.poisonTrap 0 f.len
    else if !c.tag then s.trap .capinvalid f.len
    else if !c.has rWrite || 2 ^ 61 ≤ c.name.toNat then s.trap .caprights f.len
    else if !o.live || o.gen != c.gen then s.trap .capinvalid f.len
    else s.releaseWait true ((s'.freeObj key).done (g.setK k { c with tag := false }) f.len))

/-! ### Views (R184, R308 to R310) -/

/-- Act on the first strand's views of a block, or on the last one's. -/
def updFirst (fn : Views → Views) : List Member → List Member
  | .strand n v :: l => .strand n (fn v) :: l
  | l => l

def updLast (fn : Views → Views) (l : List Member) : List Member := (updFirst fn l.reverse).reverse

/-- Declaration of a reducer of the current group's launch. -/
def State.reducer (s : State) (n : Nat) : BitVec 128 := (s.launch s.g.lid).lrec.reds.getD n 0

/-- Views of the current group that a reducer updates: ORDERED reducers and the log are split at every SPAWN. -/
def State.viewsOf (s : State) (ordered : Bool) : Views :=
  let l := (s.block s.g.block).items
  match (if ordered then l.reverse else l) with
  | .strand _ v :: _ => v
  | _ => []

def State.setViews (s : State) (ordered : Bool) (v : Views) : State :=
  let b := s.block s.g.block
  let upd := if ordered then updLast (fun _ => v) b.items else updFirst (fun _ => v) b.items
  s.setBlock s.g.block { b with items := upd }

/-- The identity view of a declaration (R183). -/
def identityView (d : BitVec 128) : View :=
  match redKind d with
  | 1 => .exact (List.replicate (redCount d) XA.zero)
  | 3 => .bits (List.replicate (redCount d) (if redOp d = 4 then 0xFFFFFFFFFFFFFFFF else 0))
  | _ => if redOp d = 1 then .items [] else .minmax (List.replicate (redCount d) none)

/-- The current view of reducer `n`; a missing one is the identity. -/
def State.viewOf (s : State) (n : Nat) (d : BitVec 128) : View :=
  match Cells.get View.missing (s.viewsOf (redKind d == 2)) n with
  | .missing => identityView d
  | v => v

def State.putView (s : State) (n : Nat) (d : BitVec 128) (v : View) : State :=
  s.setViews (redKind d == 2) (Cells.set View.missing (s.viewsOf (redKind d == 2)) n v)

/-- Bytes of a view by R183; lists in chunks of 256 bytes (log 55 for the log's). -/
def View.size : View → Nat
  | .missing => 0
  | .exact l => 48 * l.length
  | .minmax l => 16 * l.length
  | .bits l => 8 * l.length
  | .items l => 256 * ((8 * l.length + 255) / 256)
  | .log l => 256 * (((l.map List.length).sum + 255) / 256)

/-- Bytes of a core's view pool (R194). -/
def viewPool : Nat := 65536

/-- Place `n` bytes in a core's view pool, or in the view overflow object where they do not fit (R184); first places, and a full overflow
object, are the model's (log 55). -/
def State.addSpace (s : State) (v : ViewSpace) (core n : Nat) : State :=
  let used (p : ViewSpace → Bool) : List (Nat × Nat) := (s.viewSpaces.filter p).map (fun x => (x.off, x.len))
  let ovf := used (fun x => x.core == noCore && x.ctx == v.ctx)
  let pool := if core < noCore then firstFit (used (fun x => x.core == core)) 0 viewPool n else none
  let space : ViewSpace := match pool with
    | some off => { v with core := core, off := off, len := n }
    | none =>
      let ext := (s.obj (s.ctx v.ctx).viewovf.toNat).extent
      { v with core := noCore, off := (firstFit ovf 0 ext n).getD (ovf.foldl (fun m u => Nat.max m (u.1 + u.2)) ext), len := n }
  { s with viewSpaces := s.viewSpaces ++ [space] }

/-- The same view. -/
def ViewSpace.same (a b : ViewSpace) : Bool := a.lid == b.lid && a.recNo == b.recNo && a.strand == b.strand && a.red == b.red

/-- Space for a view of `size` bytes: it is created on a core, and grows where it was created (R184). -/
def State.growView (s : State) (v : ViewSpace) (core size : Nat) : State :=
  let mine := s.viewSpaces.filter v.same
  let have_ := (mine.map ViewSpace.len).sum
  if size ≤ have_ then s else s.addSpace v ((mine.head?).elim core ViewSpace.core) (size - have_)

/-- First unmapped address of views in the overflow object. -/
def State.viewFault (s : State) (p : ViewSpace → Bool) : Option Nat :=
  (s.viewSpaces.filter (fun v => p v && v.core == noCore)).findSome? (fun v =>
    let o := s.obj (s.ctx v.ctx).viewovf.toNat
    if !o.live || o.extent < v.off + v.len then none
    else match s.transRun v.ctx (o.vbase + v.off) v.len true with | .error va => some va | .ok _ => none)

/-- The current view of the group's reducer, or log. -/
def State.viewKey (s : State) (red : Nat) (split : Bool) : ViewSpace :=
  let g := s.g
  ⟨g.ctx, g.lid, g.recNo, if split then g.pedIdx else 0, red, 0, 0, 0⟩

/-- Complete an instruction that has updated a view: a view in the overflow object that faults holds the group (R308). -/
def State.viewDone (s0 s : State) (red : Nat) (split : Bool) (v : View) (len : Nat) : State :=
  let key := s0.viewKey red split
  let s := s.growView key s.g.core v.size
  match s.viewFault key.same with
  | some va => s0.holdFault va true
  | none => s.done s.g len

/-- TY that a declaration's ETY names. -/
def redTy (d : BitVec 128) : Ty :=
  match redKind d, redEty d with
  | 1, 0 => .f32 | 1, 1 => .f16 | 1, _ => .bf16
  | 2, 0 => .i32 | 2, 1 => .n32 | 2, _ => .f32
  | _, _ => .b64

/-- The declaration is an APPEND reducer. -/
def isAppend (d : BitVec 128) : Bool := redKind d == 2 && redOp d == 1

/-- One update of a view, on the right. -/
def View.update (d : BitVec 128) (v : View) (i x ix : Nat) : View :=
  match v with
  | .exact l => .exact (l.set i ((l.getD i XA.zero).acc ((fmtOfTy (redTy d)).decode x)))
  | .minmax l => .minmax (l.set i (miPick (redOp d) (redEty d) (l.getD i none) (some (.ofNat 32 x, .ofNat 32 ix))))
  | .bits l => .bits (l.set i (bitOp (redOp d) (l.getD i 0) (.ofNat 64 x)))
  | .items l => .items (l ++ [.ofNat 64 x])
  | v => v

def execRacc (f : Fields) (s : State) : Host.Outcome State Fault Refusal :=
  s.instr 0x1EB f .ok false (fun s' _ rows =>
    let n := f.ext.num1.toNat
    let d := s'.reducer n
    let mi := redKind d == 2
    if redKind d = 0 || isAppend d || f.ty != redTy d || (!mi && f.c != 0xF3) then s.trap .illegal f.len
    else if rows.any (fun r => redCount d ≤ r.b) then s.trap .capbound f.len
    else
      let v := rows.foldl (fun v r => v.update d r.b (r.a % 2 ^ bitsOf f.ty) r.c) (s'.viewOf n d)
      s.viewDone (s'.putView n d v) n mi v f.len)

def execRapp (f : Fields) (s : State) : Host.Outcome State Fault Refusal :=
  s.instr 0x1EC f .ok false (fun s' _ rows =>
    let n := f.ext.num1.toNat
    let d := s'.reducer n
    if !isAppend d then s.trap .illegal f.len
    else
      let v := rows.foldl (fun v r => v.update d 0 r.a 0) (s'.viewOf n d)
      s.viewDone (s'.putView n d v) n true v f.len)

/-- The value of an absent MINI or MAXI element (R183). -/
def extreme (d : BitVec 128) : Nat :=
  match redOp d == 2, redEty d with
  | true, 0 => 0x7FFFFFFF | true, 1 => 0xFFFFFFFF | true, _ => 0x7F800000
  | false, 0 => 0x80000000 | false, 1 => 0 | false, _ => 0xFF800000

/-- Reading a view's element by a form of RVIEW; none where the form does not fit the kind. -/
def View.read (d : BitVec 128) (v : View) (form i : Nat) (r : Rnd) : Option Nat :=
  match form, v with
  | 0, .exact l => some ((l.getD i XA.zero).final (fmtOfTy (redTy d)) r)
  | 1, .exact l => some (l.getD i XA.zero).header
  | 2, .minmax l => some (match l.getD i none with | some (x, ix) => x.toNat + 2 ^ 32 * ix.toNat | none => extreme d + 2 ^ 32 * 0xFFFFFFFF)
  | 3, .bits l => some (l.getD i 0).toNat
  | 4, .items l => some l.length
  | _, _ => none

def execRview (f : Fields) (s : State) : Host.Outcome State Fault Refusal :=
  s.uniform 0x1EA f (fun s' =>
    let g := s'.g
    let n := f.ext.num1.toNat
    let d := s'.reducer n
    let i := g.uval f f.b % 2 ^ 32
    match (if redKind d = 0 then none else (s'.viewOf n d).read d (f.ext.xsub.toNat % 8) i (rndCode g.rred)) with
    | none => s.trap .illegal f.len
    | some v =>
      if redCount d ≤ i then s.trap .capbound f.len
      else match s'.viewFault (s'.viewKey n (redKind d == 2)).same with
        | some va => s.holdFault va false
        | none => s'.done (g.defer f.d 2 [(0, v, false)] false false false) f.len)

def execRdecl (f : Fields) (s : State) : Host.Outcome State Fault Refusal :=
  s.uniform 0x1E9 f (fun s => s.done (s.g.write f.d 2 0 ((s.reducer f.ext.num1.toNat).toNat % 2 ^ 64)) f.len)

/-! ### The log (R305) -/

/-- Bytes of a log entry. -/
def logEntry (root tag value : Nat) (path : List Word) : List Byte :=
  let b := toLE 8 root ++ toLE 2 tag ++ toLE 1 path.length ++ toLE 1 0 ++ toLE 8 value ++ path.flatMap (fun w => toLE 4 w.toNat)
  b ++ List.replicate ((8 - b.length % 8) % 8) 0

/-- Key of the log among views. -/
def logKey : Nat := 16

def execLogw (f : Fields) (s0 : State) : Host.Outcome State Fault Refusal :=
  s0.uniform 0x1E8 f (fun s =>
    let g := s.g
    let e := logEntry g.root.toNat (f.ext.num1.toNat * 256 + f.ext.num2.toNat) (g.uval f f.a) (s.spawnPath g ++ [g.strand])
    let old := match Cells.get View.missing (s.viewsOf true) logKey with | .log l => l | _ => []
    let v : View := .log (old ++ [e])
    if s0.ownRecordGone then s0.pinLost
    else s0.viewDone (s.setViews true (Cells.set View.missing (s.viewsOf true) logKey v)) logKey true v f.len)

end Sys2Proof.Machine
end

