-- ==== Sys2Proof/Machine/Packet.lean ====
section
/-! DEFINITION. Packet queues: descriptors, reading packets, and their completion (R318 to R323, R403, R404). -/

namespace Sys2Proof.Machine

/-! ### The pilot's own accesses (R187, R343) -/

/-- The name of an access that no group makes, from what makes it and two numbers (R343). -/
def accessId (kind a b : Nat) : Nat := kind + 16 * (a + 2 ^ 16 * b)

/-- The page that keeps the pilot from an access to an object of this device waits as an engine's access; `who` names the access (R343). -/
def State.keyFault (s : State) (key off n who : Nat) (write : Bool := false) : State :=
  let o := s.obj key
  if !o.live || o.home != s.devnum || o.extent < off + n then s
  else match s.transRun o.ctx (o.vbase + off) n write with
    | .error va => s.engineFault o.ctx ((s.partCores o.ctx).headD 0) va write who
    | .ok _ => s

/-! ### Queue descriptors (R318) -/

/-- A queue descriptor as it stands in memory. -/
structure Queue where
  widx : Nat
  ridx : Nat
  cidx : Nat
  ring : DWord
  compl : DWord
  log2n : Nat
  copy : Bool
  die : Nat
  caparr : DWord
  capn : Nat
  deriving DecidableEq, Repr

def Queue.ofImage (i : BitVec 512) : Queue :=
  { widx := imgBytes i 0 8, ridx := imgBytes i 8 8, cidx := imgBytes i 16 8, ring := .ofNat 64 (imgBytes i 24 8)
    compl := .ofNat 64 (imgBytes i 32 8), log2n := imgBytes i 40 2, copy := imgBytes i 42 1 == 1, die := imgBytes i 43 1
    caparr := .ofNat 64 (imgBytes i 48 8), capn := imgBytes i 56 4 }

/-- Slots of the ring. -/
def Queue.slots (d : Queue) : Nat := 2 ^ d.log2n

/-- A queue of a context; none where it has no such queue or its descriptor is not mapped. -/
def State.queue (s : State) (ctx q : Nat) : Option Queue :=
  if (s.ctx ctx).qn ≤ q then none
  else (s.objNat (s.ctx ctx).qtab (64 * q) 64).map (fun v => Queue.ofImage (.ofNat 512 v))

/-- Write bytes of the device itself into a system object: no strand issues them, so the granules take the unchecked index 0 (R187, R188). -/
def State.devWrite (s : State) (name : DWord) (off : Nat) (b : List Byte) : Option State :=
  (s.objRun name off b.length true).map (fun l => (s.store (l.zip b) false).uncheckedWrite name.toNat off b.length)

/-- The same for a number of `n` bytes. -/
def State.devPut (s : State) (name : DWord) (off n v : Nat) : Option State := s.devWrite name off (toLE n v)

/-- Write an 8-byte index of a descriptor. -/
def State.queuePut (s : State) (ctx q off v : Nat) : Option State := s.devPut (s.ctx ctx).qtab (64 * q + off) 8 v

/-- A capability of the queue's array (R323): none at or above CAPN, and a null one where the granule cannot be read. -/
def State.queueCap (s : State) (d : Queue) (n : Nat) : Option Cap :=
  if d.capn ≤ n then none
  else
    match s.objRun d.caparr (16 * n) 16 with
    | none => some Cap.null
    | some l => some ⟨.ofNat 128 (s.readNat l), s.tagAt (l.headD .drop)⟩

/-! ### Packets (R321, R322) -/

def pktSeq (i : BitVec 512) : Nat := imgBytes i 4 4
def pktType (i : BitVec 512) : Nat := imgBytes i 0 1
def pktBarrier (i : BitVec 512) : Bool := bit (imgBytes i 1 1) 0
def pktStop (i : BitVec 512) : Bool := bit (imgBytes i 1 1) 1

/-- Byte numbers that a packet of a type leaves reserved from byte 8 on. -/
def pktReserved (i : BitVec 512) : List (Nat × Nat) :=
  match pktType i with
  | 0 => [(8, 56)]
  | 1 => [(18, 46)]
  | 2 => [(56, 8)]
  | 3 => (9, 7) :: ((List.range 6).map (fun m => (18 + 8 * m, 2)))
  | 4 => [(24, 40)]
  | 5 => [(18, 46)]
  | 6 => [(9, 1), (20, 4), (32, 32)]
  | _ => []

/-- The packet passes R322 in its queue. -/
def pktOk (i : BitVec 512) (d : Queue) : Bool :=
  let t := pktType i
  (if d.copy then t == 0 || t == 2 else t ≤ 6 && t != 2) && imgBytes i 2 2 == 0 && imgBytes i 1 1 < 4 && (!pktStop i || t == 3) &&
    (pktReserved i).all (fun r => imgBytes i r.1 r.2 == 0)

/-- The packet numbers of a queue that have been read and are not complete. -/
def State.packetsOf (s : State) (ctx q : Nat) : List Packet := s.packets.filter (fun p => p.ctx == ctx && p.queue == q)

/-- A packet may start: it has not, it is no later than an unfinished DEPEND, and BARRIER waits for every earlier packet (R320). -/
def State.canStart (s : State) (p : Packet) : Bool :=
  let before := (s.packetsOf p.ctx p.queue).filter (fun x => x.index < p.index && x.done.isNone)
  !p.started && p.done.isNone && (!pktBarrier p.image || before.isEmpty)

/-- The packet that a replayed HOSTQ entry gives for an index that nothing has published. -/
def State.loggedPacket (s : State) (ctx q index : Nat) : Option (BitVec 512) :=
  if !s.replaying ctx then none
  else
    match s.replayNext ctx pilotGid with
    | some (r, k, d, _) => if r = index && k = 1 && leNat (d.take 8) = q then some (.ofNat 512 (leNat ((d.drop 8).take 64))) else none
    | none => none

/-- Read the next packet of a queue: its SEQ says that it is published, or the replay log gives it; RIDX follows (R320, R403, R404). -/
def State.readPacket (s : State) (ctx q : Nat) : Option (Packet × State) :=
  match s.queue ctx q with
  | none => none
  | some d =>
    let i := d.ridx
    if (s.ctx ctx).state != .running || s.halted.contains (ctx, q) || (s.packetsOf ctx q).any (fun p => pktType p.image == 3 && p.done.isNone) then none
    else
      match s.objRun d.ring (64 * (i % d.slots)) 64 with
      | none => none
      | some l =>
        let img : BitVec 512 := .ofNat 512 (s.readNat l)
        let published := pktSeq img == (i + 1) % 2 ^ 32
        let byHost := match l[4]? with | some (.mem pa) => Cells.get false s.hostWrote (pa / 4) | _ => false
        let got : Option (State × BitVec 512) :=
          if published then
            (if byHost then (s.replayInput ctx pilotGid i 1 (toLE 8 q ++ toLE 64 img.toNat)).map (fun r => (r.1, .ofNat 512 (leNat ((r.2.drop 8).take 64))))
             else some (s, img))
          else
            match s.loggedPacket ctx q i with
            | some img => (s.replayTake ctx pilotGid i 1).map (fun r => (r.1, img))
            | none => none
        got.bind (fun r => (r.1.queuePut ctx q 8 (i + 1)).map (fun s =>
          let p : Packet := ⟨ctx, q, i, r.2, false, none⟩
          (p, { s with packets := s.packets ++ [p] })))

/-- The packet that a step of a queue acts on: the oldest one that has been read and may start, else the next one. -/
def State.nextPacket (s : State) (ctx q : Nat) : Option (Packet × State) :=
  if (s.ctx ctx).state != .running then none
  else
    match (s.packetsOf ctx q).find? s.canStart with
    | some p => some (p, s)
    | none => s.readPacket ctx q

def State.packetUpd (s : State) (ctx q i : Nat) (fn : Packet → Packet) : State :=
  { s with packets := s.packets.map (fun p => if p.ctx == ctx && p.queue == q && p.index == i then fn p else p) }

def State.packetStart (s : State) (p : Packet) : State := s.packetUpd p.ctx p.queue p.index (fun p => { p with started := true })

/-! ### Completion (R320) -/

/-- Indices that are complete as a prefix. -/
def advanceCidx (ps : List Packet) : Nat → Nat → Nat
  | 0, c => c
  | n + 1, c => if ps.any (fun p => p.index == c && p.done.isSome) then advanceCidx ps n (c + 1) else c

/-- Complete a packet: its completion word, then CIDX over every leading index that is complete; none while a page is not mapped. -/
def State.packetDone (s : State) (ctx q i status detail : Nat) : Option State :=
  match s.queue ctx q with
  | none => none
  | some d =>
    (s.devPut d.compl (8 * (i % d.slots)) 8 (status + 2 ^ 8 * (detail % 2 ^ 24) + 2 ^ 32 * ((i + 1) % 2 ^ 32))).bind (fun s =>
      let s := s.packetUpd ctx q i (fun p => { p with done := some (status, detail) })
      let ps := s.packetsOf ctx q
      let c := advanceCidx ps ps.length d.cidx
      (s.queuePut ctx q 16 c).map (fun s =>
        { s with
          packets := s.packets.filter (fun p => !(p.ctx == ctx && p.queue == q && p.index < c))
          failed := if status = 0 then s.failed else (ctx, q, i) :: s.failed }))

/-- Statuses of R326. -/
def stOk : Nat := 0
def stBadPacket : Nat := 1
def stRecFault : Nat := 2
def stBadCap : Nat := 9
def stKilled : Nat := 12
def stDepFail : Nat := 13
def stStepLimit : Nat := 14
def stCopyErr : Nat := 15

/-- The pages of a queue of a running context that keep the pilot from its descriptor, its next packet, or a completion word, which is that of packet
`i` (R343). -/
def State.queueFault (s : State) (ctx q i : Nat) : State :=
  if (s.ctx ctx).state != .running || (s.ctx ctx).qn ≤ q then s
  else
    let s := s.keyFault (s.ctx ctx).qtab.toNat (64 * q) 64 (accessId 8 ctx q) true
    match s.queue ctx q with
    | none => s
    | some d => (s.keyFault d.ring.toNat (64 * (d.ridx % d.slots)) 64 (accessId 9 ctx q)).keyFault d.compl.toNat (8 * (i % d.slots)) 8 (accessId 10 ctx q) true

/-- The next packet of a queue, of one type, checked by R322 and marked started: `k` acts on it. A packet that breaks R322 completes
with BADPACKET; one that may not start yet is only read. -/
def State.onPacket (s : State) (ctx q type : Nat) (k : State → Queue → Packet → Option State) : State :=
  match s.nextPacket ctx q, s.queue ctx q with
  | some (p, s'), some d =>
    let mine := if type = 0 then pktType p.image == 0 || !((if d.copy then [2] else [1, 3, 4, 5, 6]).contains (pktType p.image)) else pktType p.image == type
    if !mine then s
    else if !s'.canStart p then s'
    else
      let s' := s'.packetStart p
      (if !pktOk p.image d then s'.packetDone ctx q p.index stBadPacket 0 else k s' d p).getD (s.queueFault ctx q p.index)
  | _, _ => s.queueFault ctx q ((s.queue ctx q).elim 0 Queue.ridx)

def execNopPacket (ctx q : Nat) (s : State) : Host.Outcome State Fault Refusal :=
  .next (s.onPacket ctx q 0 (fun s _ p => s.packetDone ctx q p.index stOk 0))

def execQueueRestart (ctx q : Nat) (s : State) : Host.Outcome State Fault Refusal :=
  .next { s with halted := s.halted.filter (· != (ctx, q)) }

/-! ### DEPEND (R323) -/

/-- The dependences of a packet: queue and index. -/
def deps (i : BitVec 512) : List (Nat × Nat) :=
  (List.range (imgBytes i 8 1)).map (fun m => (imgBytes i (16 + 8 * m) 2, imgBytes i (20 + 8 * m) 4))

def execDepend (ctx q : Nat) (s : State) : Host.Outcome State Fault Refusal :=
  .next (s.onPacket ctx q 3 (fun s _ p => if 6 < imgBytes p.image 8 1 then s.packetDone ctx q p.index stBadPacket 0 else some s))

def execDependComplete (ctx q : Nat) (s : State) : Host.Outcome State Fault Refusal :=
  .next
    (match (s.packetsOf ctx q).find? (fun p => pktType p.image == 3 && p.started && p.done.isNone) with
     | none => s
     | some p =>
       let ds := deps p.image
       let met (d : Nat × Nat) : Bool := match s.queue ctx d.1 with | some x => d.2 < x.cidx | none => false
       if (s.ctx ctx).state != .running || !ds.all met then s
       else
         let bad := ds.any (fun d => s.failed.contains (ctx, d.1, d.2))
         match s.packetDone ctx q p.index (if bad then stDepFail else stOk) 0 with
         | none => s
         | some s' => if bad && pktStop p.image then { s' with halted := (ctx, q) :: s'.halted } else s')

end Sys2Proof.Machine
end

