-- ==== Sys2Proof/Machine/Coll.lean ====
section
/-! DEFINITION. Collectives and the attention merge: descriptors, arithmetic, COLL, COLLQ, AMERGE, and the steps of an instance
(R367 to R384). -/

namespace Sys2Proof.Machine

/-! ### Descriptors (R368, R369, R383) -/

def cdCcap (i : BitVec 512) : Nat := imgBytes i 0 2
def cdDcap (i : BitVec 512) : Nat := imgBytes i 2 2
def cdRank (i : BitVec 512) : Nat := imgBytes i 4 2
def cdRoot (i : BitVec 512) : Nat := imgBytes i 6 2
def cdKind (i : BitVec 512) : Nat := imgBytes i 8 1 % 16
def cdRop (i : BitVec 512) : Nat := imgBytes i 8 1 / 16
def cdEty (i : BitVec 512) : Nat := imgBytes i 9 1
def cdTile (i : BitVec 512) : Nat := imgBytes i 11 1 % 16
def cdAbofs (i : BitVec 512) : Nat := imgBytes i 12 4
def cdSofs (i : BitVec 512) : Nat := imgBytes i 16 8
def cdDofs (i : BitVec 512) : Nat := imgBytes i 24 8
def cdCount (i : BitVec 512) : Nat := imgBytes i 32 4
def cdTag (i : BitVec 512) : Word := .ofNat 32 (imgBytes i 36 4)
def amHd (i : BitVec 512) : Nat := imgBytes i 8 2
def amFlags (i : BitVec 512) : Nat := imgBytes i 10 1
def amNorm (i : BitVec 512) : Bool := bit (amFlags i) 0
def amNofs (i : BitVec 512) : Nat := imgBytes i 40 8

/-- Bytes of an element by ETY. -/
def etyBytes : Nat → Nat
  | 0 => 4 | 1 => 2 | 2 => 2 | 3 => 4 | 4 => 4 | _ => 8

/-- The fields of a collective descriptor that step 2 of R374 checks; SPACE is given by who issues it. -/
def collFieldsOk (i : BitVec 512) (space : Nat) : Bool :=
  let k := cdKind i
  let red := k ≤ 1
  imgBytes i 40 8 == 0 && imgBytes i 48 8 == 0 && imgBytes i 56 8 == 0 && imgBytes i 10 1 == space && imgBytes i 11 1 < 16 && cdEty i ≤ 6 &&
    k ≤ 4 && cdRop i ≤ 5 && (red || cdRop i == 0) && (cdRop i < 3 || cdEty i == 4 || cdEty i == 6) &&
    (if k = 4 then cdCount i == 0 else between 1 (2 ^ 24) (cdCount i)) &&
    (if space = 0 then cdCcap i ≤ 15 && cdDcap i == 0 else cdAbofs i == 0 && imgBytes i 11 1 == 0)

/-- The same for an AMERGE descriptor (R384). -/
def amFieldsOk (i : BitVec 512) : Bool :=
  imgBytes i 48 8 == 0 && imgBytes i 56 8 == 0 && imgBytes i 2 2 == 0 && imgBytes i 6 2 == 0 && amFlags i < 2 && imgBytes i 11 1 < 16 &&
    cdCcap i ≤ 15 && between 1 1024 (amHd i) && between 1 4096 (cdCount i) && (amNorm i || amNofs i == 0)

/-- Bytes of a triple's record and of a normalised row (R379, R383). -/
def recordLen (hd : Nat) : Nat := (8 + 4 * hd + 15) / 16 * 16
def normLen (hd : Nat) : Nat := (4 * hd + 15) / 16 * 16

/-- Bytes of one block. -/
def blockBytes (i : BitVec 512) : Nat := cdCount i * etyBytes (cdEty i)

/-- The run that a member reads: offset and length. -/
def srcRun (amerge : Bool) (i : BitVec 512) (n : Nat) : Nat × Nat :=
  (cdSofs i,
   if amerge then cdCount i * recordLen (amHd i)
   else match cdKind i with
     | 1 => n * blockBytes i
     | 3 => if cdRank i = cdRoot i then blockBytes i else 0
     | 4 => 0
     | _ => blockBytes i)

/-- The runs that a member writes. -/
def dstRuns (amerge : Bool) (i : BitVec 512) (n : Nat) : List (Nat × Nat) :=
  if amerge then
    (cdDofs i, cdCount i * recordLen (amHd i)) :: (if amNorm i then [(amNofs i, cdCount i * normLen (amHd i))] else [])
  else [(cdDofs i, match cdKind i with | 2 => n * blockBytes i | 4 => 0 | _ => blockBytes i)]

/-- The fields in which members must agree (R370, R384). -/
structure CollKey where
  amerge : Bool
  kind : Nat
  rop : Nat
  ety : Nat
  count : Nat
  root : Nat
  flags : Nat
  deriving DecidableEq, Repr

def collKey (amerge : Bool) (i : BitVec 512) : CollKey :=
  if amerge then ⟨true, 0, 0, amHd i, cdCount i, 0, amFlags i⟩ else ⟨false, cdKind i, cdRop i, cdEty i, cdCount i, cdRoot i, 0⟩

def remoteKey (r : RemoteRank) : CollKey := ⟨r.amerge, r.kind, r.rop, r.ety, r.count, r.root, r.flags⟩

/-! ### Reduction arithmetic (R371) -/

/-- Floating format of an ETY. -/
def etyFmt : Nat → Option Fmt
  | 0 => some fp32 | 1 => some fp16 | 2 => some bf16 | _ => none

/-- A subnormal contribution is +0. -/
def Fmt.ingress (f : Fmt) (x : Nat) : Nat := if x % f.sign < 2 ^ f.mb && x % f.sign != 0 then 0 else x

/-- One node of the tree. -/
def collCombine (ety rop a b : Nat) : Nat :=
  match etyFmt ety with
  | some f =>
    let x := f.decode a
    let y := f.decode b
    f.encode .rne 0 (match rop with | 0 => sumFV .rne [x, y] | 1 => FV.min x y | _ => FV.max x y)
  | none =>
    let w := 8 * etyBytes ety
    let sg := ety == 3 || ety == 5
    match rop with
    | 0 => (a + b) % 2 ^ w
    | 1 => if toInt sg w b < toInt sg w a then b else a
    | 2 => if toInt sg w a < toInt sg w b then b else a
    | 3 => a &&& b
    | 4 => a ||| b
    | _ => a ^^^ b

/-- Combine neighbours: one step of the tree. -/
def pairStep {α : Type} (fn : α → α → α) : List α → List α
  | a :: b :: l => fn a b :: pairStep fn l
  | l => l

/-- The fixed binary tree over contributions in rank order. -/
def treeFold {α : Type} (fn : α → α → α) : Nat → List α → List α
  | 0, l => l
  | n + 1, l => treeFold fn n (pairStep fn l)

/-- Reduce one element's contributions, in rank order; a NaN result is canonical. -/
def collReduce (ety rop : Nat) (l : List Nat) : Nat :=
  match etyFmt ety with
  | some f =>
    let r := (treeFold (collCombine ety rop) l.length (l.map f.ingress)).headD 0
    if (f.decode r).isNan then f.cnan else r
  | none => (treeFold (collCombine ety rop) l.length l).headD 0

/-! ### Attention triples (R379 to R382) -/

/-- A triple's FP32 codes. -/
structure Triple where
  m : Nat
  s : Nat
  v : List Nat
  deriving DecidableEq, Repr

def ninf32 : Nat := 0xFF800000
def f32 (x : Nat) : FV := fp32.decode x
def add32 (a b : Nat) : Nat := fp32.encode .rne 0 (sumFV .rne [f32 a, f32 b])
def mul32 (a b : Nat) : Nat := fp32.encode .rne 0 ((f32 a).mul (f32 b))

/-- Division rounded once. -/
def div32 (a b : Nat) : Nat :=
  let s := (f32 a).sign != (f32 b).sign
  match f32 a, f32 b with
  | .nan _ _, _ => fp32.cnan
  | _, .nan _ _ => fp32.cnan
  | .inf _, .inf _ => fp32.cnan
  | .inf _, .fin _ _ _ => fp32.infCode s
  | .fin _ _ _, .inf _ => fp32.withSign s 0
  | .fin _ m e, .fin _ n k =>
    if n = 0 then (if m = 0 then fp32.cnan else fp32.infCode s)
    else if m = 0 then fp32.withSign s 0
    else fp32.round .rne 0 s ⟨m, n, e - k⟩

/-- The largest number of at most `k` bits whose 256th power is at most `n`. -/
def root256 : Nat → Nat → Nat → Nat
  | 0, _, r => r
  | k + 1, n, r => let c := r + 2 ^ k; root256 k n (if c ^ 256 ≤ n then c else r)

/-- tab[k]: the FP32 value nearest to `2^(k/256)`. -/
def tab (k : Nat) : FV := .fin false ((root256 26 (2 ^ (256 * 24 + k)) 0 + 1) / 2) (-23)

/-- A dyadic number rounded to an integer, ties to even. -/
def Dy.rne (x : Dy) : Int :=
  if 0 ≤ x.e then shl x.n x.e
  else
    let d := 2 ^ (-x.e).toNat
    let q := x.n.natAbs / d
    let r := x.n.natAbs % d
    let m := if 2 * r < d || (2 * r == d && q % 2 == 0) then q else q + 1
    if x.n < 0 then -(m : Int) else m

/-- EXP2Q of an exact difference (R380). -/
def exp2q (d : Dy) : Nat :=
  if (d.add ⟨150, 0⟩).n < 0 then 0
  else
    let q := Dy.rne ⟨d.n, d.e + 23⟩
    let e := q / 2 ^ 23
    let j := (q - e * 2 ^ 23).toNat
    let y : FV := .fin false (j % 2 ^ 15) (-23)
    let t := fp32.encode .rne 0 (sumFV .rne [(f32 0x3E75FDF0).mul y, f32 0x3F317218])
    let p := fp32.encode .rne 0 (sumFV .rne [(f32 t).mul y, f32 0x3F800000])
    fp32.encode .rne 0 (((tab (j / 2 ^ 15)).mul (f32 p)).mul (.fin false 1 e))

/-- The factor of the smaller side. -/
def mergeFactor (small big : Nat) : Nat :=
  match f32 small, f32 big with
  | .fin s m e, .fin t n k => exp2q ((⟨signed s m, e⟩ : Dy).add ⟨-signed t n, k⟩)
  | _, _ => 0

/-- Merge two triples, `a` on the left (R381). -/
def merge (a b : Triple) : Triple :=
  if (f32 a.m).isNan || (f32 b.m).isNan then ⟨fp32.cnan, fp32.cnan, a.v.map (fun _ => fp32.cnan)⟩
  else if a.m = ninf32 && b.m = ninf32 then ⟨ninf32, 0, a.v.map (fun _ => 0)⟩
  else if a.m = ninf32 then b
  else if b.m = ninf32 then a
  else if (f32 a.m).eq (f32 b.m) then
    ⟨fp32.encode .rne 0 (FV.max (f32 a.m) (f32 b.m)), add32 a.s b.s, List.zipWith add32 a.v b.v⟩
  else
    let ab := (f32 b.m).lt (f32 a.m)
    let big := if ab then a else b
    let small := if ab then b else a
    let f := mergeFactor small.m big.m
    ⟨big.m, add32 big.s (mul32 small.s f), List.zipWith (fun x y => add32 x (mul32 y f)) big.v small.v⟩

/-- The triples of one row of every rank merged over the tree; a masked result has zero s and v. -/
def mergeRow (l : List Triple) : Triple :=
  let r := (treeFold merge l.length l).headD ⟨ninf32, 0, []⟩
  if r.m = ninf32 then ⟨ninf32, 0, r.v.map (fun _ => 0)⟩ else r

/-- Normalised row (R382). -/
def normRow (t : Triple) : List Nat := if t.s % 2 ^ 31 = 0 then t.v.map (fun _ => 0) else t.v.map (fun v => div32 v t.s)

/-! ### Values of an instance -/

/-- A rank's contribution: its bytes and its poisoned elements. -/
structure Contrib where
  bytes : List Byte
  poison : List Nat

/-- The element of `w` bytes at place `k`. -/
def elemOf (b : List Byte) (w k : Nat) : Nat := leNat ((b.drop (w * k)).take w)

def padTo (n : Nat) (b : List Byte) : List Byte := (b ++ List.replicate n 0).take n

/-- The bytes that a member of a COLL writes, by place of an element, with poison: elements in order. A BCAST whose ROOT is no rank writes
free bytes (log 32). -/
def collElems (i : BitVec 512) (cs : List Contrib) : List (Nat × Bool) :=
  let w := etyBytes (cdEty i)
  let n := cdCount i
  let reduced (base : Nat) : List (Nat × Bool) := (List.range n).map (fun e =>
    (collReduce (cdEty i) (cdRop i) (cs.map (fun c => elemOf c.bytes w (base + e))), cs.any (fun c => c.poison.contains (base + e))))
  let copied (c : Contrib) : List (Nat × Bool) := (List.range n).map (fun e => (elemOf c.bytes w e, c.poison.contains e))
  match cdKind i with
  | 0 => reduced 0
  | 1 => reduced (cdRank i * n)
  | 2 => cs.flatMap copied
  | 3 =>
    match cs[cdRoot i]? with
    | some c => copied c
    | none => (List.range n).map (fun e => (leNat ((List.range w).map (fun k => Config.peerByte 0 (cdTag i).toNat (w * e + k))), false))
  | _ => []

/-- Row `r` of a contribution to an AMERGE. -/
def tripleOf (hd : Nat) (b : List Byte) (r : Nat) : Triple :=
  let row := (b.drop (r * recordLen hd)).take (8 + 4 * hd)
  ⟨elemOf row 4 0, elemOf row 4 1, (List.range hd).map (fun e => elemOf row 4 (2 + e))⟩

/-- Fields of row `r` that are poisoned in the merged row: every one where an M or S is, else those of poisoned V. -/
def rowPoison (hd r : Nat) (cs : List Contrib) (field : Nat) : Bool :=
  let at_ (k : Nat) : Bool := cs.any (fun c => c.poison.contains (r * (hd + 2) + k))
  at_ 0 || at_ 1 || at_ field

/-- What a member writes: offset, bytes, and whether they are poisoned. -/
def collWrites (amerge : Bool) (i : BitVec 512) (cs : List Contrib) : List (Nat × List Byte × Bool) :=
  if amerge then
    let hd := amHd i
    (List.range (cdCount i)).flatMap (fun r =>
      let t := mergeRow (cs.map (fun c => tripleOf hd c.bytes r))
      let fields := t.m :: t.s :: t.v
      let row := fields.zipIdx.map (fun e => (cdDofs i + r * recordLen hd + 4 * e.2, toLE 4 e.1, rowPoison hd r cs e.2))
      let pad := List.replicate (recordLen hd - 8 - 4 * hd) (0 : Byte)
      let norm := (normRow t).zipIdx.map (fun e => (amNofs i + r * normLen hd + 4 * e.2, toLE 4 e.1, rowPoison hd r cs (e.2 + 2)))
      let npad := List.replicate (normLen hd - 4 * hd) (0 : Byte)
      row ++ [(cdDofs i + r * recordLen hd + 8 + 4 * hd, pad, false)] ++
        (if amNorm i then norm ++ [(amNofs i + r * normLen hd + 4 * hd, npad, false)] else []))
  else
    let w := etyBytes (cdEty i)
    (collElems i cs).zipIdx.map (fun e => (cdDofs i + w * e.2, toLE w e.1.1, e.1.2))

/-! ### Communicators and instances (R367, R370) -/

/-- Device of a rank of a communicator; its own where the object cannot be read. -/
def State.rankDevice (s : State) (comm : DWord) (r : Nat) : Nat := ((s.objNat comm (64 + 4 * r) 4).map (· % 256)).getD s.devnum

/-- The request for in-switch combining is made (R372). -/
def State.inSwitch (s : State) (comm : DWord) (nmem : Nat) : Bool :=
  let fl := (s.objNat comm 4 4).getD 0
  let devs := (((List.range nmem).map (s.rankDevice comm)).filter (· != s.devnum)).eraseDups
  bit fl 0 && !devs.isEmpty && devs.all (fun d => bit (Cells.get 0 s.routes d).toNat 24) &&
    devs.all (fun d => (s.portsUp d).all (fun p => (s.port p).order == 1)) && (!bit fl 1 || bit fl 2)

/-- A member has arrived: every group of its workgroup that has not exited has issued, or one differed (R374). -/
def State.collArrived (s : State) (m : CollMember) : Bool :=
  m.mismatch ||
    (match m.wg with
     | none => true
     | some w => (s.wgOf w).members.all (fun g => m.gids.any (fun x => x.1 == g)))

/-- The instance that a new member with this rank joins: the one that names the communicator and the TAG and has not started, or that
ended early and has not seen the rank. -/
def State.findColl (s : State) (comm : DWord) (tag : Word) (rank : Nat) : Option Nat :=
  (s.colls.find? (fun e => e.2.live && e.2.comm == comm && e.2.tag == tag &&
    (e.2.status.isNone || ((e.2.status == some 2 || e.2.status == some 3) && !e.2.members.any (fun m => m.rank == rank))))).map Prod.fst

/-- Add a member; a new instance where there is none. -/
def State.collJoin (s : State) (comm : DWord) (nmem : Nat) (m : CollMember) : Nat × State :=
  match s.findColl comm (cdTag m.image) m.rank with
  | some i => let c := s.coll i; (i, s.setColl i { c with members := c.members ++ [m] })
  | none =>
    let (i, s) := s.fresh
    (i, s.setColl i { CollInst.blank with live := true, comm := comm, tag := cdTag m.image, members := [m], nmem := nmem })

/-! ### COLL, AMERGE and COLLQ (R373 to R376, R384) -/

/-- The checks of R374 up to the communicator's, for the issuer's workgroup. -/
def State.collCheck (s : State) (amerge : Bool) (i : BitVec 512) : Chk :=
  let g := s.g
  let n := cdCcap i
  let c := g.kreg n
  if g.wg.isNone || (s.ctx g.ctx).colln = 0 then .trap .capinvalid
  else if !(if amerge then amFieldsOk i else collFieldsOk i 0) then .trap .illegal
  else if ((s.launch g.lid).lrec.tileAt (cdTile i)).2 = 0 then .trap .regrange
  else
    (Chk.when (Cells.get false g.miscPoison (miscKey 3 n)) (.trap .poison)).and
      ((s.accCheck (some (.obj c)) [rRead] 64 false [⟨0, 0⟩]).and
        (match s.portCheck g.ctx c 0 64 false with
         | some e => .trap e
         | none => .ok))

/-- The checks that depend on the communicator's bytes. -/
def State.collRunCheck (s : State) (amerge : Bool) (i : BitVec 512) (nmem dev : Nat) : Chk :=
  let g := s.g
  let size := ((s.launch g.lid).lrec.tileAt (cdTile i)).2
  let wsize := match g.wg with | some w => (s.wgOf w).size | none => 0
  let beyond (r : Nat × Nat) : Bool := size < r.1 + r.2
  let c := g.kreg (cdCcap i)
  Chk.when (cdAbofs i % 16 != 0 || wsize < cdAbofs i + 32 ||
      (amerge && (cdSofs i % 16 != 0 || cdDofs i % 16 != 0 || amNofs i % 16 != 0)) ||
      beyond (srcRun amerge i nmem) || (dstRuns amerge i nmem).any beyond || nmem ≤ cdRank i || !c.covers (64 + 4 * cdRank i) 4 ||
      (s.portCheck g.ctx c (64 + 4 * cdRank i) 4 false).isSome || dev != s.devnum)
    (.trap .capbound)

/-- A group of workgroup `w` issues: it takes its share of an early arrival, joins its workgroup's pending arrival, or begins one. -/
def State.collIssue (s : State) (w : Nat) (amerge : Bool) (i : BitVec 512) (comm : DWord) (nmem : Nat) : State :=
  let gid := s.cur
  let (op, s) := s.opStart gid 3
  let g := s.g
  match g.collShare with
  | inst :: rest =>
    let s := s.setG { g with collShare := rest }
    let c := s.coll inst
    if c.live && c.members.any (fun m => m.wg == some w && m.mismatch && !m.done) then
      s.setColl inst { c with members := c.members.map (fun m =>
        if m.wg == some w && m.mismatch && !m.done then { m with gids := m.gids ++ [(gid, op)] } else m) }
    else s.opDone gid op
  | [] =>
    let waiting := s.colls.filterMap (fun e =>
      match e.2.members.find? (fun m => e.2.live && m.wg == some w && !m.done && !s.collArrived m && !m.gids.any (fun x => x.1 == gid)) with
      | some m => some (e.1, m)
      | none => none)
    let order (m : CollMember) : Nat := ((m.gids.head?).map Prod.snd).getD 0
    let first := waiting.find? (fun e => waiting.all (fun x => order e.2 ≤ order x.2))
    match first with
    | some (inst, m) =>
      let differs := m.amerge != amerge || m.image != i
      let c := s.coll inst
      let m' := { m with gids := m.gids ++ [(gid, op)], mismatch := differs }
      let s := s.setColl inst { c with members := c.members.map (fun x => if x == m then m' else x) }
      if differs then
        ((s.wgOf w).members.filter (fun x => !m'.gids.any (fun y => y.1 == x))).foldl
          (fun s x => s.setGrp x { s.grp x with collShare := (s.grp x).collShare ++ [inst] }) s
      else s
    | none =>
      let m : CollMember := { rank := cdRank i, amerge := amerge, image := i, ctx := g.ctx, wg := some w, packet := none, lid := g.lid
                              gids := [(gid, op)], data := Cap.null, mismatch := false, source := none, poison := [], done := false, paused := none
                              pc := g.pc, seq := g.seq }
      let (inst, s) := s.collJoin comm nmem m
      let wg := s.wgOf w
      s.setWg w { wg with lastColl := (cdAbofs i, inst, nmem) :: wg.lastColl.filter (fun e => e.1 != cdAbofs i) }

/-- COLL and AMERGE: the communicator is read at issue, and the arrival is a release. -/
def State.collInstr (s : State) (op : Nat) (f : Fields) (amerge : Bool) : Host.Outcome State Fault Refusal :=
  s.uniform op f (fun s' =>
    let g := s'.g
    let i := g.image f.a
    let c := g.kreg (cdCcap i)
    let rank := cdRank i
    s.unless (s'.collCheck amerge i) f.len
      (match s'.loads (.obj c) 64 false false [⟨0, 0⟩], s'.loads (.obj c) 4 false false [⟨0, 64 + 4 * rank⟩] with
       | .fault va, _ => s.holdFault va false
       | .wait, _ => s.stall .instruction
       | .ok [(_, some l)] _, r =>
         let nmem := leNat ((l.take 4).map (fun x => (s'.ownByte x).1))
         let bad := l.any (fun x => (s'.ownByte x).2)
         if bad then s.poisonTrap (s'.levelOfAll g l) f.len
         else if nmem ≤ rank then s.unless (s'.collRunCheck amerge i nmem s'.devnum) f.len s
         else
           (match r with
            | .fault va => s.holdFault va false
            | .wait => s.stall .instruction
            | .ok ls _ =>
              let dev := match ls with | [(_, some l)] => (s'.loadNat l).1 % 256 | _ => 256
              s.unless (s'.collRunCheck amerge i nmem dev) f.len
                (s.releaseWait true
                  (if 255 ≤ g.count 3 then s.stall .waitc
                   else
                     match g.wg with
                     | none => s.trap .capinvalid f.len
                     | some w => let s' := s'.collIssue w amerge i c.name nmem; s'.done s'.g f.len)))
       | _, _ => s.trap .capinvalid f.len))

def execColl (f : Fields) (s : State) : Host.Outcome State Fault Refusal := s.collInstr 0x1F0 f false
def execAmerge (f : Fields) (s : State) : Host.Outcome State Fault Refusal := s.collInstr 0x1F2 f true

/-- Ranks that have arrived at an instance. -/
def State.arrivedRanks (s : State) (c : CollInst) : Nat := (c.members.filter (fun m => s.collArrived m)).length + c.remote.length

/-- Progress word of COLLQ (R376). -/
def State.collProgress (s : State) (w abofs : Nat) : Nat :=
  match (s.wgOf w).lastColl.find? (fun e => e.1 == abofs) with
  | none => 0
  | some (_, i, n) =>
    let c := s.coll i
    if c.live && c.members.any (fun m => m.wg == some w && !m.done) then
      (if c.status.isNone then 1 else 2) + 2 ^ 8 * (s.arrivedRanks c % 2 ^ 16)
    else 3 + 2 ^ 8 * (n % 2 ^ 16)

def execCollq (f : Fields) (s : State) : Host.Outcome State Fault Refusal :=
  s.uniform 0x1F1 f (fun s =>
    let g := s.g
    let v := match g.wg with | some w => s.collProgress w (g.uval f f.a) | none => 0
    s.done (g.write f.d 2 0 v) f.len)

/-! ### Steps of an instance -/

/-- Places of a long run, page by page. -/
def State.engineRun (s : State) (ctx : Nat) (c : Cap) (vault : Option Nat) (write : Bool) : Nat → Nat → Nat → Res
  | 0, _, _ => .ok []
  | k + 1, off, n =>
    if n = 0 then .ok []
    else
      match s.engineRes ctx c vault off (Nat.min n 65536) write with
      | .ok l =>
        (match State.engineRun s ctx c vault write k (off + 65536) (n - 65536) with
         | .ok r => .ok (l ++ r)
         | e => e)
      | e => e

/-- Places of a run of a member: in its tile register, or in its data capability's window (R368, R378). -/
def State.collPlaces (s : State) (m : CollMember) (r : Nat × Nat) (write : Bool) : Res :=
  match m.wg with
  | some w => s.engineRun m.ctx Cap.null (some w) write (r.2 / 65536 + 1) (((s.launch m.lid).lrec.tileAt (cdTile m.image)).1 + r.1) r.2
  | none => s.engineRun m.ctx m.data none write (r.2 / 65536 + 1) (m.data.start + r.1) r.2

/-- Elements of a run that hold a poisoned byte; an AMERGE counts fields of rows. -/
def poisonElems (m : CollMember) (bad : List Bool) : List Nat :=
  let idx := (bad.zipIdx.filter (fun e => e.1)).map Prod.snd
  if m.amerge then
    let hd := amHd m.image
    (idx.filterMap (fun k =>
      let r := k / recordLen hd
      let o := k % recordLen hd
      if o < 8 + 4 * hd then some (r * (hd + 2) + o / 4) else none)).eraseDups
  else (idx.map (· / etyBytes (cdEty m.image))).eraseDups

/-- An engine of a collective is paused by a fault; its record carries the debug name of the command (R343, R417). -/
def State.collPause (s : State) (i : Nat) (m : CollMember) (va : Nat) (write : Bool) : State :=
  let c := s.coll i
  let core := match m.wg with | some w => (s.wgOf w).core | none => 0
  let s := s.setColl i { c with members := c.members.map (fun x => if x == m then { m with paused := some va } else x) }
  { s with walks := s.walks ++ [⟨s.dieOf core, s.nextId, m.ctx, va, write, 3, (m.gids.headD (0, 0)).1, m.pc, m.seq⟩], nextId := s.nextId + 1 }

/-- What reading a source comes to; a failure has its status. -/
inductive SrcRead where
  | ok (m : CollMember)
  | pause (va : Nat)
  | fail (status : Nat)

/-- Status of an engine access that fails: LINKDOWN where the home cannot be reached (R362), else BROKEN. -/
def engineStatus (c : Cause) : Nat := if c = .poison then 3 else 2

def State.collSource (s : State) (n : Nat) (m : CollMember) : SrcRead :=
  match s.collPlaces m (srcRun m.amerge m.image n) false with
  | .ok l => .ok { m with source := some (l.map (fun x => s.byteAt x.2)), poison := poisonElems m (l.map (fun x => s.poisonAt x.2)) }
  | .fault va => .pause va
  | .async e => .fail (engineStatus e)

/-- Workgroups of a launch have all ended, so that its attached collective may read its source (R378). -/
def State.launchRan (s : State) (lid : Nat) : Bool :=
  let l := s.launch lid
  l.nWg ≤ l.nextWg && l.groups == 0 && !s.wgs.any (fun e => e.2.live && e.2.lid == lid && !e.2.members.isEmpty)

/-- The member is an attached collective. -/
def CollMember.attached (m : CollMember) : Bool := m.wg.isNone && m.packet.isNone

/-- Key of a communicator's key: its name and generation. -/
def keyIndex (name : DWord) (gen : Nat) : Nat := 256 * name.toNat + gen

/-- A member's contribution goes to the other devices of its communicator, encrypted where ENC is set (R367), with the marks of its elements (R435). -/
def State.contributeTo (s : State) (c : CollInst) (m : CollMember) : State :=
  let fl := (s.objNat c.comm 4 4).getD 0
  let key := Cells.get 0 s.commKeys (keyIndex c.comm (s.obj c.comm.toNat).gen)
  let data := m.source.getD []
  (s.otherDevices c.comm c.nmem).foldl (fun s d => s.send (.collData d m.rank (if bit fl 1 then Config.aesGcm key data else data) m.poison)) s

/-- The source of a member is an object of another device: it is asked for it. -/
def State.sourceAsk (s : State) (n : Nat) (m : CollMember) : State :=
  match s.collPlaces m (srcRun m.amerge m.image n) false with
  | .ok ((_, .peer k off) :: _) => s.send (.readPeer (s.obj k).home (.ofNat 64 k) off (srcRun m.amerge m.image n).2)
  | _ => s

/-- Read the sources of members from place `k` on that can be read now, and send them on; none where a page pauses one. -/
def State.gather (s : State) (i : Nat) : Nat → Nat → Except State State
  | 0, _ => .ok s
  | n + 1, k =>
    let c := s.coll i
    match c.members[k]? with
    | none => .ok s
    | some m =>
      if m.source.isSome || (m.attached && !s.launchRan m.lid) then State.gather s i n (k + 1)
      else
        match s.collSource c.nmem m with
        | .pause va => .error (s.collPause i m va false)
        | .fail st => State.gather (s.setColl i { c with status := some st, members := c.members.set k { m with source := some [] } }) i n (k + 1)
        | .ok m' => State.gather (((s.sourceAsk c.nmem m).setColl i { c with members := c.members.set k m' }).contributeTo c m') i n (k + 1)

/-- The traffic of an instance goes to a device whose paths are about to change, so it waits: of its communicator, or of a packet's data (R361). -/
def State.collHeld (s : State) (c : CollInst) : Bool :=
  (s.otherDevices c.comm c.nmem).any s.onHold || c.members.any (fun m => m.data.tag && s.held (.peer (objKey m.ctx m.data.name) 0))

/-- Every arrived member's context runs, and no path of its traffic is on hold: a pre-empted one stops its collective kernels (R361, R377). -/
def State.collRuns (s : State) (c : CollInst) : Bool :=
  !s.collHeld c && c.members.all (fun m => m.paused.isNone && ((s.ctx m.ctx).state == .running || (s.ctx m.ctx).state == .killed || (s.ctx m.ctx).state == .lost))

/-- Status at the start (R370, R376): LINKDOWN, MISMATCH, or none. -/
def startStatus (c : CollInst) (cut : Bool) : Nat :=
  let keys := c.members.map (fun m => collKey m.amerge m.image) ++ c.remote.map remoteKey
  let ranks := c.members.map CollMember.rank ++ c.remote.map RemoteRank.rank
  if cut then 3
  else if c.members.any CollMember.mismatch || keys.any (fun k => some k != keys.head?) || !ranks.Nodup then 1
  else 0

/-- Every rank has arrived, with what the other devices' ranks bring; or another device aborts an instance that no member has completed, for a rank
of its own that was killed (R370, R376). -/
def execCollInstanceStart (i : Nat) (remote : List RemoteRank) (s : State) : Host.Outcome State Fault Refusal :=
  .next
    (let c := { s.coll i with remote := remote }
     let lost := (List.range c.nmem).filter (fun r => !s.reachable (s.rankDevice c.comm r))
     let ok := remote.all (fun r => r.rank < c.nmem && s.rankDevice c.comm r.rank != s.devnum && !lost.contains r.rank)
     if remote.any RemoteRank.killed then
       if !c.live || !ok || (c.status != none && c.status != some 0) || c.members.any CollMember.done then s
       else s.setColl i { s.coll i with status := some 2 }
     else if !c.live || c.status.isSome || !ok || !s.collRuns c || !c.members.all (fun m => s.collArrived m) ||
         c.members.length + remote.length + lost.length != c.nmem then s
     else
       let st := startStatus c (!lost.isEmpty)
       let fl := (s.objNat c.comm 4 4).getD 0
       let c := { c with status := some st, epred := bit fl 0 && !s.inSwitch c.comm c.nmem }
       let s' := s.setColl i c
       if st != 0 then s'
       else
         match s'.gather i c.members.length 0 with
         | .ok s' => s'
         | .error s' => { s' with colls := s'.colls.map (fun e => if e.1 == i then (e.1, { e.2 with status := none, remote := [] }) else e) })

/-- Contributions in rank order; none while a source is missing. -/
def CollInst.contribs (c : CollInst) : Option (List Contrib) :=
  allMapped ((List.range c.nmem).map (fun r =>
    match c.members.find? (fun m => m.rank == r) with
    | some m => m.source.map (fun b => ⟨b, m.poison⟩)
    | none => (c.remote.find? (fun x => x.rank == r)).map (fun x => ⟨x.source, x.poison⟩)))

/-- Write bytes of a member's destination, with the marks of poisoned ones; none while a race record cannot be written. -/
def State.collStore (s : State) (m : CollMember) (l : List (Option Nat × Loc)) (b : List Byte) (poison : List Bool) : Option State :=
  let core := match m.wg with | some w => (s.wgOf w).core | none => 0
  let gid := (m.gids.headD (0, 0)).1
  (s.engineWrite m.data l b 0 gid m.ctx m.lid core m.pc m.seq).map (fun s =>
    ((l.zip poison).filter (fun e => e.2)).foldl (fun s e => s.setPoison e.1.2 true) s)

/-- The destination of a member: places of each write, all of which must be mapped. -/
inductive DstRes where
  | ok (l : List (Option Nat × Loc))
  | pause (va : Nat)
  | fail (status : Nat)

def State.collDst (s : State) (m : CollMember) (n : Nat) : DstRes :=
  match Chk.all ((dstRuns m.amerge m.image n).map (fun r => match s.collPlaces m r true with | .ok _ => .ok | .fault va => .hold va | .async c => .trap c)) with
  | .ok => .ok ((dstRuns m.amerge m.image n).flatMap (fun r => match s.collPlaces m r true with | .ok l => l | _ => []))
  | .hold va => .pause va
  | .trap e => .fail (engineStatus e)
  | .wait _ => .fail 2

/-- Offsets of the destination's bytes, in the order of their places. -/
def dstOffsets (m : CollMember) (n : Nat) : List Nat := (dstRuns m.amerge m.image n).flatMap (fun r => (List.range r.2).map (r.1 + ·))

/-- Write a member's destination: with status OK or POISON every element, after BROKEN or LINKDOWN each one that a free draw picks,
after MISMATCH none (R370, R376). -/
def State.collWrite (s : State) (m : CollMember) (c : CollInst) (l : List (Option Nat × Loc)) : Option State :=
  match c.contribs, c.status with
  | some cs, some st =>
    let ws := (collWrites m.amerge m.image cs).zipIdx.filter (fun e => st == 0 || st == 4 || (st != 1 && bit (Config.choose s.freeCount (2 ^ (e.2 + 1))) e.2))
    let places := (dstOffsets m c.nmem).zip l
    let items := ws.flatMap (fun e => e.1.2.1.zipIdx.map (fun b => (e.1.1 + b.2, b.1, e.1.2.2)))
    let out := items.filterMap (fun x => (places.find? (fun p => p.1 == x.1)).map (fun p => (p.2, x.2.1, x.2.2)))
    s.collStore m (out.map (fun x => x.1)) (out.map (fun x => x.2.1)) (out.map (fun x => x.2.2))
  | _, _ => some s

/-- Some rank's M is NaN (R384). -/
def CollInst.mnan (c : CollInst) (m : CollMember) : Bool :=
  match c.contribs with
  | some cs => m.amerge && cs.any (fun x => (List.range (cdCount m.image)).any (fun r => (f32 (tripleOf (amHd m.image) x.bytes r).m).isNan))
  | none => false

/-- Steps 4 to 6 of R375 for a member: status granule, arrival on the ABAR object, counters; or the packet's completion. -/
def State.collFinish (s : State) (i k : Nat) (m : CollMember) (c : CollInst) : Option State :=
  let st := c.status.getD 0
  let s := match m.wg with
    | some w =>
      let wg := s.wgOf w
      if !wg.live || wg.killed then s
      else
        let word := st + 2 ^ 8 * c.epred.toNat + 2 ^ 9 * (c.mnan m).toNat + 2 ^ 32 * (cdTag m.image).toNat
        let gr := cdAbofs m.image + 16
        let l := (List.range 16).map (fun x => Loc.vault w (gr + x))
        let s := (s.store (l.zip (toLE 16 word)) false).setFull [Loc.vault w gr]
        let a := cdAbofs m.image
        let s := if s.abarLive w a && !s.abarBroken w a then s.abarStep w a else s
        let wg := s.wgOf w
        s.setWg w { wg with lastColl := wg.lastColl.map (fun (e : Nat × Nat × Nat) => if e.2.1 == i then (e.1, i, c.members.length + c.remote.length) else e) }
    | none => s
  let s := m.gids.foldl (fun s x => s.opDone x.1 x.2) s
  let s' : Option State := match m.packet with
    | some (q, n) => s.packetDone m.ctx q n (if st = 0 then stOk else stCopyErr) st
    | none => some s
  s'.map (fun s =>
    let c := { c with members := c.members.set k { m with done := true } }
    let early := c.status == some 2 || c.status == some 3
    let locals := ((List.range c.nmem).filter (fun r => s.rankDevice c.comm r == s.devnum)).length
    let s := if c.members.all CollMember.done && (!early || locals ≤ c.members.length) then s.setColl i CollInst.blank else s.setColl i c
    match m.wg with | some w => s.reap w | none => s)

def execCollInstanceComplete (i k : Nat) (s : State) : Host.Outcome State Fault Refusal :=
  .next
    (let c := s.coll i
     match c.members[k]?, c.status with
     | some m, some st =>
       if !c.live || m.done || !s.collRuns c || !s.collArrived m || (m.attached && !s.launchRan m.lid) then s
       else
         match (if st = 0 then s.gather i c.members.length 0 else .ok s) with
         | .error s' => s'
         | .ok s' =>
           let c := s'.coll i
           let m := (c.members[k]?).getD m
           let cut := c.remote.any (fun r => !s'.reachable (s'.rankDevice c.comm r.rank))
           let bad := (match c.contribs with | some cs => cs.any (fun x => !x.poison.isEmpty) | none => false)
           let c := if c.status = some 0 && cut && !c.members.any CollMember.done then { c with status := some 3 }
             else if c.status = some 0 && bad then { c with status := some 4 } else c
           let dead := (match m.wg with | some w => !(s'.wgOf w).live || (s'.wgOf w).killed | none => false)
           if c.status = some 0 && c.contribs.isNone then s
           else if dead || c.status = some 1 then (s'.collFinish i k m c).getD s
           else
             match s'.collDst m c.nmem with
             | .pause va => s'.collPause i m va true
             | .fail st => (s'.collFinish i k m { c with status := some st }).getD s
             | .ok l => ((s'.collWrite m c l).bind (fun s' => s'.collFinish i k m c)).getD s
     | _, _ => s)

/-! ### COLL packets and attached collectives (R328, R378) -/

/-- A descriptor of a packet or of COLLD passes the rules of its communicator and its data window: the member count. -/
def State.collDesc (s : State) (ctx : Nat) (i : BitVec 512) (comm data : Cap) : Option Nat :=
  let n := (s.objNat comm.name 0 4).getD 0
  let r := cdRank i
  let inside (x : Nat × Nat) : Bool := x.1 + x.2 ≤ data.length
  if comm.tag && comm.has rRead && comm.covers 0 (64 + 4 * r + 4) && (s.portCheck ctx comm 0 (64 + 4 * r + 4) false).isNone && r < n &&
      s.rankDevice comm.name r == s.devnum && data.tag && data.has rRead && data.has rWrite && inside (srcRun false i n) &&
      (dstRuns false i n).all inside then some n else none

/-- A member that a packet or a launch contributes. -/
def State.collMember (s : State) (ctx lid : Nat) (packet : Option (Nat × Nat)) (i : BitVec 512) (comm data : Cap) (nmem : Nat) : Nat × State :=
  s.collJoin comm.name nmem { rank := cdRank i, amerge := false, image := i, ctx := ctx, wg := none, packet := packet, lid := lid, gids := [], data := data
                              mismatch := false, source := none, poison := [], done := false, paused := none, pc := 0, seq := 0 }

/-- What reading 64 bytes through a capability for the pilot comes to. -/
inductive PilotRead where
  | ok (img : List Byte)
  | bad
  | wait

def State.pilotRead (s : State) (ctx : Nat) (c : Cap) (off n : Nat) : PilotRead :=
  if !c.tag || !c.has rRead || !c.covers off n || (s.portCheck ctx c off n false).isSome || !s.reachable (s.obj (objKey ctx c.name)).home then .bad
  else
    match s.keyRun (objKey ctx c.name) off n with
    | none => .wait
    | some l => if l.any s.poisonAt then .bad else .ok (l.map s.byteAt)

/-- A wait that has just begun. -/
def State.raised (s t : State) : Option State := guardSome (t.engFaults.length != s.engFaults.length) (some t)

/-- The page that keeps the pilot from an access to an object of this device waits as an engine's access; `who` names the access (R343). -/
def State.pilotFault (s : State) (ctx : Nat) (c : Cap) (off n who : Nat) (write : Bool := false) : State :=
  s.keyFault (objKey ctx c.name) off n who write

/-- A communicator that the pilot may read, and whose page is not mapped: the wait for it; none where its bytes can be read, or never will (R328). -/
def State.commWait (s : State) (ctx : Nat) (comm : Cap) (r who : Nat) : Option State :=
  let n := 68 + 4 * r
  guardSome (comm.tag && comm.has rRead && comm.covers 0 n && (s.portCheck ctx comm 0 n false).isNone && (s.objRun comm.name 0 n).isNone)
    (some (s.pilotFault ctx comm 0 n who))

def execCollPacket (ctx q : Nat) (s0 : State) : Host.Outcome State Fault Refusal :=
  .next (s0.onPacket ctx q 5 (fun s d p =>
    let stop (st : Nat) : Option State := s.packetDone ctx q p.index st 0
    match s.queueCap d (imgBytes p.image 16 2) with
    | none => stop stBadCap
    | some c =>
      match s.pilotRead ctx c (imgBytes p.image 8 8) 64 with
      | .wait => some (s0.pilotFault ctx c (imgBytes p.image 8 8) 64 (accessId 0 q p.index))
      | .bad => stop stRecFault
      | .ok b =>
        let i : BitVec 512 := .ofNat 512 (leNat b)
        match s.queueCap d (cdCcap i), s.queueCap d (cdDcap i) with
        | some comm, some data =>
          if (s.ctx ctx).colln = 0 then stop 10
          else if !collFieldsOk i 1 then stop stBadPacket
          else
            match s0.commWait ctx comm (cdRank i) (accessId 0 q p.index), s.collDesc ctx i comm data with
            | some t, _ => some t
            | none, none => stop stBadPacket
            | none, some n => some (s.collMember ctx 0 (some (q, p.index)) i comm data n).2
        | _, _ => stop stBadCap))

end Sys2Proof.Machine
end

