-- ==== Sys2Proof/WellFormed.lean ====
section
/-! DEFINITION. Which instructions are well formed: the legal field values of R69 to R80, and the sub-operation field of an
opcode that has several rows of the opcode table. -/

namespace Sys2Proof

/-- Major opcode (R79) and fields of an instruction word; none for a step that is no instruction word. -/
def Instr.word : Instr → Option (Nat × Fields)
  | .add f => some (0x001, f)
  | .sub f => some (0x002, f)
  | .mul f => some (0x003, f)
  | .mulhi f => some (0x004, f)
  | .mad f => some (0x005, f)
  | .divn f => some (0x006, f)
  | .remn f => some (0x007, f)
  | .min f => some (0x008, f)
  | .max f => some (0x009, f)
  | .abs f => some (0x00A, f)
  | .neg f => some (0x00B, f)
  | .and f => some (0x010, f)
  | .or f => some (0x011, f)
  | .xor f => some (0x012, f)
  | .andn f => some (0x013, f)
  | .shl f => some (0x014, f)
  | .shr f => some (0x015, f)
  | .sar f => some (0x016, f)
  | .bfx f => some (0x017, f)
  | .bfi f => some (0x018, f)
  | .popc f => some (0x019, f)
  | .clz f => some (0x01A, f)
  | .ctz f => some (0x01B, f)
  | .brev f => some (0x01C, f)
  | .sel f => some (0x020, f)
  | .mov f => some (0x021, f)
  | .movi f => some (0x022, f)
  | .cmp f => some (0x023, f)
  | .fadd f => some (0x080, f)
  | .fsub f => some (0x081, f)
  | .fmul f => some (0x082, f)
  | .ffma f => some (0x083, f)
  | .fmin f => some (0x084, f)
  | .fmax f => some (0x085, f)
  | .fcmp f => some (0x086, f)
  | .fclass f => some (0x087, f)
  | .fdot2 f => some (0x088, f)
  | .frcp f => some (0x090, f)
  | .frsq f => some (0x091, f)
  | .fsqrt f => some (0x092, f)
  | .fexp2 f => some (0x093, f)
  | .flog2 f => some (0x094, f)
  | .fsinpi f => some (0x095, f)
  | .fcospi f => some (0x096, f)
  | .cvt f => some (0x0A0, f)
  | .cvtpk f => some (0x0A1, f)
  | .qpack f => some (0x0A2, f)
  | .qunpk f => some (0x0A3, f)
  | .scalegen f => some (0x0A4, f)
  | .pset f => some (0x100, f)
  | .plop f => some (0x101, f)
  | .pmov f => some (0x102, f)
  | .vote f => some (0x103, f)
  | .shfl f => some (0x110, f)
  | .swpair f => some (0x111, f)
  | .bcast f => some (0x112, f)
  | .redux f => some (0x113, f)
  | .scan f => some (0x114, f)
  | .matchAny f => some (0x115, f)
  | .ldx f => some (0x120, f)
  | .stx f => some (0x121, f)
  | .xset f => some (0x122, f)
  | .grow f => some (0x130, f)
  | .shrink f => some (0x131, f)
  | .allotq f => some (0x132, f)
  | .bra f => some (0x140, f)
  | .call f => some (0x141, f)
  | .brx f => some (0x142, f)
  | .join f => some (0x143, f)
  | .ret f => some (0x144, f)
  | .exit f => some (0x145, f)
  | .bkpt f => some (0x146, f)
  | .yield f => some (0x147, f)
  | .nop f => some (0x148, f)
  | .safept f => some (0x149, f)
  | .trap f => some (0x14A, f)
  | .smode f => some (0x160, f)
  | .gmode f => some (0x161, f)
  | .rdsys f => some (0x162, f)
  | .wrsys f => some (0x163, f)
  | .mmaf16x16x16 f => some (0x180, f)
  | .mmaf32x8x16 f => some (0x181, f)
  | .mmaf8x32x16 f => some (0x182, f)
  | .mmaf16x16x32 f => some (0x183, f)
  | .mmai f => some (0x184, f)
  | .mmaq f => some (0x185, f)
  | .ldfrag f => some (0x188, f)
  | .stfrag f => some (0x189, f)
  | .fragmov f => some (0x18A, f)
  | .tmma f => some (0x1A0, f)
  | .tcfgRing f => some (0x1A1, f)
  | .tcfgFree f => some (0x1A1, f)
  | .tscale f => some (0x1A2, f)
  | .taccrd f => some (0x1A3, f)
  | .taccwr f => some (0x1A4, f)
  | .tepi f => some (0x1A5, f)
  | .tstat f => some (0x1A6, f)
  | .tdrainWait f => some (0x1A7, f)
  | .tdrainAbort f => some (0x1A7, f)
  | .ld f => some (0x1C0, f)
  | .st f => some (0x1C1, f)
  | .ldt f => some (0x1C2, f)
  | .stt f => some (0x1C3, f)
  | .ldu f => some (0x1C4, f)
  | .atom f => some (0x1C5, f)
  | .red f => some (0x1C6, f)
  | .fence f => some (0x1C7, f)
  | .barSync f => some (0x1C8, f)
  | .barArrive f => some (0x1C8, f)
  | .barWait f => some (0x1C8, f)
  | .abarInit f => some (0x1C9, f)
  | .abarArrive f => some (0x1C9, f)
  | .abarWait f => some (0x1C9, f)
  | .abarSync f => some (0x1C9, f)
  | .abarInval f => some (0x1C9, f)
  | .waitc f => some (0x1CA, f)
  | .capld f => some (0x1CB, f)
  | .capst f => some (0x1CC, f)
  | .caprestr f => some (0x1CD, f)
  | .capq f => some (0x1CE, f)
  | .strmset f => some (0x1CF, f)
  | .strmctlStart f => some (0x1D0, f)
  | .strmctlStop f => some (0x1D0, f)
  | .strmctlQuery f => some (0x1D0, f)
  | .strmctlFree f => some (0x1D0, f)
  | .cpy f => some (0x1D1, f)
  | .bufacqFill f => some (0x1D2, f)
  | .bufacqDrain f => some (0x1D2, f)
  | .bufrelFill f => some (0x1D3, f)
  | .bufrelDrain f => some (0x1D3, f)
  | .bufwait f => some (0x1D4, f)
  | .bufstate f => some (0x1D5, f)
  | .pref f => some (0x1D6, f)
  | .llock f => some (0x1D7, f)
  | .lunlk f => some (0x1D8, f)
  | .spawn f => some (0x1E0, f)
  | .sync f => some (0x1E1, f)
  | .texit f => some (0x1E2, f)
  | .pedrd f => some (0x1E3, f)
  | .pedcmp f => some (0x1E4, f)
  | .rng f => some (0x1E5, f)
  | .alloco f => some (0x1E6, f)
  | .freeo f => some (0x1E7, f)
  | .logw f => some (0x1E8, f)
  | .rdecl f => some (0x1E9, f)
  | .rview f => some (0x1EA, f)
  | .racc f => some (0x1EB, f)
  | .rapp f => some (0x1EC, f)
  | .coll f => some (0x1F0, f)
  | .collq f => some (0x1F1, f)
  | .amerge f => some (0x1F2, f)
  | .qmeet f => some (0x1F3, f)
  | .qroundPoll f => some (0x1F4, f)
  | .qroundWait f => some (0x1F4, f)
  | .qresync f => some (0x1F5, f)
  | .launch f => some (0x1F6, f)
  | .postres f => some (0x1F7, f)
  | .evmark f => some (0x1F8, f)
  | .ctxopPreempt f => some (0x1F9, f)
  | .ctxopResume f => some (0x1F9, f)
  | .ctxopKill f => some (0x1F9, f)
  | .ctxopMapdone f => some (0x1F9, f)
  | .ctxopTlbinv f => some (0x1F9, f)
  | .ctxopTrapres f => some (0x1F9, f)
  | .ctxopFlags f => some (0x1F9, f)
  | .ctxopState f => some (0x1F9, f)
  | .unassignedOpcode _ => none
  | .storePerformed _ => none
  | .deferredResultWrite _ _ => none
  | .loadResultArrive _ _ => none
  | .pageWalk _ => none
  | .asyncTrapDeliver _ => none
  | .raceFilterCheck _ => none
  | .remoteWritePerformed _ => none
  | .hardPreemptCount _ => none
  | .hardPreemptWait _ => none
  | .workgroupDispatch _ => none
  | .berthFill _ => none
  | .stealRequest _ _ => none
  | .viewMerge _ => none
  | .streamReadAhead _ _ => none
  | .copyComplete _ => none
  | .mmaCommandStart _ => none
  | .mmaOperandSlot _ => none
  | .interruptionPoint _ => none
  | .tileCommandRetire _ => none
  | .epiCommand _ => none
  | .scaleCommand _ => none
  | .nopPacket _ _ => none
  | .launchPacket _ _ => none
  | .copyPacket _ _ => none
  | .depend _ _ => none
  | .dependComplete _ _ => none
  | .graph _ _ => none
  | .graphStep _ _ => none
  | .collPacket _ _ => none
  | .meetInit _ _ => none
  | .meetFini _ _ => none
  | .meetContrib _ _ => none
  | .meetResync _ _ => none
  | .queueRestart _ _ => none
  | .launchComplete _ => none
  | .collInstanceStart _ _ => none
  | .collInstanceComplete _ _ => none
  | .meetContribution _ => none
  | .flitReceive _ _ => none
  | .portRetrain _ _ => none
  | .portDown _ => none
  | .retrainRequest _ => none
  | .deviceNumberSet _ => none
  | .routeTableWrite _ _ => none
  | .rdmaWrite _ _ _ _ _ => none
  | .rdmaRead _ _ _ _ _ => none
  | .atomicFetchAdd _ _ _ _ _ => none
  | .atomicCompareSwap _ _ _ _ _ _ => none
  | .invalidRequestNak _ _ _ => none
  | .attest _ _ => none
  | .capsuleRead _ _ _ => none
  | .unlockChallenge _ => none
  | .unlock _ _ => none
  | .placecap _ _ _ _ => none
  | .objectCreate _ => none
  | .objectRevoke _ _ => none
  | .contextCreate _ _ _ _ _ => none
  | .contextDestroy _ => none
  | .retire _ _ => none
  | .scaleon _ => none
  | .revokeDebug _ => none
  | .commkey _ _ _ _ _ => none
  | .keyExchangeQuery _ => none
  | .keyInstall _ _ _ _ _ => none
  | .svnRaise _ _ => none
  | .deploy => none
  | .returnToken _ => none
  | .decommission _ => none
  | .thresholdSet _ _ _ => none
  | .powerCapSet _ => none
  | .errorRingSetup _ => none
  | .registrationWrite _ _ _ => none
  | .hostObjectWrite _ _ _ _ _ _ _ => none
  | .enumerationRead => none
  | .stop _ _ => none
  | .resume _ _ => none
  | .readreg _ _ _ => none
  | .writereg _ _ _ _ => none
  | .sampcfg _ _ _ => none
  | .sampleTag _ _ => none
  | .tick _ => none
  | .freezeMessage _ => none
  | .capsuleCollect => none
  | .errorDetect _ _ => none
  | .healthWindowExpire => none
  | .powerLimit _ => none
  | .thermalThrottle _ _ => none
  | .thermalTrip _ => none
  | .timeSliceSwitch _ _ => none
  | .coldReset _ _ _ _ => none
  | .warmReset _ _ _ _ => none
  | .powerLoss => none
  | .vendorProvisioning => none
  | .priorityFlowControlFrame _ _ _ => none
  | .congestionNotificationPacket _ _ => none

/-- The sub-operation that an instruction's constructor stands for is the one its fields hold. -/
def Instr.subOk : Instr → Bool
  | .add _ => true
  | .sub _ => true
  | .mul _ => true
  | .mulhi _ => true
  | .mad _ => true
  | .divn _ => true
  | .remn _ => true
  | .min _ => true
  | .max _ => true
  | .abs _ => true
  | .neg _ => true
  | .and _ => true
  | .or _ => true
  | .xor _ => true
  | .andn _ => true
  | .shl _ => true
  | .shr _ => true
  | .sar _ => true
  | .bfx _ => true
  | .bfi _ => true
  | .popc _ => true
  | .clz _ => true
  | .ctz _ => true
  | .brev _ => true
  | .sel _ => true
  | .mov _ => true
  | .movi _ => true
  | .cmp _ => true
  | .fadd _ => true
  | .fsub _ => true
  | .fmul _ => true
  | .ffma _ => true
  | .fmin _ => true
  | .fmax _ => true
  | .fcmp _ => true
  | .fclass _ => true
  | .fdot2 _ => true
  | .frcp _ => true
  | .frsq _ => true
  | .fsqrt _ => true
  | .fexp2 _ => true
  | .flog2 _ => true
  | .fsinpi _ => true
  | .fcospi _ => true
  | .cvt _ => true
  | .cvtpk _ => true
  | .qpack _ => true
  | .qunpk _ => true
  | .scalegen _ => true
  | .pset _ => true
  | .plop _ => true
  | .pmov _ => true
  | .vote _ => true
  | .shfl _ => true
  | .swpair _ => true
  | .bcast _ => true
  | .redux _ => true
  | .scan _ => true
  | .matchAny _ => true
  | .ldx _ => true
  | .stx _ => true
  | .xset _ => true
  | .grow _ => true
  | .shrink _ => true
  | .allotq _ => true
  | .bra _ => true
  | .call _ => true
  | .brx _ => true
  | .join _ => true
  | .ret _ => true
  | .exit _ => true
  | .bkpt _ => true
  | .yield _ => true
  | .nop _ => true
  | .safept _ => true
  | .trap _ => true
  | .smode _ => true
  | .gmode _ => true
  | .rdsys _ => true
  | .wrsys _ => true
  | .mmaf16x16x16 _ => true
  | .mmaf32x8x16 _ => true
  | .mmaf8x32x16 _ => true
  | .mmaf16x16x32 _ => true
  | .mmai _ => true
  | .mmaq _ => true
  | .ldfrag _ => true
  | .stfrag _ => true
  | .fragmov _ => true
  | .tmma _ => true
  | .tcfgRing f => f.ext.xsub == 0
  | .tcfgFree f => f.ext.xsub == 1
  | .tscale _ => true
  | .taccrd _ => true
  | .taccwr _ => true
  | .tepi _ => true
  | .tstat _ => true
  | .tdrainWait f => f.mod == 0
  | .tdrainAbort f => f.mod == 1
  | .ld _ => true
  | .st _ => true
  | .ldt _ => true
  | .stt _ => true
  | .ldu _ => true
  | .atom _ => true
  | .red _ => true
  | .fence _ => true
  | .barSync f => f.ext.xsub == 0
  | .barArrive f => f.ext.xsub == 1
  | .barWait f => f.ext.xsub == 2
  | .abarInit f => f.ext.xsub.toNat % 8 == 0
  | .abarArrive f => f.ext.xsub.toNat % 8 == 1
  | .abarWait f => f.ext.xsub.toNat % 8 == 2
  | .abarSync f => f.ext.xsub.toNat % 8 == 3
  | .abarInval f => f.ext.xsub.toNat % 8 == 4
  | .waitc _ => true
  | .capld _ => true
  | .capst _ => true
  | .caprestr _ => true
  | .capq _ => true
  | .strmset _ => true
  | .strmctlStart f => f.ext.xsub == 0
  | .strmctlStop f => f.ext.xsub == 1
  | .strmctlQuery f => f.ext.xsub == 2
  | .strmctlFree f => f.ext.xsub == 3
  | .cpy _ => true
  | .bufacqFill f => f.ext.xsub == 0
  | .bufacqDrain f => f.ext.xsub == 1
  | .bufrelFill f => f.ext.xsub == 0
  | .bufrelDrain f => f.ext.xsub == 1
  | .bufwait _ => true
  | .bufstate _ => true
  | .pref _ => true
  | .llock _ => true
  | .lunlk _ => true
  | .spawn _ => true
  | .sync _ => true
  | .texit _ => true
  | .pedrd _ => true
  | .pedcmp _ => true
  | .rng _ => true
  | .alloco _ => true
  | .freeo _ => true
  | .logw _ => true
  | .rdecl _ => true
  | .rview _ => true
  | .racc _ => true
  | .rapp _ => true
  | .coll _ => true
  | .collq _ => true
  | .amerge _ => true
  | .qmeet _ => true
  | .qroundPoll f => f.mod == 0
  | .qroundWait f => f.mod == 1
  | .qresync _ => true
  | .launch _ => true
  | .postres _ => true
  | .evmark _ => true
  | .ctxopPreempt f => f.ext.xsub == 0
  | .ctxopResume f => f.ext.xsub == 1
  | .ctxopKill f => f.ext.xsub == 2
  | .ctxopMapdone f => f.ext.xsub == 3
  | .ctxopTlbinv f => f.ext.xsub == 4
  | .ctxopTrapres f => f.ext.xsub == 5
  | .ctxopFlags f => f.ext.xsub == 6
  | .ctxopState f => f.ext.xsub == 7
  | .unassignedOpcode _ => true
  | .storePerformed _ => true
  | .deferredResultWrite _ _ => true
  | .loadResultArrive _ _ => true
  | .pageWalk _ => true
  | .asyncTrapDeliver _ => true
  | .raceFilterCheck _ => true
  | .remoteWritePerformed _ => true
  | .hardPreemptCount _ => true
  | .hardPreemptWait _ => true
  | .workgroupDispatch _ => true
  | .berthFill _ => true
  | .stealRequest _ _ => true
  | .viewMerge _ => true
  | .streamReadAhead _ _ => true
  | .copyComplete _ => true
  | .mmaCommandStart _ => true
  | .mmaOperandSlot _ => true
  | .interruptionPoint _ => true
  | .tileCommandRetire _ => true
  | .epiCommand _ => true
  | .scaleCommand _ => true
  | .nopPacket _ _ => true
  | .launchPacket _ _ => true
  | .copyPacket _ _ => true
  | .depend _ _ => true
  | .dependComplete _ _ => true
  | .graph _ _ => true
  | .graphStep _ _ => true
  | .collPacket _ _ => true
  | .meetInit _ _ => true
  | .meetFini _ _ => true
  | .meetContrib _ _ => true
  | .meetResync _ _ => true
  | .queueRestart _ _ => true
  | .launchComplete _ => true
  | .collInstanceStart _ _ => true
  | .collInstanceComplete _ _ => true
  | .meetContribution _ => true
  | .flitReceive _ _ => true
  | .portRetrain _ _ => true
  | .portDown _ => true
  | .retrainRequest _ => true
  | .deviceNumberSet _ => true
  | .routeTableWrite _ _ => true
  | .rdmaWrite _ _ _ _ _ => true
  | .rdmaRead _ _ _ _ _ => true
  | .atomicFetchAdd _ _ _ _ _ => true
  | .atomicCompareSwap _ _ _ _ _ _ => true
  | .invalidRequestNak _ _ _ => true
  | .attest _ _ => true
  | .capsuleRead _ _ _ => true
  | .unlockChallenge _ => true
  | .unlock _ _ => true
  | .placecap _ _ _ _ => true
  | .objectCreate _ => true
  | .objectRevoke _ _ => true
  | .contextCreate _ _ _ _ _ => true
  | .contextDestroy _ => true
  | .retire _ _ => true
  | .scaleon _ => true
  | .revokeDebug _ => true
  | .commkey _ _ _ _ _ => true
  | .keyExchangeQuery _ => true
  | .keyInstall _ _ _ _ _ => true
  | .svnRaise _ _ => true
  | .deploy => true
  | .returnToken _ => true
  | .decommission _ => true
  | .thresholdSet _ _ _ => true
  | .powerCapSet _ => true
  | .errorRingSetup _ => true
  | .registrationWrite _ _ _ => true
  | .hostObjectWrite _ _ _ _ _ _ _ => true
  | .enumerationRead => true
  | .stop _ _ => true
  | .resume _ _ => true
  | .readreg _ _ _ => true
  | .writereg _ _ _ _ => true
  | .sampcfg _ _ _ => true
  | .sampleTag _ _ => true
  | .tick _ => true
  | .freezeMessage _ => true
  | .capsuleCollect => true
  | .errorDetect _ _ => true
  | .healthWindowExpire => true
  | .powerLimit _ => true
  | .thermalThrottle _ _ => true
  | .thermalTrip _ => true
  | .timeSliceSwitch _ _ => true
  | .coldReset _ _ _ _ => true
  | .warmReset _ _ _ _ => true
  | .powerLoss => true
  | .vendorProvisioning => true
  | .priorityFlowControlFrame _ _ _ => true
  | .congestionNotificationPacket _ _ => true

/-- Well-formed instructions. -/
def Instr.wf (i : Instr) : Bool :=
  match i.word with
  | some (op, f) => (illegalField op f).isNone && i.subOk
  | none =>
    match i with
    | .unassignedOpcode w0 => unassigned w0
    | _ => true

end Sys2Proof
end

