-- ==== Sys2Proof/Decode.lean ====
section
/-! DEFINITION. From bytes to instructions (R66 to R80) and back. The decoder is total: it gives an instruction with its
length, or the name of the field that makes the word illegal. -/

namespace Sys2Proof

/-- Cut a number into fields of given widths, the lowest first. -/
def unpackBits : List Nat → Nat → List Nat
  | [], _ => []
  | w :: ws, n => n % 2 ^ w :: unpackBits ws (n / 2 ^ w)

/-- Join fields, given as width and value, the lowest first. -/
def packBits : List (Nat × Nat) → Nat
  | [] => 0
  | (w, v) :: l => v + 2 ^ w * packBits l

/-- Widths of the base word's fields (R69): LEN, OP, guard number, guard negation, U, D, A, B, C, RND, TY, HOLD, HE, FEX, MOD. -/
def baseWidths : List Nat := [2, 9, 3, 1, 1, 8, 8, 8, 8, 3, 4, 2, 2, 3, 2]

/-- Widths of the extension word's fields (R76): XSUB, OVF, FSLOTB, FSLOT, NUM2, NUM1. -/
def extWidths : List Nat := [8, 2, 3, 3, 8, 8]

/-- Rounding of an RND code (R52). -/
def rndOfCode : Nat → Option Rnd
  | 0 => some .dyn | 1 => some .rne | 2 => some .rtz | 3 => some .rdn | 4 => some .rup | 5 => some .rna | 6 => some .rsr | _ => none

def Rnd.code : Rnd → Nat
  | .dyn => 0 | .rne => 1 | .rtz => 2 | .rdn => 3 | .rup => 4 | .rna => 5 | .rsr => 6

/-- The extension word (R76). -/
def decodeExt (w : Nat) : Ext :=
  match unpackBits extWidths w with
  | [x, o, sb, s, n2, n1] => ⟨.ofNat 8 n1, .ofNat 8 n2, .ofNat 3 s, .ofNat 3 sb, .ofNat 2 o, .ofNat 8 x⟩
  | _ => ⟨0, 0, 0, 0, 0, 0⟩

def encodeExt (e : Ext) : Nat :=
  packBits [(8, e.xsub.toNat), (2, e.ovf.toNat), (3, e.fslotb.toNat), (3, e.fslot.toNat), (8, e.num2.toNat), (8, e.num1.toNat)]

/-- The words after the base word, where the instruction has `len` bytes (R75). `n` holds W2 and W3. -/
def decodeTail (op len n : Nat) : Tail :=
  if len = 8 then .none
  else if len = 12 then
    if op != 0x022 && (lenClass op == some .c || lenClass op == some .e) then .ext (decodeExt (n % 2 ^ 32))
    else .imm32 (.ofNat 32 n)
  else if op == 0x022 then .imm64 (.ofNat 64 n)
  else .extImm (decodeExt (n % 2 ^ 32)) (.ofNat 32 (n / 2 ^ 32))

def encodeTail : Tail → Nat
  | .none => 0
  | .imm32 w => w.toNat
  | .ext e => encodeExt e
  | .imm64 d => d.toNat
  | .extImm e w => encodeExt e + 2 ^ 32 * w.toNat

/-- Length of a LEN code; 64 bits for code 11, by R77. -/
def lenOfCode : Nat → Nat
  | 1 => 12 | 2 => 16 | _ => 8

def Fields.lenCode (f : Fields) : Nat :=
  match f.tail with
  | .none => 0
  | .imm32 _ => 1
  | .ext _ => 1
  | .imm64 _ => 2
  | .extImm _ _ => 2

/-- Opcode and fields of a word (R69). -/
def decodeFields (n : Nat) : Except Reject (Nat × Fields) :=
  match unpackBits baseWidths n with
  | [len, op, gn, gneg, u, d, a, b, c, rnd, ty, hold, he, fex, mod] =>
    match tyOfCode ty, rndOfCode rnd with
    | some ty, some rnd =>
      .ok (op, { gneg := gneg == 1, gnum := .ofNat 3 gn, u := u == 1, d := .ofNat 8 d, a := .ofNat 8 a, b := .ofNat 8 b, c := .ofNat 8 c,
                 rnd := rnd, ty := ty, hold := .ofNat 2 hold, he := .ofNat 2 he, fex := .ofNat 3 fex, mod := .ofNat 2 mod,
                 tail := decodeTail op (lenOfCode len) (n / 2 ^ 64) })
    | none, _ => .error .type
    | some _, none => .error .rounding
  | _ => .error .length

/-- The words of an instruction as one number (R69, R75). -/
def encodeFields (op : Nat) (f : Fields) : Nat :=
  packBits [(2, f.lenCode), (9, op), (3, f.gnum.toNat), (1, f.gneg.toNat), (1, f.u.toNat), (8, f.d.toNat), (8, f.a.toNat),
    (8, f.b.toNat), (8, f.c.toNat), (3, f.rnd.code), (4, f.ty.code), (2, f.hold.toNat), (2, f.he.toNat), (3, f.fex.toNat),
    (2, f.mod.toNat), (64, encodeTail f.tail)]

/-- The row of the opcode table that an opcode and its fields select; the sub-operation is in XSUB or MOD. -/
def build (op : Nat) (f : Fields) : Option Instr :=
  match op with
  | 0x001 => some (.add f)
  | 0x002 => some (.sub f)
  | 0x003 => some (.mul f)
  | 0x004 => some (.mulhi f)
  | 0x005 => some (.mad f)
  | 0x006 => some (.divn f)
  | 0x007 => some (.remn f)
  | 0x008 => some (.min f)
  | 0x009 => some (.max f)
  | 0x00A => some (.abs f)
  | 0x00B => some (.neg f)
  | 0x010 => some (.and f)
  | 0x011 => some (.or f)
  | 0x012 => some (.xor f)
  | 0x013 => some (.andn f)
  | 0x014 => some (.shl f)
  | 0x015 => some (.shr f)
  | 0x016 => some (.sar f)
  | 0x017 => some (.bfx f)
  | 0x018 => some (.bfi f)
  | 0x019 => some (.popc f)
  | 0x01A => some (.clz f)
  | 0x01B => some (.ctz f)
  | 0x01C => some (.brev f)
  | 0x020 => some (.sel f)
  | 0x021 => some (.mov f)
  | 0x022 => some (.movi f)
  | 0x023 => some (.cmp f)
  | 0x080 => some (.fadd f)
  | 0x081 => some (.fsub f)
  | 0x082 => some (.fmul f)
  | 0x083 => some (.ffma f)
  | 0x084 => some (.fmin f)
  | 0x085 => some (.fmax f)
  | 0x086 => some (.fcmp f)
  | 0x087 => some (.fclass f)
  | 0x088 => some (.fdot2 f)
  | 0x090 => some (.frcp f)
  | 0x091 => some (.frsq f)
  | 0x092 => some (.fsqrt f)
  | 0x093 => some (.fexp2 f)
  | 0x094 => some (.flog2 f)
  | 0x095 => some (.fsinpi f)
  | 0x096 => some (.fcospi f)
  | 0x0A0 => some (.cvt f)
  | 0x0A1 => some (.cvtpk f)
  | 0x0A2 => some (.qpack f)
  | 0x0A3 => some (.qunpk f)
  | 0x0A4 => some (.scalegen f)
  | 0x100 => some (.pset f)
  | 0x101 => some (.plop f)
  | 0x102 => some (.pmov f)
  | 0x103 => some (.vote f)
  | 0x110 => some (.shfl f)
  | 0x111 => some (.swpair f)
  | 0x112 => some (.bcast f)
  | 0x113 => some (.redux f)
  | 0x114 => some (.scan f)
  | 0x115 => some (.matchAny f)
  | 0x120 => some (.ldx f)
  | 0x121 => some (.stx f)
  | 0x122 => some (.xset f)
  | 0x130 => some (.grow f)
  | 0x131 => some (.shrink f)
  | 0x132 => some (.allotq f)
  | 0x140 => some (.bra f)
  | 0x141 => some (.call f)
  | 0x142 => some (.brx f)
  | 0x143 => some (.join f)
  | 0x144 => some (.ret f)
  | 0x145 => some (.exit f)
  | 0x146 => some (.bkpt f)
  | 0x147 => some (.yield f)
  | 0x148 => some (.nop f)
  | 0x149 => some (.safept f)
  | 0x14A => some (.trap f)
  | 0x160 => some (.smode f)
  | 0x161 => some (.gmode f)
  | 0x162 => some (.rdsys f)
  | 0x163 => some (.wrsys f)
  | 0x180 => some (.mmaf16x16x16 f)
  | 0x181 => some (.mmaf32x8x16 f)
  | 0x182 => some (.mmaf8x32x16 f)
  | 0x183 => some (.mmaf16x16x32 f)
  | 0x184 => some (.mmai f)
  | 0x185 => some (.mmaq f)
  | 0x188 => some (.ldfrag f)
  | 0x189 => some (.stfrag f)
  | 0x18A => some (.fragmov f)
  | 0x1A0 => some (.tmma f)
  | 0x1A1 =>
    match f.ext.xsub.toNat with
    | 0 => some (.tcfgRing f)
    | 1 => some (.tcfgFree f)
    | _ => none
  | 0x1A2 => some (.tscale f)
  | 0x1A3 => some (.taccrd f)
  | 0x1A4 => some (.taccwr f)
  | 0x1A5 => some (.tepi f)
  | 0x1A6 => some (.tstat f)
  | 0x1A7 =>
    match f.mod.toNat with
    | 0 => some (.tdrainWait f)
    | 1 => some (.tdrainAbort f)
    | _ => none
  | 0x1C0 => some (.ld f)
  | 0x1C1 => some (.st f)
  | 0x1C2 => some (.ldt f)
  | 0x1C3 => some (.stt f)
  | 0x1C4 => some (.ldu f)
  | 0x1C5 => some (.atom f)
  | 0x1C6 => some (.red f)
  | 0x1C7 => some (.fence f)
  | 0x1C8 =>
    match f.ext.xsub.toNat with
    | 0 => some (.barSync f)
    | 1 => some (.barArrive f)
    | 2 => some (.barWait f)
    | _ => none
  | 0x1C9 =>
    match f.ext.xsub.toNat % 8 with
    | 0 => some (.abarInit f)
    | 1 => some (.abarArrive f)
    | 2 => some (.abarWait f)
    | 3 => some (.abarSync f)
    | 4 => some (.abarInval f)
    | _ => none
  | 0x1CA => some (.waitc f)
  | 0x1CB => some (.capld f)
  | 0x1CC => some (.capst f)
  | 0x1CD => some (.caprestr f)
  | 0x1CE => some (.capq f)
  | 0x1CF => some (.strmset f)
  | 0x1D0 =>
    match f.ext.xsub.toNat with
    | 0 => some (.strmctlStart f)
    | 1 => some (.strmctlStop f)
    | 2 => some (.strmctlQuery f)
    | 3 => some (.strmctlFree f)
    | _ => none
  | 0x1D1 => some (.cpy f)
  | 0x1D2 =>
    match f.ext.xsub.toNat with
    | 0 => some (.bufacqFill f)
    | 1 => some (.bufacqDrain f)
    | _ => none
  | 0x1D3 =>
    match f.ext.xsub.toNat with
    | 0 => some (.bufrelFill f)
    | 1 => some (.bufrelDrain f)
    | _ => none
  | 0x1D4 => some (.bufwait f)
  | 0x1D5 => some (.bufstate f)
  | 0x1D6 => some (.pref f)
  | 0x1D7 => some (.llock f)
  | 0x1D8 => some (.lunlk f)
  | 0x1E0 => some (.spawn f)
  | 0x1E1 => some (.sync f)
  | 0x1E2 => some (.texit f)
  | 0x1E3 => some (.pedrd f)
  | 0x1E4 => some (.pedcmp f)
  | 0x1E5 => some (.rng f)
  | 0x1E6 => some (.alloco f)
  | 0x1E7 => some (.freeo f)
  | 0x1E8 => some (.logw f)
  | 0x1E9 => some (.rdecl f)
  | 0x1EA => some (.rview f)
  | 0x1EB => some (.racc f)
  | 0x1EC => some (.rapp f)
  | 0x1F0 => some (.coll f)
  | 0x1F1 => some (.collq f)
  | 0x1F2 => some (.amerge f)
  | 0x1F3 => some (.qmeet f)
  | 0x1F4 =>
    match f.mod.toNat with
    | 0 => some (.qroundPoll f)
    | 1 => some (.qroundWait f)
    | _ => none
  | 0x1F5 => some (.qresync f)
  | 0x1F6 => some (.launch f)
  | 0x1F7 => some (.postres f)
  | 0x1F8 => some (.evmark f)
  | 0x1F9 =>
    match f.ext.xsub.toNat with
    | 0 => some (.ctxopPreempt f)
    | 1 => some (.ctxopResume f)
    | 2 => some (.ctxopKill f)
    | 3 => some (.ctxopMapdone f)
    | 4 => some (.ctxopTlbinv f)
    | 5 => some (.ctxopTrapres f)
    | 6 => some (.ctxopFlags f)
    | 7 => some (.ctxopState f)
    | _ => none
  | _ => none

/-- The instruction that some bytes start with, and its length. -/
def decode (bs : List Byte) : Except Reject (Instr × Nat) :=
  let n := leNat (bs.take 16)
  let w0 : Word := .ofNat 32 n
  if unassigned w0 then .ok (.unassignedOpcode w0, lenOfCode (w0.toNat % 4))
  else
    match decodeFields n with
    | .error r => .error r
    | .ok (op, f) =>
      match illegalField op f with
      | some r => .error r
      | none =>
        match build op f with
        | some i => .ok (i, f.len)
        | none => .error .extension

/-- The bytes of an instruction word (R5, R66, R69); a step that is no instruction word has none. -/
def encode (i : Instr) : List Byte :=
  match i.word with
  | some (op, f) => toLE f.len (encodeFields op f)
  | none =>
    match i with
    | .unassignedOpcode w0 => toLE 8 w0.toNat
    | _ => []

/-- The instruction the decoder reads where the host gives its bits as a number. -/
def decodeTableWord (_nbits w : Nat) : Option Instr :=
  match decode (toLE 16 w) with
  | .ok (i, _) => some i
  | .error _ => none

end Sys2Proof
end

