-- ==== Sys2Proof/Machine/Meet.lean ====
section
/-! DEFINITION. Quorum meetings: the meeting unit, MEET packets, and QMEET, QROUND and QRESYNC (R385 to R396). -/

namespace Sys2Proof.Machine

/-! ### The meeting object (R385) -/

/-- A field of a meeting's header; zero where its page is not mapped. -/
def State.mt (s : State) (key off n : Nat) : Nat := (s.keyNat key off n).getD 0

def State.mtNmem (s : State) (key : Nat) : Nat := s.mt key 0 2
def State.mtK (s : State) (key : Nat) : Nat := s.mt key 2 2
def State.mtOp (s : State) (key : Nat) : Nat := s.mt key 4 1
def State.mtRn (s : State) (key : Nat) : Nat := 2 ^ s.mt key 5 1
def State.mtHd (s : State) (key : Nat) : Nat := s.mt key 6 2
def State.mtCount (s : State) (key : Nat) : Nat := s.mt key 8 4
def State.mtCur (s : State) (key : Nat) : Nat := s.mt key 12 4
def State.mtW (s : State) (key l : Nat) : Nat := s.mt key (16 + 4 * l) 4
def State.mtStale (s : State) (key : Nat) : Nat := s.mt key 48 8
def State.mtDevice (s : State) (key r : Nat) : Nat := s.mt key (64 + 8 * r) 1
def State.mtLag (s : State) (key r : Nat) : Nat := s.mt key (65 + 8 * r) 1 % 8

/-- Bytes of a result record. -/
def slotBytes (count : Nat) : Nat := 96 + 16 * ((count + 3) / 4)

/-- Offset of round `c`'s slot. -/
def State.mtSlot (s : State) (key c : Nat) : Nat :=
  1024 + 64 * s.mtNmem key * s.mtCount key + slotBytes (s.mtCount key) * (c % s.mtRn key)

/-- Write a number into a meeting object; the unit's own writes pass while ordinary ones are dropped. -/
def State.mtPut (s : State) (key off n v : Nat) : State :=
  match s.keyRun key off n true with
  | some l => (s.store (l.zip (toLE n v)) false).uncheckedWrite key off n
  | none => s

def State.mtWrite (s : State) (key off : Nat) (b : List Byte) : State :=
  match s.keyRun key off b.length true with
  | some l => (s.store (l.zip b) false).uncheckedWrite key off b.length
  | none => s

/-- The meeting answers: it is live and its context is neither killed nor lost (R391). -/
def State.mtLive (s : State) (key : Nat) : Bool :=
  let st := (s.ctx (s.obj key).ctx).state
  (s.meeting key).live && st != .killed && st != .lost

/-- The first address of some bytes of a meeting whose page the unit cannot use. -/
def State.mtGone (s : State) (key off n : Nat) : Option Nat :=
  let o := s.obj key
  match s.transRun o.ctx (o.vbase + off) n true with
  | .error va => some va
  | .ok _ => none

/-- The same of a live meeting's header, which says where its other bytes lie. -/
def State.mtHead (s : State) (key : Nat) : Option Nat := if s.mtLive key then s.mtGone key 0 1024 else none

/-- Offset of the stage buffer of a contribution. -/
def State.mtStage (s : State) (key q r : Nat) : Nat := 1024 + 4 * s.mtCount key * (16 * q + r % 16)

/-- The same of what a contribution that is taken uses: its stage buffer, and the result slots of the rounds that may close. -/
def State.mtTaken (s : State) (key q r : Nat) : Option Nat :=
  s.mtGone key (s.mtStage key q r) (4 * s.mtCount key) <|>
    (List.range 9).findSome? (fun d => s.mtGone key (s.mtSlot key (s.mtCur key + d)) (slotBytes (s.mtCount key)))

/-! ### Closing a round (R388) -/

def fma32 (a w x : Nat) : Nat := fp32.encode .rne 0 (sumFV .rne [f32 a, (f32 w).mul (f32 x)])
def canon32 (x : Nat) : Nat := if (f32 x).isNan then fp32.cnan else x

/-- Terms in ascending rank, and within a rank in ascending tag: a late term first. -/
def termBefore (a b : Term) : Bool := a.rank < b.rank || (a.rank == b.rank && b.lag ≤ a.lag)

def insertTerm (t : Term) : List Term → List Term
  | [] => [t]
  | a :: l => if termBefore a t then a :: insertTerm t l else t :: a :: l

def sortTerms (l : List Term) : List Term := l.foldr insertTerm []

/-- One word of a SUM over weights and words. -/
def meetSum : List (Nat × Nat) → Nat
  | [] => 0
  | (w, x) :: l => l.foldl (fun a e => fma32 a e.1 e.2) (mul32 w x)

def meetWeight (ws : List Nat) : Nat := (ws.drop 1).foldl add32 (ws.headD 0)

/-- The triples of a contribution's words. -/
def triplesOf (hd : Nat) (d : List Nat) : List Triple :=
  (List.range (d.length / (2 + hd))).map (fun r =>
    let t := d.drop (r * (2 + hd))
    ⟨t.headD 0, t.getD 1 0, (List.range hd).map (fun e => t.getD (2 + e) 0)⟩)

/-- A term's triple with its weight. -/
def weighTriple (w : Nat) (t : Triple) : Triple := ⟨t.m, mul32 w t.s, t.v.map (mul32 w)⟩

/-- The words of a round from its terms: weight and data. -/
def meetResult (op hd count : Nat) (l : List (Nat × List Nat)) : List Nat :=
  let word (i : Nat) : List (Nat × Nat) := l.map (fun e => (e.1, e.2.getD i 0))
  match op with
  | 0 => (List.range count).map (fun i => meetSum (word i))
  | 1 => (List.range count).map (fun i => div32 (meetSum (word i)) (meetWeight (l.map Prod.fst)))
  | 2 => (List.range count).map (fun i =>
      match (word i).map Prod.snd with
      | [] => 0
      | x :: r => canon32 (r.foldl (fun a y => fp32.encode .rne 0 (FV.max (f32 a) (f32 y))) x))
  | _ =>
    (List.range (count / (2 + hd))).flatMap (fun r =>
      match l.map (fun e => weighTriple e.1 ((triplesOf hd e.2).getD r ⟨ninf32, 0, []⟩)) with
      | [] => []
      | y :: ys =>
        let t := ys.foldl merge y
        let t := if t.m = ninf32 then ⟨ninf32, 0, t.v.map (fun _ => 0)⟩ else t
        canon32 t.m :: t.s :: t.v)

/-- ONTIME and LAGS of a round's terms. -/
def ontimeOf (l : List Term) : Nat := (((l.filter (fun t => t.lag == 0)).map (fun t => 2 ^ t.rank)).eraseDups).sum
def lagsOf (l : List Term) (r : Nat) : Nat := (((l.filter (fun t => t.rank == r && t.lag != 0)).map (fun t => 2 ^ (t.lag - 1))).eraseDups).sum

/-- Records of a meeting in its context's replay log (R390): TAG, ONTIME, LAGS by member and STALE. Their GID is the object's name (log 67). -/
structure RoundRec where
  tag : Nat
  ontime : Nat
  lags : List Nat
  stale : Nat

/-- LEN of such a record's entry. -/
def roundLen : Nat := 92

def State.roundRecs (s : State) (key : Nat) : List RoundRec :=
  let ctx := (s.obj key).ctx
  if !s.replaying ctx then []
  else
    ((s.replayLog (s.ctx ctx)).filter (fun e => e.2.1 == key % 2 ^ 64 && e.2.2.1 == 3 && e.2.2.2 == roundLen)).map (fun e =>
      let d := (s.replayData (s.ctx ctx) e.1 e.2.2.2).drop 8
      ⟨leNat (d.take 4), leNat ((d.drop 4).take 8), (List.range 64).map (fun r => (d.getD (12 + r) 0).toNat), leNat ((d.drop 76).take 8)⟩)

/-- The recorded round of a tag. -/
def State.roundRec (s : State) (key c : Nat) : Option RoundRec := (s.roundRecs key).find? (fun r => r.tag == c)

/-- Publish the current round; none while its replay record cannot be written. -/
def State.closeRound (s : State) (key : Nat) : Option State :=
  let m := s.meeting key
  let c := s.mtCur key
  let mine := sortTerms (m.terms.filter (fun t => t.dest == c))
  let count := s.mtCount key
  let res := meetResult (s.mtOp key) (s.mtHd key) count (mine.map (fun t => (s.mtW key t.lag, t.data.map BitVec.toNat)))
  let stale := match s.roundRec key c with | some r => r.stale | none => s.mtStale key
  let nan := res.any (fun x => (f32 x).isNan)
  let lags := (List.range 64).map (fun r => (BitVec.ofNat 8 (lagsOf mine r) : Byte))
  let slot := s.mtSlot key c
  let hd := toLE 8 (ontimeOf mine) ++ toLE 8 stale ++ toLE 8 0 ++ lags
  let data := padTo (slotBytes count - 96) (res.flatMap (toLE 4))
  let s := s.mtWrite key (slot + 8) (hd ++ data)
  let s := s.mtWrite key slot (toLE 4 c ++ toLE 4 (1 + 2 * nan.toNat))
  let s := s.mtPut key 12 4 ((c + 1) % 2 ^ 32)
  let s := s.setMeeting key { m with terms := m.terms.filter (fun t => t.dest != c)
                                     accepted := m.accepted.filter (fun a => (a.2 + 7 + 2 ^ 32 - (c + 1) % 2 ^ 32) % 2 ^ 32 < 2 ^ 31) }
  let ctx := (s.obj key).ctx
  if s.logging ctx && (s.objNat (s.ctx ctx).replay 0 1).getD 0 == 0 then
    s.replayRecord ctx (key % 2 ^ 64) c 3 (toLE 4 c ++ toLE 8 (ontimeOf mine) ++ lags ++ toLE 8 stale)
  else some s

/-- The current round is complete: exactly its recorded terms in replay, else K on-time terms. -/
def State.roundFull (s : State) (key : Nat) : Bool :=
  let c := s.mtCur key
  let mine := (s.meeting key).terms.filter (fun t => t.dest == c)
  match s.roundRec key c with
  | some r => ontimeOf mine == r.ontime && (List.range 64).all (fun q => lagsOf mine q == r.lags.getD q 0)
  | none => (mine.filter (fun t => t.lag == 0)).length == s.mtK key

/-- Close every complete round, in ascending order. -/
def State.closeRounds (s : State) (key : Nat) : Nat → Option State
  | 0 => some s
  | n + 1 => if s.roundFull key then (s.closeRound key).bind (fun s => State.closeRounds s key n) else some s

/-! ### Requests (R387, R392, R395) -/

/-- A status word. -/
def meetWord (code lag : Nat) (stale : Bool) (round : Nat) : DWord := .ofNat 64 (code + 2 ^ 8 * lag + 2 ^ 16 * stale.toNat + 2 ^ 32 * (round % 2 ^ 32))

/-- RET of the entry that the home device makes of the status word of a request of another device, or of a packet's (R390; log 67). -/
def foreignRet (r : MeetReq) : Nat := r.tag % 2 ^ 32 + 2 ^ 32 * (r.rank % 2 ^ 16) + 2 ^ 48 * (r.op % 256) + 2 ^ 56 * (r.dev % 256)

/-- The word that the log of the meeting's context still has for such a request in replay, and the entry's place (R390; log 67). -/
def State.foreignNext (s : State) (key : Nat) (r : MeetReq) : Option (DWord × Nat) :=
  let ctx := (s.obj key).ctx
  if !s.replaying ctx then none
  else
    ((s.replayLog (s.ctx ctx)).filter (fun e => e.2.1 == key % 2 ^ 64 && e.2.2.1 == 3 && e.2.2.2 == 16 && !(s.ctx ctx).replayUsed.contains e.1)).findSome?
      (fun e => let d := s.replayData (s.ctx ctx) e.1 16
                guardSome (leNat (d.take 8) == foreignRet r) (some (.ofNat 64 (leNat (d.drop 8)), e.1)))

/-- The status word of such a request: recorded, or taken from the log where it has one; none while its entry cannot be written (R390). -/
def State.foreignWord (s : State) (key : Nat) (r : MeetReq) (w : DWord) : Option (State × DWord) :=
  let ctx := (s.obj key).ctx
  if !s.logging ctx then some (s, w)
  else if (s.objNat (s.ctx ctx).replay 0 1).getD 0 = 1 then
    match s.foreignNext key r with
    | some (w', at_) => some (s.setCtx ctx { s.ctx ctx with replayUsed := at_ :: (s.ctx ctx).replayUsed }, w')
    | none => some (s, w)
  else (s.replayRecord ctx (key % 2 ^ 64) (foreignRet r) 3 (toLE 8 w.toNat)).map (fun s => (s, w))

/-- Where a contribution goes. -/
inductive Dest where
  | drop (code : Nat)
  | lagDrop (lag : Nat)
  | store (dest lag code : Nat)

/-- The decision of R387 for an admitted contribution. -/
def State.placeTerm (s : State) (key q r : Nat) : Dest :=
  let cur := s.mtCur key
  let m := s.meeting key
  let d := (r + 2 ^ 32 - cur) % 2 ^ 32
  let ahead := d < 2 ^ 31
  let ontime := (m.terms.filter (fun t => t.dest == r && t.lag == 0)).length
  if ahead && 7 < d then .drop 5
  else if m.accepted.contains (q, r) then .drop 4
  else if ahead && ontime < s.mtK key then .store r 0 0
  else
    let dest := if ahead then (r + 1) % 2 ^ 32 else cur
    let lag := (dest + 2 ^ 32 - r) % 2 ^ 32
    if 7 < (dest + 2 ^ 32 - cur) % 2 ^ 32 then .drop 5 else if s.mtLag key q < lag then .lagDrop (lag % 256) else .store dest lag 1

/-- Recorded rounds that are still to close. -/
def State.roundsAhead (s : State) (key : Nat) : Bool := (s.roundRecs key).any (fun x => (x.tag + 2 ^ 32 - s.mtCur key) % 2 ^ 32 < 2 ^ 31)

/-- The recorded round that holds a term of a contribution for which the log has no status word (R390). -/
def State.recordedRound (s : State) (key q r : Nat) : Option Dest :=
  let cur := s.mtCur key
  let open_ := (s.roundRecs key).filter (fun x => (x.tag + 2 ^ 32 - cur) % 2 ^ 32 < 2 ^ 31)
  open_.findSome? (fun x =>
    let lag := (x.tag + 2 ^ 32 - r) % 2 ^ 32
    if lag = 0 && bit x.ontime q then some (Dest.store x.tag 0 0)
    else if between 1 7 lag && bit (x.lags.getD q 0) (lag - 1) then some (Dest.store x.tag lag 1) else none)

/-- What a recorded status word says of its contribution (R390). -/
def recordedDest (w : DWord) : Dest :=
  let code := w.toNat % 256
  if code = 0 || code = 1 then .store (w.toNat / 2 ^ 32) (bits w.toNat 15 8) code else if code = 2 then .lagDrop (bits w.toNat 15 8) else .drop code

/-- The decision of a contribution that is admitted: in replay the recorded status word, else the recorded round, decides, and one that the log does
not know waits until the last recorded round has closed (R390); else the member must not be stale, and R387 decides. -/
def State.placeContribution (s : State) (key q r : Nat) (recorded : Option DWord) : Option Dest :=
  let twice := (s.meeting key).accepted.contains (q, r)
  match recorded, (if twice then none else s.recordedRound key q r) with
  | some w, _ => some (recordedDest w)
  | none, some d => some d
  | none, none => if s.roundsAhead key then none else some (if bit (s.mtStale key) q then .drop 3 else s.placeTerm key q r)

/-- The first address without a page of what a request uses: a contribution that is dropped uses the header only, a look at a round its slot
as well. -/
def State.mtFault (s : State) (key : Nat) (r : MeetReq) (recorded : Option DWord) : Option Nat :=
  s.mtHead key <|>
    (if !s.mtLive key then none
     else match r.op with
       | 0 =>
         if s.mtNmem key ≤ r.rank || s.mtDevice key r.rank != r.dev || r.data.length != s.mtCount key then none
         else (match s.placeContribution key r.rank r.tag recorded with | some (.store _ _ _) => s.mtTaken key r.rank r.tag | _ => none)
       | 1 => none
       | _ => s.mtGone key (s.mtSlot key r.tag) (slotBytes (s.mtCount key)))

/-- Free bytes for a stage buffer, whose contents the specification leaves undefined. -/
def State.scribbleStage (s : State) (key q r : Nat) : State :=
  let n := 4 * s.mtCount key
  let off := s.mtStage key q r
  s.mtWrite key off ((List.range n).map (fun i => Config.peerByte s.freeCount key (off + i)))

/-- Apply a contribution of `dev`; none while a replay record cannot be written, or the contribution waits for the recorded rounds. A LAGDROP answers
the lag that R387 computed, modulo 256 (R392; log 68). -/
def State.contribute (s : State) (key q r dev : Nat) (data : List Word) (recorded : Option DWord) : Option (State × DWord) :=
  let cur := s.mtCur key
  let stale := bit (s.mtStale key) q && q < s.mtNmem key
  if !s.mtLive key then some (s, meetWord 11 0 false cur)
  else if s.mtNmem key ≤ q || s.mtDevice key q != dev then some (s, meetWord 9 0 stale cur)
  else if data.length != s.mtCount key then some (s, meetWord 10 0 stale cur)
  else
    match s.placeContribution key q r recorded with
    | none => none
    | some (.drop code) => some (s, meetWord code 0 stale cur)
    | some (.lagDrop lag) => some ((if stale then s else s.mtPut key 48 8 (s.mtStale key + 2 ^ q)), meetWord 2 lag false cur)
    | some (.store dest lag code) =>
      let m := s.meeting key
      let s := s.scribbleStage key q r
      let s := s.setMeeting key { m with terms := m.terms ++ [⟨q, r, dest, lag, data⟩], accepted := (q, r) :: m.accepted }
      (s.closeRounds key 9).map (fun s => (s, meetWord code lag false dest))

/-- Apply a resync. -/
def State.resync (s : State) (key q dev : Nat) : State × DWord :=
  let cur := s.mtCur key
  let stale := bit (s.mtStale key) q && q < s.mtNmem key
  if !s.mtLive key then (s, meetWord 11 0 false cur)
  else if s.mtNmem key ≤ q || s.mtDevice key q != dev then (s, meetWord 9 0 stale cur)
  else ((if stale then s.mtPut key 48 8 (s.mtStale key - 2 ^ q) else s), meetWord 0 0 stale cur)

/-- The state of round `c` as QROUND sees it: status code. A slot with a later round's record says that round `c` is gone; any other that it
has not closed (R395). -/
def State.roundCode (s : State) (key c : Nat) : Nat :=
  let slot := s.mtSlot key c
  if !s.mtLive key then 11
  else if !bit (s.mt key (slot + 4) 4) 0 then 6
  else if s.mt key slot 4 == c then 0
  else if (s.mt key slot 4 + 2 ^ 32 - c) % 2 ^ 32 < 2 ^ 31 then 7
  else 6

/-- The bytes of round `c`'s record, at most `n`. -/
def State.roundBytes (s : State) (key c n : Nat) : List Byte :=
  (List.range (Nat.min n (slotBytes (s.mtCount key)))).map (fun i => .ofNat 8 (s.mt key (s.mtSlot key c + i) 1))

/-! ### MEET_CONTRIBUTION: the next request at the unit -/

/-- Give a waiting instruction its status word; its replay entry comes first (R403). None while that entry cannot be written. -/
def State.meetAnswer (s : State) (m : MeetWait) (w : DWord) : Option State :=
  let g := s.grp m.gid
  let s := { s with meetQ := s.meetQ.filter (· != m) }
  if g.status = .none then some s
  else
    (s.replayInput m.ctx g.logGid m.ret 3 (toLE 8 w.toNat)).map (fun r => r.1.meetDone m (.ofNat 64 (leNat (r.2.take 8))))

/-- A status word of a peer's meeting: any word that R392 allows for the operation (log 9). -/
def State.peerWord (s : State) (key op : Nat) : DWord :=
  let free (i : Nat) : Nat := (Config.peerByte s.freeCount key (2 ^ 41 + i)).toNat
  let codes := match op with | 0 => [0, 1, 2, 3, 4, 5, 9, 10, 11] | 1 => [0, 9, 11] | 2 => [0, 6, 7, 11] | _ => [0, 7, 11]
  let code := codes.getD (free 0 % codes.length) 0
  let lag := if code = 1 then free 1 % 7 + 1 else if code = 2 then free 1 % 256 else 0
  meetWord code lag (op < 2 && code != 2 && (code == 3 || bit (free 2) 0)) (free 3 + 2 ^ 8 * free 4 + 2 ^ 16 * free 5 + 2 ^ 24 * free 6)

/-- Copy a record to the requester, then answer. The copy is an engine write; a fault pauses it (R395). -/
def State.roundCopy (s : State) (m : MeetWait) (b : List Byte) (w : DWord) : State :=
  let g := s.grp m.gid
  match s.engineRun m.ctx m.copyTo none true (b.length / 65536 + 1) m.copyOfs b.length with
  | .fault va =>
    { s with
      meetQ := s.meetQ.map (fun x => if x == m then { m with paused := some va } else x)
      walks := s.walks ++ [⟨s.dieOf g.core, s.nextId, m.ctx, va, true, 3, m.gid, m.pc, m.seq⟩]
      nextId := s.nextId + 1 }
  | .async c => ((s.report m.gid c m.pc m.seq).meetAnswer m (meetWord 255 0 false 0)).getD s
  | .ok l =>
    if l.any (fun x => s.held x.2) then s
    else ((s.engineWrite m.copyTo l b g.entry m.gid m.ctx g.lid g.core m.pc m.seq).bind (fun s => s.meetAnswer m w)).getD s

/-- Act on the request in place `i` of the device's queue. A replay whose log has no word for it ends there (R404), and a request to a device whose
paths are about to change waits (R361). -/
def State.meetQueued (s : State) (i : Nat) : State :=
  match s.meetQ[i]? with
  | none => s
  | some m =>
    let key := objKey m.ctx m.req.obj
    let o := s.obj key
    let older := (s.meetQ.take i).any (fun x => x.gid == m.gid && !x.held)
    if m.paused.isSome || (older && !m.held) || (!m.held && s.onHold o.home) then s
    else if s.replaying m.ctx && (s.recordedWord m).isNone then s.markReplay m.ctx (s.grp m.gid).logGid m.ret
    else if !s.reachable o.home then (s.meetAnswer m (meetWord 12 0 false 0)).getD s
    else
      match s.portCheck m.ctx m.cap 0 0 false with
      | some c => ((s.report m.gid c m.pc m.seq).meetAnswer m (meetWord 255 0 false 0)).getD s
      | none =>
        let hold : State := { s with meetQ := s.meetQ.map (fun x => if x == m then { m with held := true } else x) }
        let told := s.recordedWord m
        if o.home != s.devnum then
          if m.req.op = 3 && !m.held then hold.send (.meetRequest o.home m.req)
          else
            let s' := if m.req.op = 3 then s else s.send (.meetRequest o.home m.req)
            let w := told.getD (s.peerWord key m.req.op)
            if 2 ≤ m.req.op && w.toNat % 256 = 0 then s'.roundCopy m (s.roundBytes key m.req.tag m.copyLen) w else (s'.meetAnswer m w).getD s
        else
          match s.mtFault key m.req told with
          | some va =>
            { s with
              meetQ := s.meetQ.map (fun x => if x == m then { m with paused := some va } else x)
              walks := s.walks ++ [⟨s.dieOf (s.grp m.gid).core, s.nextId, o.ctx, va, true, 3, m.gid, m.pc, m.seq⟩]
              nextId := s.nextId + 1 }
          | none =>
            match m.req.op with
            | 0 => ((s.contribute key m.req.rank m.req.tag m.req.dev m.req.data told).bind (fun r => r.1.meetAnswer m r.2)).getD s
            | 1 => let r := s.resync key m.req.rank m.req.dev; (r.1.meetAnswer m r.2).getD s
            | op =>
              let code := s.roundCode key m.req.tag
              let w := told.getD (meetWord code 0 false (s.mtCur key))
              let say := w.toNat % 256
              if code = 6 && (say = 0 || (say = 6 && op = 3)) then (if op = 3 then hold else s)
              else if say = 0 then s.roundCopy m (s.roundBytes key m.req.tag m.copyLen) w
              else (s.meetAnswer m w).getD s

/-! ### INIT and FINI (R391) -/

/-- Offset of the first field of a meeting header that breaks R385; reserved fields are ignored (R7). -/
def State.initCheck (s : State) (key : Nat) : Option Nat :=
  let n := s.mtNmem key
  let op := s.mtOp key
  let hd := s.mtHd key
  let fields : List (Nat × Bool) :=
    [(0, between 1 64 n), (2, between 1 n (s.mtK key)), (4, op ≤ 3), (5, between 1 8 (s.mt key 5 1)),
     (6, if op = 3 then between 1 1024 hd else hd == 0),
     (8, between 1 65536 (s.mtCount key) && (op != 3 || s.mtCount key % (2 + hd) == 0)),
     (16, s.mtW key 0 == 0x3F800000)]
  (fields.find? (fun e => !e.2)).map Prod.fst

/-- What INIT at the home device comes to. -/
inductive InitRes where
  | wait (va : Nat)
  | bad (detail : Nat)
  | ok (s : State)

/-- INIT at the home device: R385 is checked, STALE and the FLAGS of every slot are cleared, and LIVE is set. -/
def State.meetInit (s : State) (key : Nat) : InitRes :=
  match s.mtGone key 0 1024, s.initCheck key with
  | some va, _ => .wait va
  | none, some off => .bad off
  | none, none =>
    let rsz := slotBytes (s.mtCount key)
    let base := 1024 + 64 * s.mtNmem key * s.mtCount key
    if (s.obj key).extent < base + rsz * s.mtRn key then .bad 0xFFFFFF
    else
      let slots := (List.range (s.mtRn key)).map (fun i => base + rsz * i + 4)
      match slots.findSome? (fun o => s.mtGone key o 4) with
      | some va => .wait va
      | none =>
        let s := slots.foldl (fun s o => s.mtPut key o 4 0) (s.mtPut key 48 8 0)
        let s := s.mtPut key 56 1 (s.mt key 56 1 / 2 * 2 + 1)
        .ok (s.setMeeting key { Meeting.blank with live := true })

/-- FINI at the home device: LIVE is cleared, and the open rounds go. -/
def State.meetFini (s : State) (key : Nat) : State := (s.mtPut key 56 1 (s.mt key 56 1 / 2 * 2)).setMeeting key Meeting.blank

/-- Act on a request of another device; a waiting QROUND is not answered before its round closes. The status word is recorded, and in replay the
recorded one decides (R390). The answer to INIT has the status and DETAIL of its packet (log 9). -/
def State.meetRemote (s : State) (r : MeetReq) : State :=
  let key := s.meetKey r.obj
  let o := s.obj key
  let say (s : State) (w : DWord) (b : List Byte) : State := s.send (.meetStatus r.dev w b)
  let told := (s.foreignNext key r).map Prod.fst
  let answer (s' : State) (w : DWord) (b : List Byte) : State :=
    match s'.foreignWord key r w with | some (s', w) => say s' w b | none => s
  if r.dev == s.devnum || !s.reachable r.dev then s
  else if !o.live || o.home != s.devnum then say s (meetWord 255 0 false 0) []
  else if r.op ≤ 3 && (s.mtFault key r told).isSome then s
  else
    match r.op with
    | 0 => (match s.contribute key r.rank r.tag r.dev r.data told with | some (s', w) => answer s' w [] | none => s)
    | 1 => let x := s.resync key r.rank r.dev; answer x.1 x.2 []
    | 4 => (match s.meetInit key with
      | .wait _ => s
      | .bad detail => say s (.ofNat 64 (stBadPacket + 2 ^ 8 * detail)) []
      | .ok s => say s 0 [])
    | 5 => if (s.mtGone key 56 1).isSome then s else say (s.meetFini key) 0 []
    | op =>
      let code := s.roundCode key r.tag
      let w := told.getD (meetWord code 0 false (s.mtCur key))
      let done := w.toNat % 256 = 0
      if code = 6 && (op = 3 || done) then s
      else answer s w (if done then s.roundBytes key r.tag (slotBytes (s.mtCount key)) else [])

def execMeetContribution (src : MeetSource) (s : State) : Host.Outcome State Fault Refusal :=
  .next (match src with | .queued i => s.meetQueued i | .remote r => s.meetRemote r)

/-! ### QMEET, QROUND and QRESYNC (R392 to R396) -/

/-- Tag and rights of a k register. -/
def Cap.check (c : Cap) (rights : List Nat) : Chk := if !c.tag then .trap .capinvalid else Chk.when (!rights.all c.has) (.trap .caprights)

/-- Number of the s register that receives a status word; 48 stands for none. -/
def statusDst (code : BitVec 8) : Nat := if kindOf code = .s then opNum code else 48

/-- Queue a request of the current group; its destination is empty until the answer. A full replay log holds the instruction (R405). -/
def State.meetAsk (s : State) (f : Fields) (m : MeetWait) : State :=
  let g := s.g
  if !s.replayRoom m.ctx then s.stall .replayFull else
  let s := { s with meetQ := s.meetQ ++ [m] }
  s.done (if m.dst < 48 then { g with sEmpty := Cells.set false g.sEmpty m.dst true } else g) f.len

/-- A request of the current group. -/
def State.meetReq (s : State) (f : Fields) (op rank tag : Nat) (data : List Word) (copyTo : Cap) (copyOfs copyLen : Nat) : MeetWait :=
  let g := s.g
  let c := g.kreg f.ext.num1.toNat
  { req := ⟨c.name, op, rank, tag, data, s.devnum⟩, cap := c, gid := s.cur, dst := statusDst f.d, pc := g.pc, seq := g.seq, copyTo := copyTo
    copyOfs := copyOfs, copyLen := copyLen, packet := none, ctx := g.ctx, ret := g.retired.toNat, held := false, paused := none, skip := false }

def execQmeet (f : Fields) (s : State) : Host.Outcome State Fault Refusal :=
  s.uniform 0x1F3 f (fun s' =>
    let g := s'.g
    let a := g.uval f f.a
    let b := g.uval f f.b
    let n := g.uval f f.c
    let src := g.kreg f.ext.num2.toNat
    let chk := Chk.all [(g.kreg f.ext.num1.toNat).check [rRead, rWrite], src.check [rRead],
      Chk.when (!between 1 65536 n || b % 4 != 0 || !src.covers b (4 * n)) (.trap .capbound)]
    s.unless chk f.len
      (s.releaseWait true
        (let parts := (List.range ((4 * n + 65535) / 65536)).map (fun k =>
           s'.loads (.obj src) (Nat.min 65536 (4 * n - 65536 * k)) false false [⟨0, b + 65536 * k⟩])
         match parts.findSome? (fun p => match p with | .fault va => some va | _ => none) with
         | some va => s.holdFault va false
         | none =>
           if parts.any (fun p => match p with | .wait => true | _ => false) then s.stall .instruction
           else
             match parts.findSome? (fun p => match p with | .ok _ (c :: _) => some c | _ => none) with
             | some c =>
               (match (s'.report s'.cur c g.pc g.seq).replayInput g.ctx g.logGid g.retired.toNat 3 (toLE 8 255) with
                | none => s.stall .replayFull
                | some (s', w) => s'.done (s'.g.defer f.d 2 [(0, leNat (w.take 8), false)] false false false) f.len)
             | none =>
               let l := parts.flatMap (fun p => match p with | .ok [(_, some l)] _ => l | _ => [])
               if l.any (fun x => (s'.ownByte x).2) then s.poisonTrap (s'.levelOfAll g l) f.len
               else
                 let bytes := l.map (fun x => (s'.ownByte x).1)
                 let data := (List.range n).map (fun i => (.ofNat 32 (elemOf bytes 4 i) : Word))
                 s'.meetAsk f (s'.meetReq f 0 (bits a 47 32) (a % 2 ^ 32) data Cap.null 0 0))))

/-- QROUND with either operation. -/
def State.qround (s : State) (f : Fields) (op : Nat) : Host.Outcome State Fault Refusal :=
  s.uniform 0x1F4 f (fun s' =>
    let g := s'.g
    let b := g.uval f f.b
    let n := g.uval f f.c
    let dst := g.kreg f.ext.num2.toNat
    let chk := Chk.all [(g.kreg f.ext.num1.toNat).check [rRead, rWrite], dst.check [rWrite],
      Chk.when (n < 96 || n % 16 != 0 || b % 16 != 0 || !dst.covers b n) (.trap .capbound)]
    s.unless chk f.len (s'.meetAsk f (s'.meetReq f op 0 (g.uval f f.a % 2 ^ 32) [] dst b n)))

def execQroundPoll (f : Fields) (s : State) : Host.Outcome State Fault Refusal := s.qround f 2
def execQroundWait (f : Fields) (s : State) : Host.Outcome State Fault Refusal := s.qround f 3

def execQresync (f : Fields) (s : State) : Host.Outcome State Fault Refusal :=
  s.uniform 0x1F5 f (fun s' =>
    let g := s'.g
    s.unless ((g.kreg f.ext.num1.toNat).check [rRead, rWrite]) f.len
      (s'.meetAsk f (s'.meetReq f 1 (g.uval f f.a % 2 ^ 16) 0 [] Cap.null 0 0)))

/-! ### MEET packets (R391) -/

def mpOpc (i : BitVec 512) : Nat := imgBytes i 8 1

/-- Key of a packet's meeting object, checked; none where a right or the object fails. -/
def State.mpKey (s : State) (ctx : Nat) (c : Cap) : Option Nat :=
  if c.check [rRead, rWrite] = .ok && (s.portCheck ctx c 0 0 false).isNone then some (objKey ctx c.name) else none

/-- A page of a meeting that keeps the pilot's request: it waits for its walk (R343). -/
def State.mtWalk (s : State) (key va : Nat) : State := s.engineFault (s.obj key).ctx ((s.partCores (s.obj key).ctx).headD 0) va true (accessId 2 key 0)

/-- A MEET packet of an operation: `k` acts on the meeting's key. A capability that fails gives INIT the status BADCAP; the other operations
complete with OK, and CONTRIB and RESYNC say FAILED (log 57). A packet to a device whose paths are about to change waits (R361). -/
def State.meetPacket (s : State) (ctx q opc : Nat) (k : State → Queue → Packet → Nat → Option State) : State :=
  match s.nextPacket ctx q with
  | none => s
  | some (p, _) =>
    let o := mpOpc p.image
    if pktType p.image != 6 || !(o == opc || (opc == 0 && 4 ≤ o)) then s
    else
      s.onPacket ctx q 6 (fun s d p =>
        if 4 ≤ mpOpc p.image then s.packetDone ctx q p.index stBadPacket 0
        else
          match s.queueCap d (imgBytes p.image 10 2) with
          | none => s.packetDone ctx q p.index stBadCap 0
          | some c =>
            match s.mpKey ctx c with
            | none => s.packetDone ctx q p.index (if opc = 0 then stBadCap else stOk) (if 2 ≤ opc then 255 else 0)
            | some key => if s.onHold (s.obj key).home then none else k s d p key)

/-- A request of the pilot to a meeting of another device. -/
def State.askPeer (s : State) (key op rank tag : Nat) (data : List Word) : State :=
  s.send (.meetRequest (s.obj key).home ⟨.ofNat 64 key, op, rank, tag, data, s.devnum⟩)

def execMeetInit (ctx q : Nat) (s0 : State) : Host.Outcome State Fault Refusal :=
  .next (s0.meetPacket ctx q 0 (fun s _ p key =>
    if (s.obj key).home != s.devnum then
      (s.askPeer key 4 0 0 []).packetDone ctx q p.index (if Config.choose s.freeCount 2 % 2 = 0 then stOk else stBadPacket) (Config.choose (s.freeCount + 1) (2 ^ 24) % 2 ^ 24)
    else
      match s.meetInit key with
      | .wait va => some (s0.mtWalk key va)
      | .bad detail => s.packetDone ctx q p.index stBadPacket detail
      | .ok s => s.packetDone ctx q p.index stOk 0))

def execMeetFini (ctx q : Nat) (s0 : State) : Host.Outcome State Fault Refusal :=
  .next (s0.meetPacket ctx q 1 (fun s _ p key =>
    if (s.obj key).home != s.devnum then (s.askPeer key 5 0 0 []).packetDone ctx q p.index stOk 0
    else
      match s.mtGone key 56 1 with
      | some va => some (s0.mtWalk key va)
      | none => (s.meetFini key).packetDone ctx q p.index stOk 0))

/-- DETAIL of a status word: code and lag. -/
def wordDetail (w : DWord) : Nat := w.toNat % 2 ^ 16

def execMeetContrib (ctx q : Nat) (s0 : State) : Host.Outcome State Fault Refusal :=
  .next (s0.meetPacket ctx q 2 (fun s d p key =>
    let i := p.image
    match s.queueCap d (imgBytes i 12 2) with
    | none => s.packetDone ctx q p.index stBadCap 0
    | some c =>
      let say (s : State) (w : DWord) : Option State := s.packetDone ctx q p.index stOk (wordDetail w)
      let off := imgBytes i 24 8
      let n := s.mtCount key
      let q' := imgBytes i 14 2
      let tag := imgBytes i 16 4
      if !s.reachable (s.obj key).home then say s (meetWord 12 0 false 0)
      else if off % 4 != 0 then say s (meetWord 255 0 false 0)
      else if (s.obj key).home == s.devnum && !s.mtLive key then say s (meetWord 11 0 false (s.mtCur key))
      else if (s.obj key).home == s.devnum && (s.mtHead key).isSome then (s.mtHead key).map (s0.mtWalk key)
      else
        let parts := (List.range ((4 * n + 65535) / 65536)).map (fun k => s.pilotRead ctx c (off + 65536 * k) (Nat.min 65536 (4 * n - 65536 * k)))
        if parts.any (fun x => match x with | .bad => true | _ => false) then say s (meetWord 255 0 false 0)
        else if parts.any (fun x => match x with | .wait => true | _ => false) then some (s0.pilotFault ctx c off (4 * n) (accessId 2 key 1))
        else
          let b := parts.flatMap (fun x => match x with | .ok b => b | _ => [])
          let data := (List.range n).map (fun k => (.ofNat 32 (elemOf b 4 k) : Word))
          if (s.obj key).home != s.devnum then say (s.askPeer key 0 q' tag data) (s.peerWord key 0)
          else
            let r : MeetReq := ⟨.ofNat 64 key, 0, q', tag, data, s.devnum⟩
            let told := (s.foreignNext key r).map Prod.fst
            match s.mtFault key r told with
            | some va => some (s0.mtWalk key va)
            | none => (s.contribute key q' tag s.devnum data told).bind (fun x => (x.1.foreignWord key r x.2).bind (fun x => say x.1 x.2))))

def execMeetResync (ctx q : Nat) (s0 : State) : Host.Outcome State Fault Refusal :=
  .next (s0.meetPacket ctx q 3 (fun s _ p key =>
    if !s.reachable (s.obj key).home then s.packetDone ctx q p.index stOk 12
    else if (s.obj key).home != s.devnum then
      (s.askPeer key 1 (imgBytes p.image 14 2) 0 []).packetDone ctx q p.index stOk (wordDetail (s.peerWord key 1))
    else if (s.mtHead key).isSome then (s.mtHead key).map (s0.mtWalk key)
    else
      let r := s.resync key (imgBytes p.image 14 2) s.devnum
      (r.1.foreignWord key ⟨.ofNat 64 key, 1, imgBytes p.image 14 2, 0, [], s.devnum⟩ r.2).bind (fun x => x.1.packetDone ctx q p.index stOk (wordDetail x.2))))

end Sys2Proof.Machine
end

