-- ==== Sys2Proof/Machine/Place.lean ====
section
/-! DEFINITION. Placement: dies, cores and berths, starting and restoring groups, deque pops and steals, evictions, and the view-merge
engine (R20, R28, R29, R32, R154 to R158, R163, R177 to R186, R287, R295, R297, R347, R350, R397, R399, R401). -/

namespace Sys2Proof.Machine

/-! ### Room on a core (R28, R157) -/

def berthCount : Nat := 1024
def pairCount : Nat := 64

/-- Berths of a core that hold a group. -/
def State.usedBerths (s : State) (core : Nat) : List Nat :=
  s.groups.filterMap (fun e => if e.2.resident && e.2.core == core then some e.2.berth else none)

def State.freeBerths (s : State) (core : Nat) : Nat := berthCount - (s.usedBerths core).length

/-- The lowest free berth of a lane pair beside berths that are spoken for. -/
def State.berthOf (s : State) (core pair : Nat) (extra : List Nat) : Option Nat :=
  let used := s.usedBerths core ++ extra
  ((List.range 16).map (16 * pair + ·)).find? (fun b => !used.contains b)

/-- Berth for an allotment on the lane pair, of a list of pairs, with the most free registers, ties to the lower pair; `extra` are berths and
allotments that are spoken for. -/
def State.pickBerthIn (s : State) (core allot : Nat) (extra : List (Nat × Nat)) (pairs : List Nat) : Option Nat :=
  let taken (p : Nat) : Nat := ((extra.filter (fun e => e.1 / 16 == p)).map Prod.snd).sum
  let free (p : Nat) : Nat := s.freeRegs core (16 * p) - taken p
  let fits := pairs.filter (fun p => allot ≤ free p && (s.berthOf core p (extra.map Prod.fst)).isSome)
  (fits.find? (fun p => fits.all (fun q => decide (free q ≤ free p)))).bind (fun p => s.berthOf core p (extra.map Prod.fst))

def State.pickBerth (s : State) (core allot : Nat) (extra : List (Nat × Nat)) : Option Nat := s.pickBerthIn core allot extra (List.range pairCount)

/-- Berths for groups of these allotments, one after another. -/
def State.pickBerths (s : State) (core : Nat) : List Nat → List (Nat × Nat) → Option (List Nat)
  | [], _ => some []
  | a :: l, extra => (s.pickBerth core a extra).bind (fun b => (State.pickBerths s core l (extra ++ [(b, a)])).map (b :: ·))

/-- Reserved collective cores: the COLLN highest-numbered partition cores of each die (R346). -/
def State.reserved (s : State) (ctx core : Nat) : Bool :=
  let die := (s.partCores ctx).filter (fun c => s.dieOf c == s.dieOf core)
  (die.drop (die.length - (s.ctx ctx).colln)).contains core

/-- Cores on which a context's ordinary groups may run. -/
def State.openCores (s : State) (ctx : Nat) : List Nat := (s.partCores ctx).filter (fun c => !s.reserved ctx c)

/-- Private windows of a context that a group holds. -/
def State.usedWindows (s : State) (ctx : Nat) : List Nat :=
  s.groups.filterMap (fun e => if e.2.status != .none && e.2.ctx == ctx then some e.2.pwin else none)

/-- `n` private windows and a save slot are free (R347). -/
def State.roomFor (s : State) (ctx n : Nat) : Bool := (s.usedWindows ctx).length + n ≤ (s.ctx ctx).privn && (s.freeSlot ctx).isSome

/-- Handles of workgroups that lie on a core. -/
def State.handlesUsed (s : State) (core : Nat) : Nat := ((s.wgs.filter (fun e => e.2.live && e.2.core == core)).map (fun e => e.2.nHandles)).sum

/-- Bounds of a vault's allocation pool, and its bytes (R194, R195). -/
def poolBytes : Nat := 983040
def poolStart : Nat := 0x10000
def poolEnd : Nat := 0x100000

/-- The lowest place in a core's vault for one contiguous window of `len` bytes, a multiple of 4 KiB as every window is (R194, R195; log 29). -/
def State.windowPlace (s : State) (core len : Nat) : Option Nat :=
  firstFit (s.wgs.filterMap (fun e => if e.2.live && e.2.core == core then some (e.2.voff, e.2.size) else none)) poolStart poolEnd len

def handleTable : Nat := 256

/-- Bytes of a launch's window (R195). -/
def LaunchRec.window (r : LaunchRec) : Nat := 4096 * (r.tiles.sum + r.scratch)

/-! ### Starting a group (R20, R295, R347, R397) -/

/-- The group holds a rank of a scheduler: it has a berth there, or it was evicted or handled from one in a context that runs, and keeps its place. -/
def State.holdsRank (s : State) (g : Group) (core sched : Nat) : Bool :=
  g.core == core && g.sched == sched &&
    (g.resident || (match g.status with | .saved _ _ => (s.ctx g.ctx).state == .running | _ => false))

/-- Ranks held on a scheduler. -/
def State.ranksOn (s : State) (core sched : Nat) : List Nat :=
  s.groups.filterMap (fun e => if s.holdsRank e.2 core sched then some e.2.rank else none)

/-- The next rank held from a rank on, wrapping after the highest one; 0 where none is held (R397). -/
def nextRank (held : List Nat) (p : Nat) : Nat := ((held.filter (p ≤ ·)).min? <|> held.min?).getD 0

/-- A scheduler's pointer. -/
def State.setPtr (s : State) (core sched p : Nat) : State :=
  let c := s.core core
  s.setCore core { c with scheds := Cells.set Sched.reset c.scheds sched { Cells.get Sched.reset c.scheds sched with ptr := p } }

/-- Renumber a scheduler's ranks densely from 0, keeping their order; the pointer moves with the group it names. -/
def State.renumber (s : State) (core sched : Nat) : State :=
  let l := s.ranksOn core sched
  let dense (r : Nat) : Nat := (l.filter (· < r)).length
  let c := s.core core
  let sc := Cells.get Sched.reset c.scheds sched
  let s := { s with groups := s.groups.map (fun (e : Nat × Group) =>
    if s.holdsRank e.2 core sched then (e.1, { e.2 with rank := dense e.2.rank }) else e) }
  s.setCore core { c with scheds := Cells.set Sched.reset c.scheds sched { sc with ptr := dense sc.ptr } }

/-- A rank for a newly berthed group; where none is held it is 0, and the pointer names it (R397, R411). -/
def State.takeRank (s : State) (core sched : Nat) : Nat × State :=
  let s := if (s.ranksOn core sched).isEmpty then s.setPtr core sched 0 else s
  let next (s : State) : Nat := (((s.ranksOn core sched).map (· + 1)).max?).getD 0
  if 256 ≤ next s then let s := s.renumber core sched; (next s, s) else (next s, s)

/-- A capability to a private window (R347), with CHECK where the object is CHECKED (R187). -/
def State.windowCap (s : State) (ctx w : Nat) : Cap :=
  let c := s.ctx ctx
  let len := 65536 * c.privsz
  let e := (windowExp (w * len) len).getD 14
  Cap.make c.priv (s.obj c.priv.toNat).gen (if (s.obj c.priv.toNat).checked then 3 + 32 else 3) e (w * len / 2 ^ (4 + e)) (len / 2 ^ (4 + e) - 1)

/-- Put a group into its berth: rank, order and crumb. -/
def State.seat (s : State) (gid : Nat) (g : Group) (origin : Nat) : State :=
  let (rank, s) := if (s.ctx g.ctx).det then s.takeRank g.core g.sched else (0, s)
  let (order, s) := s.fresh
  let s := s.setGrp gid { g with rank := rank, berthed := order }
  s.crumb g.core g.ctx 0x20 (gBody g.pc g.seq (g.berth + 2 ^ 10 * origin))

/-- Start a group with the values of R20 and a zeroed private window; `fill` sets what its origin gives. None while a page of the
window is not mapped. -/
def State.newGroup (s : State) (lid core berth origin : Nat) (fill : Group → Group) : Option (Nat × State) :=
  let l := s.launch lid
  let c := s.ctx l.ctx
  let w := leastFree (s.usedWindows l.ctx)
  let len := 65536 * c.privsz
  match s.zeroVirt l.ctx (c.privsz + 1) ((s.obj c.priv.toNat).vbase + w * len) len with
  | .error _ => none
  | .ok s =>
    let s := s.uncheckedWrite c.priv.toNat (w * len) len
    let (gid, s) := s.fresh
    let blk := leastFree (0 :: s.blocks.map Prod.fst)
    let g := fill { Group.blank with
      status := .running, ctx := l.ctx, lid := lid, core := core, berth := berth, live := 0xFFFFFFFF, cur := 0xFFFFFFFF
      k := Cells.setAll Cap.null [] [(0, l.code), (1, l.caps.headD Cap.null), (2, s.windowCap l.ctx w)], pwin := w, block := blk
      lastIssue := (s.core core).cycle }
    let s := s.seat gid g origin
    let s := s.setLaunch lid { l with groups := l.groups + 1 }
    some (gid, s.setBlock blk { Block.blank with live := true, gid := gid, lid := lid, recNo := g.recNo, items := [.strand 0 []] })

/-- Start a grid group: its task record and its first task-table entry (R178, R188). -/
def State.startGrid (s : State) (lid w core berth root : Nat) : Option (Nat × State) :=
  let r := (s.launch lid).lrec
  let ctx := (s.launch lid).ctx
  let key := r.childKey (r.seed % Config.p) 0 (root / 32)
  match s.freeRecord ctx with
  | none => none
  | some n =>
    match s.writeRecord ctx n lid root 0 0xFFFFFFFF key [] with
    | none => some (0, s.loseCtx ctx core (s.obj (s.ctx ctx).trec.toNat).vbase)
    | some s =>
      (s.newGroup lid core berth 0 (fun g =>
        { g with wg := some w, pc := .ofNat 32 r.entry, allot := 8 * r.allot, ucount := 8 * (r.ucnt + 1), s := Cells.set 0 [] 0 (.ofNat 64 root)
                 root := .ofNat 64 root, pedKey := key, recNo := n })).map (fun x =>
        let gid := x.1
        let s := x.2
        let (e, s) := s.newEntry gid n (strandElem 0 0)
        let g := s.grp gid
        let s := s.setGrp gid { g with entry := e }
        (gid, s.setBlock g.block { s.block g.block with entries := [e], wid := root }))

/-- Start the groups of a workgroup in their berths; the first group's number comes first. -/
def State.startGroups (s : State) (lid w core base : Nat) : List Nat → Nat → Option State
  | [], _ => some s
  | b :: l, k =>
    (s.startGrid lid w core b (base + 32 * k)).bind (fun x =>
      let wg := x.2.wgOf w
      State.startGroups (x.2.setWg w { wg with members := wg.members ++ [x.1] }) lid w core base l (k + 1))

/-! ### The distributor (R154 to R157, R327) -/

/-- Value of field `2 + m` in a workgroup number, and the bits below it. -/
def LaunchRec.below (r : LaunchRec) (m : Nat) : Nat := ((r.fields.take m).map Prod.fst).sum
def LaunchRec.fieldOf (r : LaunchRec) (id m : Nat) : Nat := id / 2 ^ r.below m % 2 ^ ((r.fields.getD m (0, 0)).1)

/-- One more than the place of the highest SAMEDIE field; 0 where there is none. -/
def LaunchRec.same (r : LaunchRec) : Nat := (((List.range 4).filter (fun m => (r.fields.getD m (0, 0)).2 == 1)).map (· + 1)).max?.getD 0

/-- The die that SPREAD fields above fix. -/
def LaunchRec.spreadDie (r : LaunchRec) (id : Nat) : Option Nat :=
  let l := (List.range 4).filter (fun m => r.same ≤ m && (r.fields.getD m (0, 0)).2 == 2)
  if l.isEmpty then none else some ((l.map (r.fieldOf id)).sum % 4)

/-- The set of workgroups that share a die. -/
def LaunchRec.setOf (r : LaunchRec) (id : Nat) : Nat := id / 2 ^ r.below r.same

/-- The die with the most free berths for a context, ties to the lower number. -/
def State.widestDie (s : State) (ctx : Nat) : Nat :=
  let free (d : Nat) : Nat := (((s.openCores ctx).filter (fun c => s.dieOf c == d)).map s.freeBerths).sum
  ((List.range 4).find? (fun d => (List.range 4).all (fun e => free e ≤ free d))).getD 0

/-- Die of a workgroup (R156). -/
def State.dieFor (s : State) (l : Launch) (id : Nat) : Nat :=
  match l.lrec.spreadDie id with
  | some d => d
  | none =>
    match l.dies.find? (fun e => l.lrec.same != 0 && e.1 == l.lrec.setOf id) with
    | some e => e.2
    | none => s.widestDie l.ctx

/-- Berths on a core that has all a workgroup of a launch needs (R157, R347). -/
def State.coreFits (s : State) (l : Launch) (core : Nat) : Option (List Nat) :=
  let n := 2 ^ l.lrec.w1
  let c := s.ctx l.ctx
  if s.freeBerths core < n || (s.windowPlace core l.lrec.window).isNone || handleTable < s.handlesUsed core + l.lrec.handles ||
      !s.roomFor l.ctx n || c.trecn < c.recs.length + n then none
  else s.pickBerths core (List.replicate n (8 * l.lrec.allot)) []

/-- The core of a die that takes the next workgroup: most free berths, ties to the lower number. -/
def State.coreFor (s : State) (l : Launch) (die : Nat) : Option (Nat × List Nat) :=
  let fits := (s.openCores l.ctx).filterMap (fun c => if s.dieOf c == die then (s.coreFits l c).map (fun b => (c, b)) else none)
  fits.find? (fun x => fits.all (fun y => s.freeBerths y.1 ≤ s.freeBerths x.1))

/-- A placement: workgroup number, die, core and berths. -/
structure Placement where
  id : Nat
  die : Nat
  core : Nat
  berths : List Nat

/-- The first workgroup from number `id` on that can be placed; a waiting one holds back later ones of its die. -/
def State.scanWgs (s : State) (l : Launch) : Nat → Nat → List Nat → Option Placement
  | 0, _, _ => none
  | n + 1, id, blocked =>
    if l.placed.contains id then State.scanWgs s l n (id + 1) blocked
    else
      let d := s.dieFor l id
      let floats := (l.lrec.spreadDie id).isNone && l.lrec.same == 0
      if blocked.contains d then (if floats then none else State.scanWgs s l n (id + 1) blocked)
      else
        match s.coreFor l d with
        | some (c, b) => some ⟨id, d, c, b⟩
        | none => if floats || 3 ≤ blocked.length then none else State.scanWgs s l n (id + 1) (d :: blocked)

/-- The next placement of a started launch of a running context, with some dies left out. -/
def State.placementOff (s : State) (lid : Nat) (dies : List Nat) : Option Placement :=
  let l := s.launch lid
  if !l.live || l.killed || (s.ctx l.ctx).state != .running then none else s.scanWgs l (l.nWg - l.nextWg) l.nextWg dies

def State.placement (s : State) (lid : Nat) : Option Placement := s.placementOff lid []

/-- The launch places a workgroup on this core next, as far as its die goes. -/
def State.placesAt (s : State) (lid core : Nat) : Bool :=
  match s.placementOff lid ((List.range 4).filter (· != s.dieOf core)) with | some p => p.core == core | none => false

/-- A launch that the distributor serves before another: higher priority, then the earlier start (R327). -/
def Launch.before (a b : Launch) : Bool := b.lrec.prio < a.lrec.prio || (a.lrec.prio == b.lrec.prio && a.order < b.order)

/-- The first number from `n` on that has not been placed. -/
def skipPlaced (placed : List Nat) : Nat → Nat → Nat
  | 0, n => n
  | k + 1, n => if placed.contains n then skipPlaced placed k (n + 1) else n

/-- Count a workgroup as placed. -/
def Launch.take (l : Launch) (id : Nat) : Launch :=
  if id = l.nextWg then
    let n := skipPlaced l.placed (l.placed.length + 1) (id + 1)
    { l with nextWg := n, placed := l.placed.filter (n ≤ ·) }
  else { l with placed := l.placed ++ [id] }

/-- The page of its communicator keeps the launch's attached collective from its start (R328). -/
def State.attachWait (s : State) (lid : Nat) : Option State :=
  let l := s.launch lid
  if !l.lrec.collon || l.collInst != 0 then none
  else s.commWait l.ctx (l.caps.getD (cdCcap l.lrec.colld) Cap.null) (cdRank l.lrec.colld) (accessId 1 lid 1)

/-- Start the launch's attached collective with its first workgroup (R328). -/
def State.attach (s : State) (lid : Nat) : State :=
  let l := s.launch lid
  if !l.lrec.collon || l.collInst != 0 then s
  else
    let i := l.lrec.colld
    let cap (n : Nat) : Cap := l.caps.getD n Cap.null
    match s.collDesc l.ctx i (cap (cdCcap i)) (cap (cdDcap i)) with
    | none => s
    | some n =>
      let (inst, s) := s.collMember l.ctx lid none i (cap (cdCcap i)) (cap (cdDcap i)) n
      s.setLaunch lid { s.launch lid with collInst := inst }

/-- Place a workgroup; none while a page that its start uses is not mapped. -/
def State.placeWg (s : State) (lid : Nat) (p : Placement) : Option State :=
  let l := s.launch lid
  let r := l.lrec
  let (w, s) := s.fresh
  let s := s.setWg w { Workgroup.blank with live := true, ctx := l.ctx, lid := lid, core := p.core, id := p.id, size := r.window, nHandles := r.handles,
                                                  voff := (s.windowPlace p.core r.window).getD poolStart }
  let l := l.take p.id
  let l := if r.same != 0 && (r.spreadDie p.id).isNone && !l.dies.any (fun e => e.1 == r.setOf p.id) then { l with dies := (r.setOf p.id, p.die) :: l.dies } else l
  guardSome (s.attachWait lid).isNone (((s.setLaunch lid l).attach lid).startGroups lid w p.core (p.id * 2 ^ (5 + r.w1)) p.berths 0)

/-! ### Candidates of a core (R158) -/

/-- A saved group's wait is over (R29, R163). -/
def State.waitOver (s : State) (gid : Nat) : Bool :=
  let g := s.grp gid
  match g.wait with
  | .barrier p => (match g.wg with | some w => phaseDone (s.wgOf w).phase p || (s.wgOf w).broken | none => phaseDone g.taskPhase p)
  | .barrierOpen => (match g.wg with | some w => !(s.wgOf w).arrived.contains gid || (s.wgOf w).broken | none => true)
  | .abar w off p => !s.abarLive w off || phaseDone (s.abarPhase w off) p || s.abarBroken w off
  | .sync => (s.block g.block).merged
  | _ => true

/-- Registers that a group needs at its restore: a pending GROW is met then (R32). -/
def Group.needs (g : Group) : Nat := match g.wait with | .growth n => Nat.max n g.allot | _ => g.allot

/-- Lane pairs on which a group may be restored: a GROW that it still asks for is not met before an older one that waits there (R29). -/
def State.growPairs (s : State) (core : Nat) (g : Group) : List Nat :=
  match g.growReq with
  | none => List.range pairCount
  | some k => (List.range pairCount).filter (fun p =>
      !(s.pairGroups core (16 * p)).any (fun e => match e.2.growReq with | some j => j < k | none => false))

/-- A berth for a saved group, beside berths and allotments that are spoken for. -/
def State.berthFor (s : State) (core : Nat) (g : Group) (extra : List (Nat × Nat)) : Option Nat :=
  s.pickBerthIn core g.needs extra (s.growPairs core g)

/-- Berths for saved groups, one after another. -/
def State.berthsFor (s : State) (core : Nat) : List Nat → List (Nat × Nat) → Option (List Nat)
  | [], _ => some []
  | gid :: l, extra =>
    (s.berthFor core (s.grp gid) extra).bind (fun b => (State.berthsFor s core l (extra ++ [(b, (s.grp gid).needs)])).map (b :: ·))

/-- A saved group that a core may restore alone: after eviction on its own core, a task also on another core of its die, and after a
pre-emption or a handled trap anywhere its workgroup allows (R163, R350). -/
def State.mayRestore (s : State) (core gid : Nat) : Bool :=
  let g := s.grp gid
  let run := (s.ctx g.ctx).state == .running && (s.openCores g.ctx).contains core
  match g.status with
  | .saved _ .handle => false
  | .saved _ how =>
    run && (how != .evict || (s.waitOver gid && !g.stopped)) &&
      (match g.wg with
       | some w => (s.wgOf w).core == core
       | none =>
         if how == .evict then g.core == core || (s.dieOf g.core == s.dieOf core && (s.berthFor g.core g []).isNone)
         else !(s.ctx g.ctx).det || g.core == core)
  | _ => false

/-- A restored group's streams find free records on its core, in the order of their numbers, or are left without one (R350). -/
def State.bindStreams (s : State) (core : Nat) (g : Group) : Group :=
  let bound := (g.streams.filter (fun e => e.2.bound)).map Prod.fst
  let got := bound.take (streamRecords - s.streamsOn core)
  { g with streams := g.streams.map (fun (e : Nat × Stream) => (e.1, { e.2 with held := e.2.bound && !got.contains e.1 })) }

/-- The allotment that a pending GROW asks for is given at the restore (R32). -/
def Group.grown (g : Group) : Group :=
  match g.wait with
  | .growth n => { g with allot := Nat.max n g.allot, growReq := none, wait := .none }
  | _ => g

/-- Restore a group into a berth (R350): its rank is its old one on the same scheduler, and the instruction at which a fault held it issues again
(R349). -/
def State.restoreAt (s : State) (gid core berth : Nat) : State :=
  let g := s.grp gid
  let stay := g.core == core && g.sched == berth / 256
  let (rank, s) := if (s.ctx g.ctx).det && !stay then s.takeRank core (berth / 256) else (g.rank, s)
  let (order, s) := s.fresh
  let g := { s.bindStreams core g.grown with
                    wait := (match g.grown.wait with | .hold _ => .none | w => w)
                    status := if g.live = 0 then .ending else .running, core := core, berth := berth, rank := rank, berthed := order, issuedSince := 0, slot := none
                    lastIssue := (s.core core).cycle }
  let s := (s.setGrp gid g).gcrumb gid 0x05 berth
  s.crumb core g.ctx 0x20 (gBody g.pc g.seq (berth + 2 ^ 10 * 3))

/-- Groups that a core may restore one by one and has room for. -/
def State.restorable (s : State) (core : Nat) : List (Nat × Nat) :=
  s.groups.filterMap (fun e =>
    if s.mayRestore core e.1 && !((s.ctx e.2.ctx).det && (match e.2.status with | .saved _ how => how != .evict | _ => false))
    then (s.berthFor core e.2 []).map (fun b => (e.1, b)) else none)

/-- Members of a workgroup in the save area that its restore berths: not those that wait after an eviction or at a handled trap. -/
def State.returning (s : State) (w : Nat) : List Nat :=
  (s.wgOf w).members.filter (fun gid => match (s.grp gid).status with | .saved _ .evict => false | .saved _ .handle => false | _ => true)

/-- A workgroup of the save area lands on a core: its window at a place, its ring under a free number (R287, R350). -/
def Workgroup.landed (w : Workgroup) (core voff : Nat) (rings : List Nat) : Workgroup :=
  { w with core := core, voff := voff, ring := w.ring.map (fun r => { r with number := leastFree rings }) }

/-- The paused copies of a workgroup's image go to the engine of its core (R349). -/
def State.giveCopies (s : State) (core w : Nat) : State :=
  let wg := s.wgOf w
  (s.setCore core { s.core core with copies := (s.core core).copies ++ wg.copies }).setWg w { wg with copies := [] }

/-- Ranks of a context's groups on a scheduler. -/
def State.ctxRanks (s : State) (ctx core sched : Nat) : List Nat :=
  s.groups.filterMap (fun e => if e.2.ctx == ctx && e.2.status != .none && e.2.core == core && e.2.sched == sched then some e.2.rank else none)

/-- The pointers of a context's schedulers that have a group of it, by 4 × the core's place in the partition + scheduler: one more than the rank
that each names (R401). -/
def State.savedPtrs (s : State) (ctx : Nat) : Cells Nat :=
  (s.partCores ctx).zipIdx.foldl (fun m e => (List.range 4).foldl (fun m j =>
    match s.ctxRanks ctx e.1 j with
    | [] => m
    | l => Cells.set 0 m (4 * e.2 + j) (nextRank l (Cells.get Sched.reset (s.core e.1).scheds j).ptr + 1)) m) []

/-- At the first restore onto a core after a resume, the groups of each saved scheduler take ranks from 0 on in their saved order, and the pointer
names the group that it named; behind the ranks that another context's groups hold there, whose turn it stays (R401). -/
def State.rerank (s : State) (ctx core sched : Nat) : State :=
  let c := s.ctx ctx
  let at_ := 4 * (s.partCores ctx).idxOf core + sched
  match Cells.get 0 c.ptrs at_ with
  | 0 => s
  | p + 1 =>
    let l := s.ctxRanks ctx core sched
    let others := s.groups.filterMap (fun e => if e.2.ctx != ctx && e.2.resident && e.2.core == core && e.2.sched == sched then some e.2.rank else none)
    let base := ((others.map (· + 1)).max?).getD 0
    let dense (r : Nat) : Nat := base + (l.filter (· < r)).length
    let s := s.setCtx ctx { c with ptrs := Cells.set 0 c.ptrs at_ 0 }
    let s := { s with groups := s.groups.map (fun (e : Nat × Group) =>
      if e.2.ctx == ctx && e.2.status != .none && e.2.core == core && e.2.sched == sched then (e.1, { e.2 with rank := dense e.2.rank }) else e) }
    if base = 0 then s.setPtr core sched (dense (nextRank l p)) else s

/-- Restore a whole workgroup onto a core that meets R157 and R287; none where it does not. -/
def State.restoreWg (s : State) (core w : Nat) : Option State :=
  let wg := s.wgOf w
  let gids := s.returning w
  let rings := s.ringsOn core
  let ringOk := match wg.ring with
    | some r => rings.length < maxRings && (rings.map (fun e => e.2.tiles)).sum + r.tiles ≤ maxTiles
    | none => true
  if !wg.live || wg.core != noCore || (s.ctx wg.ctx).state != .running || (s.ctx wg.ctx).det || !(s.openCores wg.ctx).contains core ||
      handleTable < s.handlesUsed core + wg.nHandles || !ringOk then none
  else
    (s.windowPlace core wg.size).bind (fun v => (s.berthsFor core gids []).map (fun bs =>
      (gids.zip bs).foldl (fun s e => s.restoreAt e.1 core e.2) ((s.setWg w (wg.landed core v (rings.map (fun e => e.2.number)))).giveCopies core w)))

/-- Berths for groups, each on the scheduler that it was saved on (R401). -/
def State.oldScheds (s : State) (core : Nat) : List Nat → List (Nat × Nat) → Option (List (Nat × Nat))
  | [], _ => some []
  | gid :: l, extra =>
    let g := s.grp gid
    (s.pickBerthIn core g.needs extra ((s.growPairs core g).filter (fun p => p / 16 == g.sched))).bind (fun b =>
      (State.oldScheds s core l (extra ++ [(b, g.needs)])).map ((gid, b) :: ·))

/-- Land workgroups of an image on a core, one after another; none where the core has no room for one. -/
def State.landAll (s : State) (core : Nat) : List Nat → Option State
  | [] => some s
  | w :: l =>
    let wg := s.wgOf w
    let rings := s.ringsOn core
    let tiles := (wg.ring.elim 0 Ring.tiles)
    if handleTable < s.handlesUsed core + wg.nHandles || (wg.ring.isSome && (maxRings ≤ rings.length || maxTiles < (rings.map (fun e => e.2.tiles)).sum + tiles))
    then none
    else (s.windowPlace core wg.size).bind (fun v => State.landAll ((s.setWg w (wg.landed core v (rings.map (fun e => e.2.number)))).giveCopies core w) core l)

/-- In deterministic mode all that a core's image holds returns to that core, each scheduler's groups to one scheduler with dense ranks, and the
pointer to the rank of the group it named (R401). -/
def State.restoreImage (s : State) (core ctx : Nat) : Option State :=
  let c := s.ctx ctx
  let mine := s.groups.filterMap (fun e =>
    match e.2.status with
    | .saved _ .evict => none
    | .saved _ .handle => none
    | .saved _ _ => if e.2.ctx == ctx && e.2.core == core then some e.1 else none
    | _ => none)
  let wgs := s.wgs.filterMap (fun e => if e.2.live && e.2.ctx == ctx && e.2.core == noCore && e.2.members.any (fun gid => (s.grp gid).core == core) then some e.1 else none)
  if !c.det || c.state != .running || (mine.isEmpty && wgs.isEmpty) then none
  else
    (s.oldScheds core mine []).bind (fun bs => (s.landAll core wgs).map (fun s =>
      let s := bs.foldl (fun s e => s.restoreAt e.1 core e.2) s
      (List.range 4).foldl (fun s j => s.rerank ctx core j) s))

/-! ### Deques (R177 to R182) -/

/-- A block or one above it was killed, so that its unstarted children are discarded (R298). -/
def State.killedAbove (s : State) : Nat → Nat → Bool
  | 0, _ => false
  | n + 1, b =>
    let x := s.block b
    x.live && (x.killed || (match x.parent with | some p => State.killedAbove s n p | none => false))

/-- Start a task from its descriptor, or discard it; none while a page of its window is not mapped. -/
def State.startTask (s : State) (core origin : Nat) (d : BitVec 512) : Option State :=
  let parent := descSblk d
  if s.killedAbove 65 parent then some (s.childEnded parent (descRecord d) [] [descCidx d])
  else
    let lid := descLaunch d
    let ctx := (s.launch lid).ctx
    match s.pickBerth core (descAllot d) [] with
    | none => none
    | some b =>
      let root := s.recNat ctx (descRecord d) 0 8
      (s.newGroup lid core b origin (fun g =>
        { g with pc := descEntry d, allot := descAllot d, ucount := descUcount d, pedKey := descKey d, pedDepth := descDepth d, root := .ofNat 64 root
                 s := Cells.setAll 0 [] [(0, .ofNat 64 root), (1, descArg0 d), (2, descArg1 d)], recNo := descRecord d, entry := descCidx d })).map (fun x =>
        let g := x.2.grp x.1
        x.2.setBlock g.block { x.2.block g.block with parent := some parent, entries := [descCidx d] })

/-- Context of a deque entry. -/
def State.descCtx (s : State) (d : BitVec 512) : Nat := (s.launch (descLaunch d)).ctx

/-- A task may be berthed on a core (R158, R347). -/
def State.taskFits (s : State) (core : Nat) (d : BitVec 512) : Bool :=
  s.killedAbove 65 (descSblk d) ||
    ((s.openCores (s.descCtx d)).contains core && s.roomFor (s.descCtx d) 1 && (s.pickBerth core (descAllot d) []).isSome)

/-- The running contexts of a core. -/
def State.runningOn (s : State) (core : Nat) : List Nat :=
  (List.range 64).filter (fun x => (s.ctx x).state == .running && bit (s.ctx x).part.toNat core)

/-- An entry of an overflow ring with its poison; none while its page is not mapped. -/
def State.ringEntry (s : State) (ctx core k : Nat) : Option (BitVec 512 × Bool) :=
  match s.ringAt ctx core k false with
  | .ok pas => some (.ofNat 512 (s.readNat (pas.map Loc.mem)), pas.any (fun pa => s.poisonAt (.mem pa)))
  | .error _ => none

/-- A fault of a context without a group: under HANDLE and KILLGROUP its record, which names no slot, and under FATAL the freeze and the kill (R180;
log 64). -/
def State.ctxFault (s : State) (ctx core lid : Nat) (c : Cause) : State :=
  if (s.launch lid).lrec.disposition c = 2 then
    ((s.crumb core ctx 0x01 (gBody 0 0 (c.code + 256 * 2))).freeze core c.code ctx).killCtx ctx .killed
  else
    s.payOne ⟨ctx, core, ⟨4, c.code, 0xFFFFFFFF, 0, 0, 0, []⟩, false⟩

/-- Read the newest ring entries back into an empty hardware deque (R179); a poisoned one is dropped with DEQUESPILL. -/
def State.refill (s : State) (ctx core : Nat) : Nat → Option State
  | 0 => some s
  | n + 1 =>
    let o := s.over ctx core
    if o.count = 0 then some s
    else
      match s.ringEntry ctx core (o.top + o.count - 1) with
      | none => none
      | some (d, bad) =>
        let s := s.setOver ctx core { o with count := o.count - 1 }
        let c := s.core core
        if bad then some (s.ctxFault ctx core (descLaunch d) .dequespill)
        else State.refill (s.setCore core { c with deque := d :: c.deque }) ctx core n

/-- The hardware deque of a core as a pop finds it. -/
def State.filled (s : State) (core : Nat) : Option State :=
  if !(s.core core).deque.isEmpty then some s
  else
    match (s.runningOn core).find? (fun x => 0 < (s.over x core).count) with
    | none => none
    | some x => s.refill x core spillSize

/-- The entry that a pop of the core's hardware deque takes. -/
def State.bottom (s : State) (core : Nat) : Option (BitVec 512) :=
  (s.core core).deque.reverse.find? (fun d => (s.ctx (s.descCtx d)).state == .running)

/-- Pop the bottom entry of the core's deque and start it; where it does not fit, a deque that was read back stays so. -/
def State.popTask (s : State) (core : Nat) : Option State :=
  match s.filled core with
  | none => none
  | some s' =>
    let c := s'.core core
    let read := guardSome (s.core core).deque.isEmpty (some s')
    match s'.bottom core with
    | none => read
    | some d =>
      if !s'.taskFits core d then read
      else (s'.setCore core { c with deque := c.deque.reverse.erase d |>.reverse }).startTask core 1 d

/-- Private windows that the next groups of a context take whose pages are not mapped: their zeroing waits as an engine's access (R343, R347). -/
def State.privFault (s : State) (ctx core : Nat) : Nat → List Nat → State
  | 0, _ => s
  | n + 1, used =>
    let c := s.ctx ctx
    let w := leastFree used
    let len := 65536 * c.privsz
    match s.zeroVirt ctx (c.privsz + 1) ((s.obj c.priv.toNat).vbase + w * len) len with
    | .error va => s.engineFault ctx core va true (accessId 4 core w)
    | .ok _ => State.privFault s ctx core n (w :: used)

/-- The page that keeps an overflow ring's entry from being read waits as an engine's access (R180, R343). -/
def State.ringFault (s : State) (ctx core k : Nat) : State :=
  match s.ringAt ctx core k false with
  | .error va => s.engineFault ctx core va false (accessId 3 core k)
  | .ok _ => s

/-- The ring entry at which a refill stops for a page that is not mapped. -/
def State.refillStop (s : State) (ctx core : Nat) : Nat → Option Nat
  | 0 => none
  | n + 1 =>
    let o := s.over ctx core
    if o.count = 0 then none
    else
      match s.ringEntry ctx core (o.top + o.count - 1) with
      | none => some (o.top + o.count - 1)
      | some (_, bad) => if bad then none else State.refillStop (s.setOver ctx core { o with count := o.count - 1 }) ctx core n

/-- A pop that does not go on for a page of the ring, or of the task's private window. -/
def State.popFault (s : State) (core : Nat) : State :=
  match s.filled core with
  | none =>
    match (s.runningOn core).find? (fun x => 0 < (s.over x core).count) with
    | some x => if (s.core core).deque.isEmpty then ((s.refillStop x core spillSize).map (s.ringFault x core)).getD s else s
    | none => s
  | some s' =>
    match s'.bottom core with
    | some d => if s'.taskFits core d then s.privFault (s.descCtx d) core 1 (s.usedWindows (s.descCtx d)) else s
    | none => s

/-- A steal takes the top entry of the victim's deque, from the ring when that holds any. -/
def State.stealTask (s : State) (ctx thief victim : Nat) : Option State :=
  let o := s.over ctx victim
  let c := s.core victim
  let arrive (s : State) (d : BitVec 512) : Option State :=
    if !s.taskFits thief d then none
    else
      let s := s.crumb thief ctx 0x30 (mBody (s.physCore victim) ((s.core victim).recorder.cseq + 2 ^ 28 - 1) 0)
      s.startTask thief 2 d
  if 0 < o.count then
    match s.ringEntry ctx victim o.top with
    | none => none
    | some (d, bad) =>
      let s := s.setOver ctx victim ⟨o.top + 1, o.count - 1⟩
      if bad then some (s.ctxFault ctx victim (descLaunch d) .dequespill) else arrive s d
  else
    match c.deque.find? (fun d => s.descCtx d == ctx) with
    | none => none
    | some d => arrive (s.setCore victim { c with deque := c.deque.erase d }) d

/-! ### Evictions (R32, R163) -/

/-- The group of a list that eviction takes: the most recently berthed or the longest waiting one, or the highest berth in deterministic
mode; of two that have waited equally long the first of the list (log 69). -/
def State.pickVictim (s : State) (growth : Bool) (l : List Nat) : Option Nat :=
  let key (gid : Nat) : Nat := (s.grp gid).berth
  let det := l.any (fun gid => (s.ctx (s.grp gid).ctx).det)
  if det then l.find? (fun x => l.all (fun y => key y ≤ key x))
  else if growth then l.find? (fun x => l.all (fun y => (s.grp y).berthed ≤ (s.grp x).berthed))
  else l.find? (fun x => l.all (fun y => (s.grp x).lastIssue ≤ (s.grp y).lastIssue))

/-- The group that register growth evicts from a lane pair: every resident group waits for registers and the oldest request cannot be
met. -/
def State.growVictim (s : State) (core pair : Nat) : Option Nat :=
  let l := s.pairGroups core (16 * pair)
  let blocked := l.all (fun e => match e.2.wait with | .growth _ => true | _ => false)
  let oldest := l.find? (fun e => l.all (fun x => e.2.growReq.getD 0 ≤ x.2.growReq.getD 0))
  match oldest with
  | some (_, g) => if blocked && s.freeRegs core (16 * pair) < g.needs - g.allot then s.pickVictim true (l.map Prod.fst) else none
  | none => none

/-- Groups of a core in the barrier or SYNC state, or stopped by a debugger (R432). -/
def State.waiters (s : State) (core : Nat) : List Nat :=
  s.groups.filterMap (fun e =>
    if e.2.resident && e.2.core == core && e.2.stopped && e.2.wait != .fullEmpty then some e.1
    else if e.2.resident && e.2.core == core && !s.waitOver e.1 then
      (match e.2.wait with | .barrier _ => some e.1 | .barrierOpen => some e.1 | .abar _ _ _ => some e.1 | .sync => some e.1 | _ => none)
    else none)

/-- The first workgroup of a launch from a number on that waits for a place on a die. -/
def State.waitsOn (s : State) (l : Launch) (die : Nat) : Nat → Nat → Bool
  | 0, _ => false
  | n + 1, id =>
    if l.placed.contains id then State.waitsOn s l die n (id + 1)
    else if s.dieFor l id == die then true
    else if (l.lrec.spreadDie id).isNone && l.lrec.same == 0 then false
    else State.waitsOn s l die n (id + 1)

/-- A candidate of the core waits and no berth has room for it. -/
def State.starved (s : State) (core : Nat) : Bool :=
  s.groups.any (fun e => s.mayRestore core e.1 && (s.berthFor core e.2 []).isNone) ||
    (match (s.filled core).bind (fun s => s.bottom core) with
     | some d => s.roomFor (s.descCtx d) 1 && (s.pickBerth core (descAllot d) []).isNone
     | none => false) ||
    s.launches.any (fun e =>
      let l := e.2
      l.live && !l.killed && (s.ctx l.ctx).state == .running && l.nextWg < l.nWg && (s.openCores l.ctx).contains core &&
        s.waitsOn l (s.dieOf core) (l.nWg - l.nextWg) l.nextWg && (s.coreFor l (s.dieOf core)).isNone && (s.windowPlace core l.lrec.window).isSome &&
        (s.pickBerths core (List.replicate (2 ^ l.lrec.w1) (8 * l.lrec.allot)) []).isNone)

/-- Evict one group for growth or for a waiting candidate; none where neither is due. -/
def State.evictOne (s : State) (core : Nat) : Option State :=
  match (List.range pairCount).findSome? (s.growVictim core) with
  | some gid => s.save gid .evict
  | none => if s.starved core then (s.pickVictim false (s.waiters core)).bind (fun gid => s.save gid .evict) else none

/-! ### The steps -/

/-- The candidates of classes 1 and 2 of R158, in their order; between them stands what is restored whole after a pre-emption, the first of its list
first (log 69). -/
def State.fill (s : State) (core : Nat) : Option State :=
  match s.restorable core with
  | x :: l => let e := (x :: l).getD (Config.choose s.freeCount (l.length + 1) % (l.length + 1)) x; some (s.restoreAt e.1 core e.2)
  | [] =>
    match (s.runningOn core).findSome? (s.restoreImage core) with
    | some s => some s
    | none =>
      match s.wgs.findSome? (fun e => s.restoreWg core e.1) with
      | some s => some s
      | none => s.popTask core

def execBerthFill (core : Nat) (s : State) : Host.Outcome State Fault Refusal :=
  .next (if s.liveCores.length ≤ core then s else match s.fill core with | some s => s | none => (s.evictOne core).getD (s.popFault core))

/-- The launch has a workgroup that can start on a die now: one that waits for a page does not hold the others (R327). -/
def State.placeable (s : State) (lid die : Nat) : Bool :=
  match s.placementOff lid ((List.range 4).filter (· != die)) with | some p => p.die == die && (s.placeWg lid p).isSome | none => false

/-- The launch's next placement, where no launch that goes first has a workgroup to place on that die and no earlier candidate waits on that
core. -/
def State.dispatchable (s : State) (lid : Nat) : Option Placement :=
  (s.placement lid).bind (fun p =>
    let held := s.launches.any (fun e => e.1 != lid && e.2.before (s.launch lid) && s.placeable e.1 p.die)
    if held || (s.fill p.core).isSome then none else some p)

def execWorkgroupDispatch (lid : Nat) (s : State) : Host.Outcome State Fault Refusal :=
  .next (match s.dispatchable lid with
    | some p => let ctx := (s.launch lid).ctx; (s.placeWg lid p).getD (((s.attachWait lid).getD s).privFault ctx p.core p.berths.length (s.usedWindows ctx))
    | none => s)

/-- Unsuccessful requests in a row after which a thief also asks other dies. -/
def ownDieTries : Nat := 4

/-- A thief may ask this victim: in deterministic mode the next one in order after the thief (R399), else one of its own die, and of another die
after 4 unsuccessful requests in a row (R181). -/
def State.mayRob (s : State) (ctx thief victim : Nat) : Bool :=
  let part := s.partCores ctx
  let i := part.idxOf thief
  let order := part.drop (i + 1) ++ part.take i
  let tries := (s.core thief).tries
  thief != victim && part.contains victim &&
    (if (s.ctx ctx).det then order[tries % order.length]? == some victim else s.dieOf victim == s.dieOf thief || ownDieTries ≤ tries)

/-- Count a request: a success ends the row, in which a failure counts, up to what the next choice of a victim asks for. -/
def State.tried (s : State) (ctx thief : Nat) (ok : Bool) : State :=
  let c := s.core thief
  s.setCore thief { c with tries := if ok then 0
                                    else if (s.ctx ctx).det then (c.tries + 1) % Nat.max ((s.partCores ctx).length - 1) 1
                                    else Nat.min (c.tries + 1) ownDieTries }

/-- A steal that does not go on for a page of the victim's ring, or of the task's private window. -/
def State.stealFault (s : State) (ctx thief victim : Nat) : State :=
  let o := s.over ctx victim
  let s' := if 0 < o.count then s.ringFault ctx victim o.top else s
  match (if 0 < o.count then (s.ringEntry ctx victim o.top).map Prod.fst else (s.core victim).deque.find? (fun d => s.descCtx d == ctx)) with
  | some d => if s.taskFits thief d then s'.privFault ctx thief 1 (s.usedWindows ctx) else s'
  | none => s'

def execStealRequest (thief victim : Nat) (s : State) : Host.Outcome State Fault Refusal :=
  .next
    (let idle := 0 < s.freeBerths thief && (s.fill thief).isNone && !s.launches.any (fun e => s.placesAt e.1 thief)
     match (s.runningOn thief).find? (fun x => (s.openCores x).contains thief && s.mayRob x thief victim) with
     | some x =>
       if !idle then s
       else match s.stealTask x thief victim with
         | some s => s.tried x thief true
         | none => (s.stealFault x thief victim).tried x thief false
     | none => s)

/-! ### The view-merge engine (R185, R189, R297, R298) -/

/-- The view's space is one of a member's of a block: a strand's own, or the last strand's of an ended child. -/
def Member.owns (b : Block) (m : Member) (v : ViewSpace) : Bool :=
  v.lid == b.lid && (match m with | .strand n _ => v.recNo == b.recNo && v.strand == n | .child r _ _ => v.recNo == r)

/-- Crumbs of the views pulled from other cores: one for each view, whatever the pieces of its space. -/
def State.viewCrumbs (s : State) (core : Nat) (p : ViewSpace → Bool) : State :=
  (viewKeys.filterMap (fun k => s.viewSpaces.find? (fun v => v.red == k && p v && v.core < noCore && v.core != core))).foldl (fun s v =>
    s.crumb core v.ctx 0x31 (mBody (s.physCore v.core) ((s.core v.core).recorder.cseq + 2 ^ 28 - 1) v.red)) s

/-- Space for the views of a block as combined so far, on the core that runs the parent (R185). -/
def State.growAll (s : State) (b : Block) (core : Nat) : State :=
  b.acc.foldl (fun s e => s.growView ⟨(s.launch b.lid).ctx, b.lid, b.recNo, 0, e.1, 0, 0, 0⟩ core e.2.size) s

/-- Combine the first member of a closing block on the core that runs the parent, and give its views' space back; a page of the overflow object
that is not mapped delays it. None where that member has not ended. -/
def State.mergeStep (s : State) (id : Nat) : Option State :=
  let b := s.block id
  let b' := b.mergeOne (s.launch b.lid).lrec.reds
  let core := if (s.grp b.gid).status == .none then b.core else (s.grp b.gid).core
  match b.items with
  | m :: l =>
    if b'.items != l then none
    else
      let mine := m.owns b
      let t := ((s.viewCrumbs core mine).growAll b' core)
      match t.viewFault (fun v => mine v || (v.lid == b.lid && v.recNo == b.recNo && v.strand == 0)) with
      | some va => some (s.engineFault (s.launch b.lid).ctx core va true (accessId 5 id 0))
      | none => some ((t.freeViews (fun v => mine v && !(v.recNo == b.recNo && v.strand == 0))).setBlock id b')
  | [] => none

def execViewMerge (id : Nat) (s : State) : Host.Outcome State Fault Refusal :=
  .next
    (let b := s.block id
     if !b.live || !b.closing then s
     else if !b.items.isEmpty then
       (s.mergeStep id).getD s
     else if !b.ending || !s.quietOf b.gid then s
     else
       let g := s.grp b.gid
       let s := s.finishBlock id
       if g.status != .none && g.block == id && g.live == 0 then s.leave b.gid b.killed else s)

end Sys2Proof.Machine
end

