-- ==== Sys2Proof/Machine/Queue.lean ====
section
/-! DEFINITION. Launch records, LAUNCH, GRAPH and COPY packets, the end of a launch, and LAUNCH and POSTRES (R175, R186, R195, R198, R209,
R210, R306, R307, R322 to R332). -/

namespace Sys2Proof.Machine

/-! ### Launch records (R324) -/

/-- Little-endian field of a record. -/
def recField (b : List Byte) (off n : Nat) : Nat := leNat ((b.drop off).take n)

/-- Entries of the layout table that a record names. -/
def recLayouts (b : List Byte) : Nat := if recField b 50 1 = 255 then 0 else recField b 51 1 + 1

/-- The record that 1152 bytes hold. -/
def LaunchRec.ofBytes (b : List Byte) : LaunchRec :=
  let ctl := recField b 6 1
  { entry := recField b 0 4, codecap := recField b 4 2, prio := ctl % 4, det := bit ctl 2, collon := bit ctl 3, capn := recField b 7 1
    w1 := recField b 8 1 % 8, fields := (List.range 4).map (fun m => (recField b (9 + m) 1 % 64, recField b (9 + m) 1 / 64))
    allot := recField b 13 1, ucnt := recField b 14 1, handles := recField b 15 1, tiles := (List.range 16).map (fun n => recField b (16 + 2 * n) 2)
    scratch := recField b 48 2, laycap := recField b 50 1, lcount := recLayouts b, rescap := recField b 52 1, resofs := recField b 56 8
    slots := (List.range 8).map (fun n => .ofNat 32 (recField b (64 + 4 * n) 4))
    caplist := (List.range (recField b 7 1)).map (fun e => recField b (96 + 2 * e) 2), traps := .ofNat 128 (recField b 128 16)
    seed := recField b 144 8, delta := recField b 152 8, gamma := (List.range 64).map (fun d => recField b (256 + 8 * d) 8)
    reds := (List.range 16).map (fun n => .ofNat 128 (recField b (768 + 16 * n) 16)), colld := .ofNat 512 (recField b 1024 64) }

/-- Offset of the first non-zero byte of a range. -/
def firstByte (b : List Byte) (off n : Nat) : Option Nat := ((List.range n).map (off + ·)).find? (fun o => recField b o 1 != 0)

/-- Bytes that are reserved, as fields. -/
def zeroBytes (b : List Byte) (off n : Nat) : List (Nat × Bool) :=
  if recField b off n = 0 then [] else (List.range n).map (fun k => (off + k, recField b (off + k) 1 == 0))

/-- Offset of the first field of a list that fails. -/
def firstBad (l : List (Nat × Bool)) : Option Nat := (l.find? (fun e => !e.2)).map Prod.fst

/-- Fields whose breach gives BADFIELDS, in ascending offset (R154, R326). -/
def recFields (b : List Byte) : List (Nat × Bool) :=
  let field (m : Nat) : Nat := recField b (9 + m) 1
  ([(6, recField b 6 1 < 16),
   (8, recField b 8 1 ≤ 5 && 5 + recField b 8 1 % 8 + ((List.range 4).map (fun m => field m % 64)).sum ≤ 64)] : List (Nat × Bool)) ++
  (List.range 4).map (fun m => (9 + m, field m % 64 ≤ 32 && field m < 192 && (field m % 64 != 0 || field m / 64 == 0))) ++
  zeroBytes b 53 3 ++ zeroBytes b 160 96 ++ zeroBytes b 1088 64

/-- R50 for a format slot; a SLAYOUT other than 0 with SKIND 00, which R49 excludes, breaks it as well (log 70). -/
def slotOk (w : Nat) : Bool :=
  let fmt := w % 16
  let kind := bits w 5 4
  let band := bit w 6
  let shift := match kind with | 1 => 3 | 2 => 5 | 3 => 4 | _ => 0
  if !bit w 7 then w == 0
  else
    w / 2 ^ 21 == 0 && bits w 20 16 == shift && (kind != 0 || bits w 15 8 == 0) &&
      (match fmt with
       | 3 | 4 => kind != 1 && !band
       | 5 => 2 ≤ kind && !band
       | 6 => kind == 1 || kind == 3
       | f => f ≤ 7 && kind == 0 && !band)

/-- Offset of what breaks R50 in a slot: the slot's start where its other fields do, else its first non-zero reserved byte (log 70). -/
def slotField (b : List Byte) (n : Nat) : Nat :=
  let w := recField b (64 + 4 * n) 4
  if !bit w 7 then (firstByte b (64 + 4 * n) 4).getD (64 + 4 * n)
  else if !slotOk (w % 2 ^ 21) || w / 2 ^ 21 = 0 then 64 + 4 * n
  else (if bits w 23 21 = 0 then 67 else 66) + 4 * n

def recSlots (b : List Byte) : List (Nat × Bool) := (List.range 8).map (fun n => (slotField b n, slotOk (recField b (64 + 4 * n) 4)))

/-- R175: δ and every γ lie below p. -/
def recKeys (b : List Byte) : List (Nat × Bool) :=
  (152, decide (recField b 152 8 < Config.p)) :: (List.range 64).map (fun d => (256 + 8 * d, decide (recField b (256 + 8 * d) 8 < Config.p)))

/-- R195 and the ranges of the vault declaration; the window's size is checked at TILES. -/
def recVault (b : List Byte) : List (Nat × Bool) :=
  let tiles := (List.range 16).map (fun n => recField b (16 + 2 * n) 2)
  let scratch := recField b 48 2
  ([(13, between 1 22 (recField b 13 1)), (14, recField b 14 1 ≤ 5), (15, recField b 15 1 ≤ 64)] : List (Nat × Bool)) ++
    (List.range 16).map (fun n => (16 + 2 * n, decide (recField b (16 + 2 * n) 2 ≤ 128))) ++
    [(48, decide (scratch ≤ 240)), (16, decide (4096 * (tiles.sum + scratch) ≤ poolBytes))]

/-- A layout entry keeps R198 and R200. -/
def layoutOk (i : BitVec 512) : Bool :=
  let ctl := imgBytes i 56 4
  let ext (d : Nat) : Nat := imgBytes i (12 + 4 * d) 4
  imgBytes i 8 4 == 0 && imgBytes i 60 4 == 0 && ctl < 2 ^ 20 && bits ctl 19 16 ≤ 7 && bits ctl 7 6 != 3 && bits ctl 5 3 ≤ 4 && between 1 5 (ctl % 8) &&
    (List.range 5).all (fun d => between 1 (2 ^ 31 - 1) (ext d) && (d < ctl % 8 || ext d == 1)) &&
    (let bitsRow := ext 0 * (4 * 2 ^ bits ctl 5 3)
     swzOk (imgBytes i 52 4) (if bitsRow % 8 = 0 then bitsRow / 8 else 2 * (bitsRow / 8) + 1))

/-- R307 for a reducer's declaration: its fields in ascending offset. -/
def recReducer (b : List Byte) (n : Nat) : List (Nat × Bool) :=
  let o := 768 + 16 * n
  let d : BitVec 128 := .ofNat 128 (recField b o 16)
  let v := d.toNat
  let k := redKind d
  if k = 0 then zeroBytes b o 16
  else
    let op := redOp d
    let pair := match k with | 1 => op == 0 | 2 => between 1 3 op | _ => between 4 6 op
    let ety := if k = 1 || (k = 2 && op != 1) then redEty d ≤ 2 else redEty d == 0
    let rnd := if k = 1 then between 1 5 (redRnd d) else redRnd d == 0
    [(o, bits v 3 2 == 0 && pair), (o + 1, bits v 9 8 == 0 && ety && rnd), (o + 2, bits v 23 16 == 0), (o + 3, bits v 31 24 == 0),
     (o + 4, op != 1 || bits v 43 32 == 0), (o + 5, bits v 47 44 == 0), (o + 6, bits v 55 48 == 0),
     (o + 7, redCap d < recField b 7 1), (o + 8, redOfs d % 16 == 0)]

/-! ### Checking a record (R326, R328) -/

/-- The capability list of a record: entries beyond the queue's array are none. -/
def State.recCaps (s : State) (d : Queue) (b : List Byte) : List (Option Cap) :=
  (LaunchRec.ofBytes b).caplist.map (s.queueCap d)

/-- A capability that the launch may write `n` bytes at an offset through. -/
def State.writable (s : State) (ctx : Nat) (c : Option Cap) (off n : Nat) : Bool :=
  match c with
  | some c => c.tag && c.has rWrite && c.covers off n && (s.portCheck ctx c off n false).isNone
  | none => false

/-- The layout table of a record; none where it cannot be read. -/
def State.recTable (s : State) (ctx : Nat) (d : Queue) (b : List Byte) : PilotRead :=
  let n := recLayouts b
  if n = 0 then .ok []
  else
    match ((s.recCaps d b)[recField b 50 1]?).bind id with
    | some c => s.pilotRead ctx c 0 (64 * n)
    | none => .bad

def entriesOf (t : List Byte) : List (BitVec 512) := (List.range (t.length / 64)).map (fun n => .ofNat 512 (leNat ((t.drop (64 * n)).take 64)))

/-- Layout fields: the capability index, the count, and the entries. -/
def recLayout (b : List Byte) (t : PilotRead) : List (Nat × Bool) :=
  let lc := recField b 50 1
  [(50, (lc == 255 || lc < recField b 7 1) && (match t with | .ok t => (entriesOf t).all layoutOk | _ => true)),
   (51, lc != 255 || recField b 51 1 == 0)]

/-- Capability indices, rights and the entry point. -/
def State.recRights (s : State) (ctx : Nat) (d : Queue) (b : List Byte) (t : PilotRead) : List (Nat × Bool) :=
  let caps := s.recCaps d b
  let cap (n : Nat) : Option Cap := (caps[n]?).bind id
  let entry := recField b 0 4
  let capn := recField b 7 1
  let code := s.queueCap d (recField b 4 2)
  let codeOk := match code with | some c => c.tag && c.has rExec && (s.portCheck ctx c c.start 4 false).isNone | none => false
  let rc := recField b 52 1
  [(0, entry % 4 == 0 && (match code with | some c => !codeOk || entry < c.length | none => true)), (4, codeOk), (7, between 1 16 capn),
   (50, match t with | .bad => false | _ => true),
   (52, rc == 255 || (rc < capn && (match cap rc with | some c => c.tag && c.has rWrite && (s.portCheck ctx c 0 0 false).isNone | none => true))),
   (56, recField b 56 8 % 8 == 0 && (rc == 255 || capn ≤ rc || (cap rc).isNone || s.writable ctx (cap rc) (recField b 56 8) 8))] ++
  caps.zipIdx.map (fun e => (96 + 2 * e.2, e.1.isSome)) ++
  (List.range 64).map (fun c => (128 + c / 4, bits (recField b 128 16) (2 * c + 1) (2 * c) != 3)) ++
  (List.range 16).map (fun n =>
    let r : BitVec 128 := .ofNat 128 (recField b (768 + 16 * n) 16)
    (768 + 16 * n + 7, redKind r == 0 || (match cap (redCap r) with | some c => c.tag && c.has rWrite && (s.portCheck ctx c 0 0 false).isNone | none => true)))

/-- The attached collective's fields in ascending offset (R326, R368, R378). -/
def State.recColl (s : State) (ctx : Nat) (d : Queue) (b : List Byte) : List (Nat × Bool) :=
  let i : BitVec 512 := .ofNat 512 (recField b 1024 64)
  let cap (n : Nat) : Option Cap := ((s.recCaps d b)[n]?).bind id
  if !bit (recField b 6 1) 3 then [((firstByte b 1024 64).getD 1024, i == 0)]
  else
    let comm := (cap (cdCcap i)).getD Cap.null
    let data := (cap (cdDcap i)).getD Cap.null
    let n := (s.objNat comm.name 0 4).getD 0
    let r := cdRank i
    let inside (x : Nat × Nat) : Bool := x.1 + x.2 ≤ data.length
    [(6, (s.ctx ctx).colln != 0),
     (1024, comm.tag && comm.has rRead && comm.covers 0 64 && (s.portCheck ctx comm 0 64 false).isNone),
     (1026, data.tag && data.has rRead && data.has rWrite),
     (1028, r < n && comm.covers 0 (64 + 4 * r + 4) && (s.portCheck ctx comm 0 (64 + 4 * r + 4) false).isNone && s.rankDevice comm.name r == s.devnum),
     (1032, cdKind i ≤ 4 && cdRop i ≤ 5 && (cdKind i ≤ 1 || cdRop i == 0) && (cdRop i < 3 || cdEty i == 4 || cdEty i == 6)),
     (1033, cdEty i ≤ 6), (1034, imgBytes i 10 1 == 1), (1035, imgBytes i 11 1 == 0), (1036, cdAbofs i == 0),
     (1040, inside (srcRun false i n)), (1048, (dstRuns false i n).all inside),
     (1056, if cdKind i = 4 then cdCount i == 0 else between 1 (2 ^ 24) (cdCount i))] ++ zeroBytes b 1064 24

/-- The first status that rejects a record, with its DETAIL. -/
def State.checkRec (s : State) (ctx : Nat) (d : Queue) (b : List Byte) (t : PilotRead) : Option (Nat × Nat) :=
  let reds := (List.range 16).flatMap (recReducer b)
  let groups : List (Nat × List (Nat × Bool)) :=
    [(3, recFields b), (4, recSlots b), (5, recKeys b), (6, recVault b), (7, recLayout b t), (8, reds), (9, s.recRights ctx d b t),
     (10, s.recColl ctx d b), (11, [(6, bit (recField b 6 1) 2 == (s.ctx ctx).det)])]
  groups.findSome? (fun g => (firstBad g.2).map (fun off => (g.1, off)))

/-! ### Starting a launch (R327) -/

/-- What starting a record comes to. -/
inductive Start where
  | wait
  | reject (status detail : Nat)
  | started (lid : Nat) (s : State)

/-- Write zeros or other bytes through a capability of a launch; none while a page is not mapped. Bytes that its object does not take are
not written. -/
def State.pilotWrite (s : State) (ctx : Nat) (c : Cap) (off : Nat) (b : List Byte) : Option State :=
  match s.engineRun ctx c none true (b.length / 65536 + 1) off b.length with
  | .ok l => some ((s.store ((l.map Prod.snd).zip b) false).uncheckedWrite (objKey ctx c.name) off b.length)
  | .async _ => some s
  | .fault _ => none

/-- The page of the communicator of a record's attached collective keeps its check (R328). -/
def State.recCollWait (s : State) (ctx : Nat) (d : Queue) (b : List Byte) (who : Nat) : Option State :=
  let i : BitVec 512 := .ofNat 512 (recField b 1024 64)
  if !bit (recField b 6 1) 3 then none
  else s.commWait ctx ((((s.recCaps d b)[cdCcap i]?).bind id).getD Cap.null) (cdRank i) who

/-- Read, check and start a record. -/
def State.startRecord (s : State) (ctx q index : Nat) (graph : Bool) (d : Queue) (reccap recofs : Nat) : Start :=
  match s.queueCap d reccap with
  | none => .reject stBadCap 0
  | some rc =>
    match s.pilotRead ctx rc recofs 1152 with
    | .wait => .wait
    | .bad => .reject stRecFault 0
    | .ok b =>
      match s.recTable ctx d b, s.recCollWait ctx d b 0 with
      | .wait, _ => .wait
      | _, some _ => .wait
      | t, none =>
        match s.checkRec ctx d b t with
        | some (st, detail) => .reject st detail
        | none =>
          let r := LaunchRec.ofBytes b
          let caps := (s.recCaps d b).map (fun c => c.getD Cap.null)
          let (lid, s) := s.fresh
          let (order, s) := s.fresh
          let l : Launch := { Launch.blank with
            live := true, ctx := ctx, queue := q, index := index, graph := graph, lrec := r, code := (s.queueCap d r.codecap).getD Cap.null
            caps := caps, layouts := (match t with | .ok t => entriesOf t | _ => [])
            nWg := 2 ^ ((r.fields.map Prod.fst).sum), order := order }
          match (if r.rescap = 255 then some s else s.pilotWrite ctx (caps.getD r.rescap Cap.null) r.resofs (List.replicate 8 0)) with
          | none => .wait
          | some s => .started lid (s.setLaunch lid l)

/-- The pages that keep a record from starting: its own, its layout table's, its result word's. -/
def State.recordFault (s : State) (ctx : Nat) (d : Queue) (reccap recofs who : Nat) : State :=
  match s.queueCap d reccap with
  | none => s
  | some rc =>
    match s.pilotRead ctx rc recofs 1152 with
    | .wait => s.pilotFault ctx rc recofs 1152 who
    | .bad => s
    | .ok b =>
      let cap (n : Nat) : Cap := (((s.recCaps d b)[n]?).bind id).getD Cap.null
      match s.recTable ctx d b with
      | .wait => s.pilotFault ctx (cap (recField b 50 1)) 0 (64 * recLayouts b) who
      | _ =>
        let s := (s.recCollWait ctx d b who).getD s
        if recField b 52 1 = 255 then s else s.pilotFault ctx (cap (recField b 52 1)) (recField b 56 8) 8 who true

/-- PRIO of the record at a place; 0 where it cannot be read, none while its page is not mapped. -/
def State.prioAt (s : State) (ctx : Nat) (d : Queue) (reccap recofs : Nat) : Option Nat :=
  match s.queueCap d reccap with
  | none => some 0
  | some c => match s.pilotRead ctx c recofs 1152 with | .ok b => some (recField b 6 1 % 4) | .bad => some 0 | .wait => none

/-- The node of a graph from which a launch may start now: its bytes. -/
def State.graphDue (s : State) (r : GraphRun) : Option (List Byte) :=
  if r.lid != 0 || r.result.isSome || r.steps = r.maxsteps then none
  else match s.pilotRead r.ctx r.gcap (r.gofs + 64 * r.node) 64 with | .ok b => some b | _ => none

/-- Number of a queue in the round robin (R327). -/
def queueKey (ctx q : Nat) : Nat := 64 * q + ctx

/-- PRIO of a launch that can start, or be rejected, now; none where it waits for a page (R327). -/
def State.ripe (s : State) (ctx q index : Nat) (graph : Bool) (d : Queue) (reccap recofs : Nat) : Option Nat :=
  match s.startRecord ctx q index graph d reccap recofs with
  | .wait => none
  | _ => s.prioAt ctx d reccap recofs

/-- The launches that can start, of LAUNCH packets and of graphs: PRIO and queue. -/
def State.launchers (s : State) : List (Nat × Nat) :=
  let graphs := s.graphs.filterMap (fun r =>
    match s.graphDue r, s.queue r.ctx r.queue with
    | some b, some d => if (s.ctx r.ctx).state == .running then (s.ripe r.ctx r.queue r.index true d (recField b 8 2) (recField b 0 8)).map (fun p => (p, queueKey r.ctx r.queue)) else none
    | _, _ => none)
  graphs ++ s.ctxs.flatMap (fun e => (List.range e.2.qn).filterMap (fun q =>
    match s.nextPacket e.1 q, s.queue e.1 q with
    | some (p, s'), some d =>
      if d.copy || pktType p.image != 1 || !s'.canStart p || !pktOk p.image d || imgBytes p.image 8 8 % 64 != 0 then none
      else (s'.ripe e.1 q p.index false d (imgBytes p.image 16 2) (imgBytes p.image 8 8)).map (fun x => (x, queueKey e.1 q))
    | _, _ => none))

/-- A launch of another queue that can start goes first: higher PRIO, or the same and an earlier turn after the queue served last (R327). -/
def State.outranked (s : State) (ctx q prio : Nat) : Bool :=
  let me := queueKey ctx q
  let turn (k : Nat) : Nat := (k + 2 ^ 22 - s.queueTurn - 1) % 2 ^ 22
  s.launchers.any (fun x => x.2 != me && (prio < x.1 || (x.1 == prio && turn x.2 < turn me)))

/-- Start the launch of a record in its turn. -/
def State.startTurn (s : State) (ctx q index : Nat) (graph : Bool) (d : Queue) (reccap recofs : Nat) : Start :=
  if s.outranked ctx q ((s.prioAt ctx d reccap recofs).getD 0) then .wait
  else match s.startRecord ctx q index graph d reccap recofs with
    | .started lid s => .started lid { s with queueTurn := queueKey ctx q }
    | x => x

def execLaunchPacket (ctx q : Nat) (s0 : State) : Host.Outcome State Fault Refusal :=
  .next (s0.onPacket ctx q 1 (fun s d p =>
    let off := imgBytes p.image 8 8
    if off % 64 != 0 then s.packetDone ctx q p.index stBadPacket 0
    else
      match s.startTurn ctx q p.index false d (imgBytes p.image 16 2) off with
      | .wait => some (s0.recordFault ctx d (imgBytes p.image 16 2) off (accessId 0 q p.index))
      | .reject st detail => s.packetDone ctx q p.index st detail
      | .started _ s => some s))

/-! ### Graphs (R329, R330) -/

def execGraph (ctx q : Nat) (s : State) : Host.Outcome State Fault Refusal :=
  .next (s.onPacket ctx q 4 (fun s d p =>
    let i := p.image
    let gofs := imgBytes i 8 8
    if gofs % 64 != 0 || imgBytes i 20 4 = 0 then s.packetDone ctx q p.index stBadPacket 0
    else
      match s.queueCap d (imgBytes i 16 2) with
      | none => s.packetDone ctx q p.index stBadCap 0
      | some c =>
        let r : GraphRun := { ctx := ctx, queue := q, index := p.index, gcap := c, gofs := gofs, node := imgBytes i 18 2, steps := 0
                              maxsteps := imgBytes i 20 4, lid := 0, result := none }
        some { s with graphs := s.graphs ++ [r] }))

/-- Replace or remove a graph. -/
def State.graphPut (s : State) (r : GraphRun) (r' : Option GraphRun) : State :=
  { s with graphs := s.graphs.flatMap (fun x => if x.ctx == r.ctx && x.queue == r.queue && x.index == r.index then r'.toList else [x]) }

def State.graphEnd (s : State) (r : GraphRun) (status detail : Nat) : Option State :=
  (s.graphPut r none).packetDone r.ctx r.queue r.index status detail

/-- A node's bytes: NSUCC is at most 8, and reserved fields are ignored (R7, R329). -/
def State.graphNode (s : State) (r : GraphRun) : PilotRead :=
  match s.pilotRead r.ctx r.gcap (r.gofs + 64 * r.node) 64 with
  | .ok b => if 8 < recField b 14 1 then .bad else .ok b
  | x => x

/-- The node after a result word. -/
def nextNode (b : List Byte) (w : Nat) : Nat :=
  match (List.range (recField b 14 1)).find? (fun m => recField b (16 + 4 * m) 4 == w) with
  | some m => recField b (48 + 2 * m) 2
  | none => recField b 12 2

/-- One step of a graph: start the next node's launch, or act on the result of the one that has completed. -/
def State.graphStep (s : State) (r : GraphRun) : Option State :=
  match r.result with
  | some x =>
    if x % 256 != stOk then s.graphEnd r (x % 256) 0
    else
      match s.graphNode r with
      | .wait => s.raised (s.pilotFault r.ctx r.gcap (r.gofs + 64 * r.node) 64 (accessId 6 r.queue r.index))
      | .bad => s.graphEnd r stRecFault 0
      | .ok b =>
        let n := nextNode b (x / 256)
        if n = 0xFFFF then s.graphEnd r stOk 0 else some (s.graphPut r (some { r with node := n, lid := 0, result := none }))
  | none =>
    if r.lid != 0 then none
    else if r.steps = r.maxsteps then s.graphEnd r stStepLimit 0
    else
      match s.graphNode r, s.queue r.ctx r.queue with
      | _, none => none
      | .wait, some _ => s.raised (s.pilotFault r.ctx r.gcap (r.gofs + 64 * r.node) 64 (accessId 6 r.queue r.index))
      | .bad, some _ => s.graphEnd r stRecFault 0
      | .ok b, some d =>
        if recField b 0 8 % 64 != 0 then s.graphEnd r stBadPacket 0
        else
          match s.startTurn r.ctx r.queue r.index true d (recField b 8 2) (recField b 0 8) with
          | .wait => s.raised (s.recordFault r.ctx d (recField b 8 2) (recField b 0 8) (accessId 6 r.queue r.index))
          | .reject st detail => s.graphEnd r st detail
          | .started lid s => some (s.graphPut r (some { r with steps := r.steps + 1, lid := lid }))

def execGraphStep (ctx q : Nat) (s : State) : Host.Outcome State Fault Refusal :=
  .next
    (if (s.ctx ctx).state != .running then s
     else
       match (s.graphs.filter (fun r => r.ctx == ctx && r.queue == q)).findSome? s.graphStep with
       | some s' => s'
       | none => s)

/-! ### The end of a launch (R186, R306, R307, R327) -/

/-- Insert final views by ascending work identifier. -/
def insertFinal (x : Nat × Views) : List (Nat × Views) → List (Nat × Views)
  | [] => [x]
  | y :: l => if x.1 ≤ y.1 then x :: y :: l else y :: insertFinal x l

/-- The launch's views: those of its grid groups, in ascending work identifier. -/
def Launch.views (l : Launch) : Views := (l.finals.foldr insertFinal []).foldl (fun a e => combineViews l.lrec.reds a e.2) []

/-- Bytes of a finalised reducer; `room` is what an APPEND result may take. -/
def finalBytes (d : BitVec 128) (v : View) (room : Nat) : List Byte :=
  match v with
  | .exact l => l.flatMap (fun x => toLE 4 (x.final (fmtOfTy (redTy d)) (rndCode (redRnd d)))) ++ l.flatMap XA.bytes
  | .minmax l => l.flatMap (fun x =>
      match x with
      | some (v, ix) => toLE 4 v.toNat ++ toLE 4 ix.toNat ++ toLE 8 1
      | none => toLE 4 (extreme d) ++ toLE 4 0xFFFFFFFF ++ toLE 8 0)
  | .bits l => l.flatMap (fun x => toLE 8 x.toNat)
  | .items l =>
    let k := Nat.min l.length (room / 8)
    toLE 8 k ++ toLE 8 (l.length - k) ++ (l.take k).flatMap (fun x => toLE 8 x.toNat)
  | _ => []

/-- Write the results of the reducers from number `n` on; none while a page is not mapped. -/
def State.writeReducers (s : State) (l : Launch) (v : Views) : List Nat → Option State
  | [] => some s
  | n :: r =>
    let d := l.lrec.reds.getD n 0
    if redKind d = 0 then State.writeReducers s l v r
    else
      let c := l.caps.getD (redCap d) Cap.null
      let x := match Cells.get View.missing v n with | .missing => identityView d | x => x
      (s.pilotWrite l.ctx c (redOfs d) (finalBytes d x (c.start + c.length - (redOfs d + 16)))).bind (fun s => State.writeReducers s l v r)

/-- Append the merged log: the entries that fit as a prefix, then the counters. -/
def State.appendLog (s : State) (ctx : Nat) (l : List (List Byte)) : Option State :=
  let name := (s.ctx ctx).log
  if l.isEmpty || !(s.obj name.toNat).live then some s
  else
    match s.objNat name 0 8, s.objNat name 8 8, s.objNat name 16 8 with
    | some n, some dropped, some used =>
      let room := (s.obj name.toNat).extent - 32
      let keep (k : Nat) : Bool := used + ((l.take k).map List.length).sum ≤ room
      let k := ((List.range (l.length + 1)).filter keep).length - 1
      let put (s : State) (off : Nat) (b : List Byte) : Option State := s.devWrite name off b
      let kept := l.take k
      let r := kept.foldl (fun (x : Option State × Nat) b => (x.1.bind (fun s => put s (32 + x.2) b), x.2 + b.length)) (some s, used)
      r.1.bind (fun s => put s 0 (toLE 8 (n + k) ++ toLE 8 (dropped + (l.length - k)) ++ toLE 8 r.2))
    | _, _, _ => none

/-- The pages that keep a launch's log from being appended (R343). -/
def State.logFault (s : State) (ctx lid : Nat) (l : List (List Byte)) : State :=
  let name := (s.ctx ctx).log
  if l.isEmpty then s
  else
    let s := s.keyFault name.toNat 0 24 (accessId 7 lid 16) true
    match s.objNat name 16 8 with
    | none => s
    | some used =>
      let n := Nat.min (l.map List.length).sum ((s.obj name.toNat).extent - 32 - used)
      s.keyFault name.toNat (32 + used) n (accessId 7 lid 17) true

/-- Work of a launch that is not over: groups, blocks, stores, copies. -/
def State.launchBusy (s : State) (lid : Nat) : Bool :=
  s.groups.any (fun e => e.2.status != .none && e.2.lid == lid) || s.blocks.any (fun e => e.2.live && e.2.lid == lid) ||
    s.stores.any (fun p => p.lid == lid) || s.sideLog.any (fun p => p.lid == lid) || s.cores.any (fun e => e.2.copies.any (fun c => c.lid == lid))

/-- The attached collective of a launch has not retired. -/
def State.attachedBusy (s : State) (lid : Nat) : Bool :=
  let i := (s.launch lid).collInst
  i != 0 && (s.coll i).live && (s.coll i).members.any (fun m => m.lid == lid && m.attached && !m.done)

/-- Free a launch's task records, task-table entries and views (R178, R185, R188). -/
def State.freeLaunch (s : State) (lid : Nat) : State :=
  let s := s.freeViews (fun v => v.lid == lid)
  let l := s.launch lid
  let c := s.ctx l.ctx
  let s := s.setCtx l.ctx { c with recs := c.recs.filter (fun e => e.2 != lid + 1) }
  let s := { s with tasks := s.tasks.map (fun (e : Nat × TaskEntry) =>
    if e.2.lid == lid && e.2.state != 0 then (e.1, { e.2 with state := 0, gen := (e.2.gen + 1) % 2 ^ 12 }) else e) }
  s.setLaunch lid Launch.blank

/-- Complete the packet of a launch, or hand its status and result word to its graph. -/
def State.launchStatus (s : State) (l : Launch) (lid status : Nat) : Option State :=
  match s.graphs.find? (fun r => l.graph && r.lid == lid) with
  | none => s.packetDone l.ctx l.queue l.index status 0
  | some r =>
    if l.lrec.rescap = 255 then some (s.graphPut r (some { r with result := some status }))
    else
      match s.engineRes l.ctx (l.caps.getD l.lrec.rescap Cap.null) none l.lrec.resofs 4 false with
      | .fault _ => none
      | .async _ => some (s.graphPut r (some { r with result := some status }))
      | .ok p => some (s.graphPut r (some { r with result := some (status + 256 * s.readNat (p.map Prod.snd)) }))

/-- The pages that keep a launch's results from being written. -/
def State.resultFault (s : State) (l : Launch) (lid : Nat) (v : Views) : State :=
  (List.range 16).foldl (fun s n =>
    let d := l.lrec.reds.getD n 0
    let c := l.caps.getD (redCap d) Cap.null
    let x := match Cells.get View.missing v n with | .missing => identityView d | x => x
    if redKind d = 0 then s
    else s.pilotFault l.ctx c (redOfs d) (finalBytes d x (c.start + c.length - (redOfs d + 16))).length (accessId 7 lid n) true) s

def execLaunchComplete (lid : Nat) (s : State) : Host.Outcome State Fault Refusal :=
  .next
    (let l := s.launch lid
     if !l.live || s.launchBusy lid then s
     else if l.killed then
       if s.attachedBusy lid then
         let c := s.coll l.collInst
         if (c.status.isNone || c.status == some 0) && c.members.all (fun m => !m.done) then s.setColl l.collInst { c with status := some 2 } else s
       else (((s.freeLaunch lid).launchStatus l lid stKilled)).getD s
     else if l.nextWg < l.nWg || (s.ctx l.ctx).state != .running || s.attachedBusy lid then s
     else
       let v := l.views
       let log := match Cells.get View.missing v logKey with | .log x => x | _ => []
       (((s.writeReducers l v (List.range 16)).bind (fun s => s.appendLog l.ctx log)).bind (fun s => (s.freeLaunch lid).launchStatus l lid stOk)).getD ((s.resultFault l lid v).logFault l.ctx lid log))

/-! ### COPY packets (R209, R210) -/

def execCopyPacket (ctx q : Nat) (s : State) : Host.Outcome State Fault Refusal :=
  .next (s.onPacket ctx q 2 (fun s d p =>
    let i := p.image
    let done (st : Nat) : Option State := s.packetDone ctx q p.index st 0
    if copyHandle i != 0xFFFF || imgBytes i 52 4 != 0 || 16 ≤ imgBytes i 48 2 || 2 ^ 16 ≤ imgBytes i 44 4 then done stBadPacket
    else
      match s.queueCap d (imgBytes i 24 2), s.queueCap d (imgBytes i 26 2) with
      | some sc, some dc =>
        let chk := (s.copyCheck sc none rRead (copySpan i false)).and (s.copyCheck dc none rWrite (copySpan i true))
        let l := s.dieCores d.die
        match l[Config.choose s.freeCount l.length % l.length]? with
        | none => none
        | some core =>
          if !copyOk i || chk != .ok then done stCopyErr
          else
            let c := s.core core
            let cp : Copy := { image := i, src := sc, dst := dc, srcVault := none, dstVault := none, ctx := ctx, lid := 0, gid := 0, wg := none, op := 0
                               entry := 0, queue := some (q, p.index), pc := 0, seq := 0, pos := 0, paused := none, sent := false }
            some (s.setCore core { c with copies := c.copies ++ [cp] })
      | _, _ => done stBadCap))

/-- A context has been killed or is LOST. -/
def State.gone (s : State) (ctx : Nat) : Bool := (s.ctx ctx).state == .killed || (s.ctx ctx).state == .lost

/-- Give a copy's workgroups their windows back once nothing names them. -/
def State.reapSides (s : State) (c : Copy) : State :=
  ([c.srcVault, c.dstVault].filterMap id).foldl State.reap s

/-- End a copy: its handle, counter or queue completion changes after its last write; none while the handle is not FILLING (R203), unless its
workgroup has ended, or the completion word's page is not mapped. A killed context's queues are gone (R353). -/
def State.copyEnd (s : State) (core : Nat) (c : Copy) (cause : Option Cause) : Option State :=
  let s := s.setCore core { s.core core with copies := (s.core core).copies.erase c }
  let h := copyHandle c.image
  let filled : Option State :=
    match cause, c.wg with
    | none, some w => if h = 0xFFFF || !(s.wgOf w).live || (s.wgOf w).killed then some s
      else s.handleMove w h hFilling hFull <|> guardSome (s.wgOf w).members.isEmpty (some s)
    | _, _ => some s
  filled.bind (fun s =>
    let s := s.opDone c.gid c.op
    let s := match cause with | some e => s.report c.gid e c.pc c.seq | none => s
    let done : Option State :=
      match (if s.gone c.ctx then none else c.queue) with
      | some (q, i) => s.packetDone c.ctx q i (if cause.isNone then stOk else stCopyErr) 0
      | none => some s
    done.map (fun s => s.reapSides c))

/-- A copy writes a host object: after its last RDMA WRITE it waits for the acknowledgement (R366). -/
def Copy.toHost (c : Copy) (s : State) : Bool := c.dstVault.isNone && (s.hostIndex c.dst.name).isSome

def execCopyComplete (core : Nat) (s : State) : Host.Outcome State Fault Refusal :=
  .next
    (match (s.core core).copies.find? (fun c => c.paused.isNone && !c.held s) with
     | none => s
     | some c =>
       let upd (s : State) (c' : Copy) : State :=
         s.setCore core { s.core core with copies := (s.core core).copies.map (fun x => if x == c then c' else x) }
       let at_ (s : State) (pos : Nat) : State × Copy := let c' := { c with pos := pos }; (upd s c', c')
       match s.moveChunks core c (c.chunks - c.pos) c.pos with
       | .done s' =>
         if c.toHost s && !c.sent then upd s' { c with pos := c.chunks, sent := true }
         else (let x := at_ s' c.chunks; (x.1.copyEnd core x.2 none).getD x.1)
       | .stop s' e => (let x := at_ s' c.pos; (x.1.copyEnd core x.2 (some e)).getD x.1)
       | .wait s' pos => upd s' { c with pos := pos }
       | .pause s' pos va write =>
         if s.gone c.ctx then (let x := at_ s' pos; (x.1.copyEnd core x.2 (some .page)).getD x.1) else
         let s' := upd s' { c with pos := pos, paused := some va }
         { s' with walks := s'.walks ++ [⟨s'.dieOf core, s'.nextId, c.ctx, va, write, 3, c.gid, c.pc, c.seq⟩], nextId := s'.nextId + 1 })

/-! ### LAUNCH and POSTRES (R331, R332) -/

/-- A write of the current group's instruction to an object of this device, through the race filter (R190). -/
def State.groupWrite (s : State) (c : Cap) (off : Nat) (l : List Loc) (b : List Byte) : Option State :=
  let g := s.g
  let va := (s.obj (objKey g.ctx c.name)).vbase + off
  s.engineWrite c (l.zipIdx.map (fun e => (some (va + e.2), e.1))) b g.entry s.cur g.ctx g.lid g.core g.pc g.seq

/-- Publish a packet in a queue of this device: the claimed index, then the slot, as stores of the group (R332). The descriptor's places, at an
offset of a capability, come first. None while the slot's page is not mapped, or a race record cannot be written. -/
def State.publish (s : State) (c : Cap) (off : Nat) (l : List Loc) (d : Queue) (img : BitVec 512) : Option State :=
  let i := d.widx
  let at_ := 64 * (i % d.slots)
  match s.objRun d.ring at_ 64 true with
  | none => none
  | some r =>
    let b := toLE 4 (img.toNat % 2 ^ 32) ++ toLE 4 ((i + 1) % 2 ^ 32) ++ (toLE 64 img.toNat).drop 8
    (s.groupWrite c off (l.take 8) (toLE 8 (i + 1))).bind (fun s => s.groupWrite (Cap.make d.ring 0 0 0 0 0) at_ r b)

def execLaunch (f : Fields) (s : State) : Host.Outcome State Fault Refusal :=
  s.uniform 0x1F6 f (fun s' =>
    let g := s'.g
    let img := g.image f.a
    let c := g.kreg f.ext.num1.toNat
    let off := c.start
    if imgBytes img 4 4 != 0 then s.trap .illegal f.len
    else
      s.unless ((s'.accCheck (some (.obj c)) [rRead, rWrite] 64 false [⟨0, off⟩])) f.len
        (s.releaseWait true
          (match s'.loads (.obj c) 64 false true [⟨0, off⟩] with
           | .wait => s.stall .instruction
           | .fault va => s.holdFault va true
           | .ok ls causes =>
             let give (s : State) (v : Nat) : State := s.done (s.g.defer f.d 2 [(0, v, false)] false false false) f.len
             if s'.ownPending ls then s.stall .instruction
             else
               match ls with
               | [(_, some l)] =>
                 if l.any s'.poisonAt then s.poisonTrap (s'.levelOfAll g l) f.len
                 else if s'.isPeer (.obj c) then
                   let o := s'.obj (objKey g.ctx c.name)
                   give (s'.send (.toPeer o.home c.name off (toLE 64 img.toNat))) (s'.readNat (l.take 8))
                 else
                   let d := Queue.ofImage (.ofNat 512 (s'.readNat l))
                   let ro := s'.obj d.ring.toNat
                   if d.slots ≤ d.widx - d.ridx then give s' (2 ^ 64 - 1)
                   else if !ro.live || ro.extent < 64 * d.slots then give (s'.reports [.capinvalid]) d.widx
                   else
                     match s'.publish c off l d img with
                     | some s => if s.g.status == .running then give s d.widx else s
                     | none =>
                       if (s'.objRun d.ring (64 * (d.widx % d.slots)) 64 true).isNone then s.holdFault (ro.vbase + 64 * (d.widx % d.slots)) true
                       else s.stall .ringFull
               | _ => give (s'.reports causes) 0)))

/-- POSTRES's operations as those of R244. -/
def postOp (m : Nat) : Nat := match m with | 0 => 2 | 1 => 4 | _ => 0

def execPostres (f : Fields) (s : State) : Host.Outcome State Fault Refusal :=
  s.uniform 0x1F7 f (fun s' =>
    let g := s'.g
    let l := s'.launch g.lid
    if l.lrec.rescap = 255 then s.trap .capinvalid f.len
    else
      let c := l.caps.getD l.lrec.rescap Cap.null
      s.unless (s'.accCheck (some (.obj c)) [rWrite] 8 true [⟨0, l.lrec.resofs⟩]) f.len
        (s.releaseWait true
          (s.stored s' f (.obj c) ⟨false, false, true, g.entry⟩ 8 false
            [⟨l.lrec.resofs, [], some (postOp f.mod.toNat, .n64, g.uval f f.a), false⟩])))

end Sys2Proof.Machine
end

