-- ==== Sys2Proof/Machine/Fetch.lean ====
section
/-! DEFINITION. Fetching and decoding an instruction (R66 to R68, R77). -/

namespace Sys2Proof.Machine

/-- What a fetch comes to: an instruction and its length, a precise trap of a word of some length, or a hold by a fault. -/
inductive Fetch where
  | ok (i : Instr) (len : Nat)
  | trap (c : Cause) (len : Nat)
  | hold (va : Nat)
  deriving DecidableEq, Repr

/-- Bytes at an offset of the current group's code object. -/
def State.codeBytes (s : State) (off n : Nat) (k : List Loc → Fetch) : Fetch :=
  match s.resolve (.obj (s.g.kreg 0)) off n false false false with
  | .fault va => .hold va
  | .async c => .trap c 8
  | .ok l => if l.any (fun x => s.poisonAt x.2) then .trap .poison 8 else k (l.map Prod.snd)

/-- Fetch the current group's next instruction, with the fetch checks in their order. A word is what memory holds at the fetch, never an
earlier value (log 2), and 32-byte fetch blocks are aligned on the offset in the code object (log 53). -/
def State.fetch (s : State) : Fetch :=
  let g := s.g
  let k0 := g.kreg 0
  let at_ := g.pc.toNat + 2 ^ 32 * g.pcHigh.toNat
  let off := k0.start + at_
  if g.pc.toNat % 4 != 0 then .trap .illegal 8
  else if k0.length < at_ + 4 then .trap .capbound 8
  else
    s.codeBytes off 4 (fun l =>
      let len := lenOfCode (s.readNat l % 4)
      if 32 < off % 32 + len then .trap .fetchbound len
      else if k0.length < at_ + len then .trap .capbound len
      else
        s.codeBytes off len (fun l =>
          match decode (l.map s.byteAt) with
          | .ok (i, n) => .ok i n
          | .error _ => .trap .illegal len))

/-- A word that is no instruction raises ILLEGAL (R80). -/
def execUnassignedOpcode (w0 : Word) (s : State) : Host.Outcome State Fault Refusal :=
  if s.g.status != .running then .fault .noRunningGroup else .next (s.trap .illegal (lenOfCode (w0.toNat % 4)))

end Sys2Proof.Machine
end

