-- ==== Sys2Proof/Machine/Context.lean ====
section
/-! DEFINITION. Stores and results that complete, page walks, asynchronous traps, pre-emption, saving and resuming contexts, CTXOP, and
EVMARK (R165, R236, R240, R246, R340 to R355, R427, R432). -/

namespace Sys2Proof.Machine

/-! ### Stores and results (R33, R190, R204, R240, R246) -/

def execStorePerformed (i : Nat) (s : State) : Host.Outcome State Fault Refusal := .next (s.performStore i .plain)
def execRaceFilterCheck (i : Nat) (s : State) : Host.Outcome State Fault Refusal := .next (s.performStore i .checked)
def execRemoteWritePerformed (i : Nat) (s : State) : Host.Outcome State Fault Refusal := .next (s.performStore i .remote)

/-- An earlier quad of the same load is not written yet (R240). -/
def Group.quadBefore (g : Group) (i : Nat) (d : Deferred) : Bool := d.load && (g.pending.take i).any (fun x => x.load && x.pc == d.pc)

/-- A group's `i`-th pending result is written, if it is a load's or not. -/
def State.resultArrive (s : State) (gid i : Nat) (load : Bool) : State :=
  let g := s.grp gid
  match g.pending[i]? with
  | none => s
  | some d =>
    if d.load != load || !g.resident || g.quadBefore i d then s
    else
      let s := s.discarded gid d.pc d.seq d.skip
      s.setGrp gid (({ g with pending := g.pending.eraseIdx i }).arrive d)

def execDeferredResultWrite (gid i : Nat) (s : State) : Host.Outcome State Fault Refusal := .next (s.resultArrive gid i false)
def execLoadResultArrive (gid i : Nat) (s : State) : Host.Outcome State Fault Refusal := .next (s.resultArrive gid i true)

/-! ### Page walks and the page that becomes mapped (R339 to R343) -/

/-- What a walk was made for: a load or a stream of its group, or the engine operation of its debug name. No walk stands for all of them. -/
def holdOf (w : Option Walk) (gid : Nat) : Bool := w.all (fun w => w.kind == 1 && w.gid == gid)
def engineOf (w : Option Walk) (gid : Nat) (pc seq : Word) : Bool := w.all (fun w => w.kind == 3 && w.gid == gid && w.pc == pc && w.seq == seq)

/-- End holds and resume engines for the addresses from `lo` up to `hi` of a context, of one walk or of all. -/
def State.wake (s : State) (ctx lo hi : Nat) (w : Option Walk) : State :=
  let hit (va : Nat) : Bool := lo ≤ va && va < hi
  let go (mine : Bool) (p : Option Nat) : Option Nat := match p with | some va => if mine && hit va then none else some va | none => none
  let stream (st : Stream) : Stream := if st.fault == some .page && hit st.fva then { st with fault := none } else st
  let group (gid : Nat) (g : Group) : Group :=
    if g.ctx == ctx && holdOf w gid then
      { g with wait := (match g.wait with | .hold va => if hit va then .none else .hold va | w => w)
               streams := g.streams.map (fun (e : Nat × Stream) => (e.1, stream e.2)) }
    else g
  let meet (m : MeetWait) : MeetWait :=
    { m with paused := go ((m.ctx == ctx || (s.obj (objKey m.ctx m.req.obj)).ctx == ctx) && engineOf w m.gid m.pc m.seq) m.paused }
  let copies (l : List Copy) : List Copy := l.map (fun c => { c with paused := go (c.ctx == ctx && engineOf w c.gid c.pc c.seq) c.paused })
  let ring (x : Workgroup) : Workgroup :=
    { x with copies := copies x.copies
             ring := x.ring.map (fun r => { r with run := r.run.map (fun c =>
               { c with paused := go (x.ctx == ctx && (w.isNone || r.owners.any (fun o => engineOf w o.gid o.pc o.seq))) c.paused }) }) }
  { s with
    groups := s.groups.map (fun (e : Nat × Group) => (e.1, group e.1 e.2))
    wgs := s.wgs.map (fun (e : Nat × Workgroup) => (e.1, ring e.2))
    cores := s.cores.map (fun (e : Nat × Core) => (e.1, { e.2 with copies := copies e.2.copies }))
    ctxs := s.ctxs.map (fun (e : Nat × Ctx) => (e.1, { e.2 with imageCopies := e.2.imageCopies.map (fun (x : Nat × List Copy) => (x.1, copies x.2)) }))
    colls := s.colls.map (fun (e : Nat × CollInst) => (e.1, { e.2 with members := e.2.members.map (fun m =>
      { m with paused := go (m.ctx == ctx && engineOf w ((m.gids.headD (0, 0)).1) m.pc m.seq) m.paused }) }))
    meetQ := s.meetQ.map meet
    engFaults := s.engFaults.filter (fun e =>
      !(e.1 == ctx && decide (lo < 65536 * (e.2.1 + 1)) && decide (65536 * e.2.1 < hi) && w.all (fun w => w.kind == 3 && w.inst == 2 ^ 64 + e.2.2))) }

/-- CTXOP `.mapdone` on a page: holds end, engines resume and side-log entries are replayed; the walk of an entry that stays is pending, so that it is
walked again. -/
def State.resumePage (s : State) (ctx lo hi : Nat) : State :=
  let hit (va : Nat) : Bool := lo ≤ va && va < hi
  let s := s.wake ctx lo hi none
  let s := s.replay ctx lo hi s.sideLog.length 0
  let walkOf (w : Walk) (p : PStore) : Bool := w.kind == 2 && w.ctx == ctx && w.va == p.va && w.gid == p.gid && w.pc == p.pc && w.seq == p.seq
  let s : State := { s with walks := s.walks.filter (fun w => !(w.ctx == ctx && hit w.va) || s.sideLog.any (walkOf w)) }
  (s.sideLog.filter (fun p => p.ctx == ctx && hit p.va && !s.walks.any (fun w => walkOf w p))).foldl (fun (s : State) p =>
    { s with walks := s.walks ++ [⟨s.dieOf p.core, s.nextId, ctx, p.va, true, 2, p.gid, p.pc, p.seq⟩], nextId := s.nextId + 1 }) s

/-- The page that a CTXOP `.mapdone` acts on: what its leaf maps, or 64 KiB. -/
def State.pageAt (s : State) (ctx va : Nat) : Nat × Nat :=
  match s.walk ctx va with
  | some p => (p.va, p.va + p.size)
  | none => (va / 65536 * 65536, va / 65536 * 65536 + 65536)

/-- The address lies in a pinned object of the context (R345). -/
def State.pinned (s : State) (ctx va : Nat) : Bool :=
  s.objs.any (fun e => e.2.live && e.2.pin && e.2.ctx == ctx && e.2.vbase ≤ va && va < e.2.vbase + e.2.extent)

/-- A walk fails: its fault record, and the crumb. None while the ring is full or no save slot is free. -/
def State.walkFails (s : State) (w : Walk) : Option State :=
  let core := if (s.grp w.gid).status == .none then (s.dieCores w.die).headD 0 else (s.grp w.gid).core
  (if w.kind = 3 then some (0xFFFFFFFF, s) else s.nameSlot w.gid).bind (fun x =>
    if s.pinned w.ctx w.va then some (x.2.loseCtx w.ctx core w.va (x.1, w.pc, w.seq))
    else
      match x.2.faultRecord w.ctx ⟨w.kind, Cause.page.code, x.1, w.seq, w.pc, w.va, []⟩ with
      | .written s => some (s.crumb core w.ctx 0x10 (gBody w.pc w.seq (w.kind + 256 * Cause.page.code)))
      | .full => none
      | .unmapped => some (x.2.lostAlone w.ctx core .page))

/-- Perform the side-log entry that a walk was made for; none while it waits for older stores. -/
def State.replayWalk (s : State) (w : Walk) : Option State :=
  match s.sideLog.findIdx? (fun p => p.ctx == w.ctx && p.va == w.va && p.gid == w.gid && p.pc == w.pc && p.seq == w.seq) with
  | some i => s.replayOne i
  | none => some s

/-- Make one walk. One that finds its page goes on with what it was made for, and with nothing else: whatever has a fault record waits for CTXOP
`.mapdone` (R341, R342). None where the store that it was made for still waits for older ones. -/
def State.walkStep (s : State) (w : Walk) : Option State :=
  let s' : State := { s with walks := s.walks.erase w }
  match s.walk w.ctx w.va with
  | some p =>
    if !w.write || p.write then
      let r := s'.cachePage w.ctx w.va
      if w.kind = 2 then r.replayWalk w else some (r.wake w.ctx p.va (p.va + p.size) (some w))
    else s'.walkFails w
  | none => s'.walkFails w

/-- The walks that a die's scheduler holds, those of the instruction with the fewest first. -/
def State.walkOrder (s : State) (die : Nat) : List Walk :=
  let l := (s.walks.filter (fun w => w.die == die)).take maxWalks
  (List.range (l.length + 1)).flatMap (fun n => l.filter (fun w => (l.filter (fun x => x.inst == w.inst)).length == n))

def execPageWalk (die : Nat) (s : State) : Host.Outcome State Fault Refusal := .next (((s.walkOrder die).findSome? s.walkStep).getD s)

/-! ### Asynchronous traps and hard pre-emption (R165, R236) -/

/-- A group's next instruction, where it can be fetched. -/
def State.nextInstr (s : State) (gid : Nat) : Option Instr :=
  match ({ s with cur := gid } : State).fetch with | .ok i _ => some i | _ => none

/-- An instruction in progress that finishes before a save: a FENCE or FREEO that waits for its release, an ALLOCO held on a page of the heap
(R262, R311). -/
def State.mustFinish (s : State) (gid : Nat) : Bool :=
  match (s.grp gid).wait, s.nextInstr gid with
  | .release, some (.fence _) => true
  | .release, some (.freeo _) => true
  | .hold _, some (.alloco _) => true
  | _, _ => false

/-- A save of a group, by a trap under HANDLE, waits: for such an instruction, or for the fill of a full/empty wait (R262). -/
def State.saveWaits (s : State) (gid : Nat) (c : Cause) : Bool :=
  (s.launch (s.grp gid).lid).lrec.disposition c == 0 && (s.mustFinish gid || (s.grp gid).wait == .fullEmpty)

def execAsyncTrapDeliver (gid : Nat) (s : State) : Host.Outcome State Fault Refusal :=
  .next
    (let g := s.grp gid
     match g.traps with
     | [] => s
     | t :: rest =>
       if g.status != .running || !g.feDone.isEmpty || s.saveWaits gid t.cause then s
       else
         let r := (({ s with cur := gid } : State).setGrp gid { g with traps := rest }).takeTrap t.cause t.pc g.pc g.pc t.seq []
         if r.stalled then s else { r with cur := s.cur })

/-- Instructions and cycles after which a group is pre-empted hard. -/
def hardCount : Nat := 65536
def hardWait : Nat := 1048576

/-- A wait in which a group cannot be evicted. -/
def Wait.fixed : Wait → Bool
  | .none => false | .barrier _ => false | .barrierOpen => false | .broken => false | .abar _ _ _ => false | .sync => false | .growth _ => false
  | _ => true

def execHardPreemptCount (gid : Nat) (s : State) : Host.Outcome State Fault Refusal :=
  .next
    (let g := s.grp gid
     if g.status == .running && s.preempting g.ctx && hardCount ≤ g.issuedSince && !s.mustFinish gid then (s.hardSave gid).getD s else s)

def execHardPreemptWait (gid : Nat) (s : State) : Host.Outcome State Fault Refusal :=
  .next
    (let g := s.grp gid
     if g.status == .running && s.preempting g.ctx && !(s.ctx g.ctx).det && g.wait.fixed && !s.mustFinish gid &&
         hardWait ≤ (s.core g.core).cycle - g.lastIssue then
       (s.hardSave gid).getD s
     else s)

/-! ### What the pilot and the cores do between steps (R165, R349, R432) -/

/-- s registers that a group's next instruction names. -/
def State.nextSregs (s : State) (gid : Nat) : List Nat :=
  match (s.nextInstr gid).bind Instr.word with
  | some (op, f) => (formOpds (form op f) f).flatMap (fun o => sregs o.1 o.2) ++ (if op = 0x185 then [opNum f.ext.xsub] else [])
  | none => []

/-- A group's next instruction waits for the answer of a QROUND `.wait` (R397, R401), or for its entry in the log (log 56). -/
def State.awaitsRound (s : State) (gid : Nat) : Bool :=
  let mine := s.meetQ.filter (fun m => m.gid == gid && m.packet.isNone && m.req.op == 3)
  !mine.isEmpty && (s.unrecorded gid || mine.any (fun m => (s.nextSregs gid).contains m.dst))

/-- Groups of a context that are saved where they stand: in an evictable state, stopped by a debugger, or held by a fault or a full log or ring
(R341, R342, R349, R405; log 61); in deterministic mode also those that wait for the answer of a QROUND `.wait` (R401). An instruction in progress
finishes first, and a full/empty wait ends by its fill alone (R262, R311). -/
def State.evictable (s : State) (gid : Nat) : Bool :=
  let g := s.grp gid
  g.resident && !s.mustFinish gid && ((g.stopped && g.wait != .fullEmpty) ||
    (match g.wait with
     | .growth _ => true
     | .hold _ => true
     | .sideLogFull => true
     | .ringFull => true
     | .replayFull => true
     | .regEmpty => (s.ctx g.ctx).det && s.awaitsRound gid
     | _ => !s.waitOver gid))

/-- Every group of a context is saved, its writes are performed and its engines stand. -/
def State.allSaved (s : State) (ctx : Nat) : Bool :=
  !s.groups.any (fun e => e.2.ctx == ctx && e.2.resident) && !s.stores.any (fun p => p.ctx == ctx) &&
    !s.cores.any (fun e => e.2.copies.any (fun c => c.ctx == ctx && c.paused.isNone))

/-- First address of the core images of a context that has no translation (R345, R347). -/
def State.imageGone (s : State) (ctx : Nat) : Option Nat :=
  let c := s.ctx ctx
  let n := coreImage * (s.partCores ctx).length
  ((List.range ((n + 65535) / 65536)).find? (fun i => s.pinGone ctx c.save (65536 * i) true)).map (fun i => (s.obj c.save.toNat).vbase + 65536 * i)

/-- End SAVING: workgroups leave their cores with their paused copies, and each core's view pool, deque entries and other paused copies go to its
image (R349). -/
def State.endSaving (s : State) (ctx : Nat) : State :=
  let c := s.ctx ctx
  let part := s.partCores ctx
  let mine (d : BitVec 512) : Bool := s.descCtx d == ctx
  let copies (core : Nat) (wg : Option Nat) : List Copy := (s.core core).copies.filter (fun x => x.ctx == ctx && x.wg == wg)
  let image := part.zipIdx.foldl (fun m e => Cells.set [] m e.2 ((s.core e.1).deque.filter mine)) c.image
  let images := part.zipIdx.foldl (fun m e => Cells.set [] m e.2 (copies e.1 none)) c.imageCopies
  let s := s.setCtx ctx { c with state := .saved, image := image, imageCopies := images, ptrs := s.savedPtrs ctx }
  { s with
    viewSpaces := s.viewSpaces.map (fun v => if v.ctx == ctx && v.core < noCore then { v with core := noCore + 1 + part.idxOf v.core } else v)
    cores := s.cores.map (fun (e : Nat × Core) => (e.1, { e.2 with deque := e.2.deque.filter (fun d => !mine d), copies := e.2.copies.filter (fun x => x.ctx != ctx) }))
    wgs := s.wgs.map (fun (e : Nat × Workgroup) =>
      (e.1, if e.2.live && e.2.ctx == ctx then { e.2 with core := noCore, copies := e.2.copies ++ copies e.2.core (some e.1) } else e.2)) }

/-- Save the groups of a SAVING context that can be saved where they stand; the context is SAVED once all is. -/
def State.settleCtx (s : State) (ctx : Nat) : State :=
  let mine := s.groups.filterMap (fun e => if e.2.ctx == ctx then some e.1 else none)
  let s := mine.foldl (fun s gid => if s.evictable gid then (s.save gid .soft).getD s else s) s
  if !s.allSaved ctx then s
  else
    match s.imageGone ctx with
    | some va => s.loseCtx ctx ((s.partCores ctx).headD 0) va
    | none => s.endSaving ctx

/-- A group that a debugger asked to stop stops at an instruction boundary, and a stopped one that it asked to resume may issue again; either waits
for room in the recorder's queue (R416, R432). -/
def State.stopGroup (s : State) (gid : Nat) : State :=
  let g := s.grp gid
  if !g.stopReq || s.recorderFull g.core then s
  else if g.stopped then (s.gcrumb gid 0x0A 1).setGrp gid { g with stopped := false, stopReq := false }
  else if g.status == .running && g.feDone.isEmpty && !s.mustFinish gid then
    let s := (s.gcrumb gid 0x01 (Cause.debugstop.code + 256 * 3)).gcrumb gid 0x0A 0
    s.setGrp gid { g with stopped := true, stopReq := false }
  else s

/-- A lane pair meets the oldest GROW that waits there once its registers are free, before anything is berthed on it (R29). -/
def State.grant (s : State) (core pair : Nat) : State :=
  let asking := (s.pairGroups core (16 * pair)).filter (fun e => e.2.growReq.isSome && (match e.2.wait with | .growth _ => true | _ => false))
  match asking.find? (fun e => asking.all (fun x => e.2.growReq.getD 0 ≤ x.2.growReq.getD 0)) with
  | some (gid, g) =>
    if g.needs - g.allot ≤ s.freeRegs core (16 * pair) then s.setGrp gid { g with allot := g.needs, growReq := none } else s
  | none => s

/-- Lane pairs on which a GROW waits, once for each. -/
def State.growing (s : State) : List (Nat × Nat) :=
  s.groups.filterMap (fun e => if e.2.resident && e.2.growReq.isSome then some (e.2.core, e.2.berth / 16) else none)

/-- Contexts that an access to a pinned object found unmapped become LOST (R345). -/
def State.losePins (s : State) : State :=
  s.lostPins.foldl (fun s e => s.loseCtx e.1 ((s.partCores e.1).headD 0) e.2) { s with lostPins := [] }

/-- What follows every step. -/
def State.settle (s : State) : State :=
  let s := s.growing.foldl (fun s e => s.grant e.1 e.2) s.losePins
  let stops := s.groups.filterMap (fun e => if e.2.stopReq then some e.1 else none)
  let s := (stops.foldl State.stopGroup s).settleLocks.payOwed
  let held := s.groups.filterMap (fun e => if e.2.resident && e.2.streams.any (fun x => x.2.held) then some e.1 else none)
  let rings := (s.wgs.filterMap (fun e => if e.2.live && e.2.ring.isSome && e.2.core != noCore then some e.2.core else none)).eraseDups
  let s := rings.foldl State.serveIdle (held.foldl State.giveRecords s)
  (s.ctxs.filterMap (fun e => if e.2.state == .saving then some e.1 else none)).foldl State.settleCtx s

/-! ### Contexts: pre-empt, resume, time slices (R346, R350) -/

/-- Two partitions have a core in common. -/
def State.meets (s : State) (a b : Nat) : Bool := ((s.ctx a).part &&& (s.ctx b).part) != 0

/-- Another context whose partition meets this one's is running or being saved. -/
def State.blocked (s : State) (n : Nat) : Bool :=
  s.ctxs.any (fun e => e.1 != n && s.meets e.1 n && (e.2.state == .running || e.2.state == .saving))

def State.preempt (s : State) (n : Nat) : State :=
  let s := s.setCtx n { s.ctx n with state := .saving }
  { s with groups := s.groups.map (fun (e : Nat × Group) =>
      if e.2.ctx == n && e.2.resident then (e.1, { e.2 with issuedSince := 0, lastIssue := (s.core e.2.core).cycle }) else e) }

/-- Append an image's entries to the ring of a core; to its hardware deque where the ring does not take them. -/
def State.appendEntries (s : State) (ctx core : Nat) (l : List (BitVec 512)) : State :=
  let hw (s : State) : State := s.setCore core { s.core core with deque := (s.core core).deque ++ l }
  if (s.ctx ctx).deqcap < (s.over ctx core).count + l.length then hw s
  else match s.ringPush ctx core l with | .ok s => s | .error _ => hw s

/-- Resume a saved context; a replay goes on in its log where it stood (R404): image `i` of its cores goes to core `i mod P` of its partition, its views to that core's view pool or, where they do
not fit, the overflow object (R350). -/
def State.resumeCtx (s : State) (n : Nat) : State :=
  let c := s.ctx n
  let part := s.partCores n
  let home (i : Nat) : Nat := part.getD (i % Nat.max part.length 1) 0
  let used := if (s.objNat c.replay 0 1).getD 0 = 1 then c.replayUsed else []
  let s := s.setCtx n { c with state := .running, image := [], imageCopies := [], replayUsed := used }
  let s := c.image.foldl (fun s e => s.appendEntries n (home e.1) e.2) s
  let saved := s.viewSpaces.filter (fun v => v.ctx == n && noCore < v.core)
  let s := saved.foldl (fun s v => s.addSpace v (home (v.core - noCore - 1)) v.len) (s.freeViews (fun v => v.ctx == n && noCore < v.core))
  c.imageCopies.foldl (fun s e => s.setCore (home e.1) { s.core (home e.1) with copies := (s.core (home e.1)).copies ++ e.2 }) s

/-! ### CTXOP (R354, R355) -/

/-- The group that a slot holds after a trap under HANDLE. -/
def State.handledIn (s : State) (ctx slot : Nat) : Option Nat :=
  (s.groups.find? (fun e => e.2.ctx == ctx && e.2.status == .saved slot .handle)).map Prod.fst

/-- The state word of a context. -/
def State.stateWord (s : State) (n : Nat) : Nat :=
  let c := s.ctx n
  let pend := (s.objNat c.fault 0 8).getD 0 - (s.objNat c.fault 8 8).getD 0
  let saved := (s.groups.filter (fun e => e.2.ctx == n && (match e.2.status with | .saved _ _ => true | _ => false))).length
  c.state.code + 2 ^ 8 * c.degraded.toNat + 2 ^ 9 * c.marked.toNat + 2 ^ 10 * c.hard.toNat + 2 ^ 16 * (saved % 2 ^ 16) + 2 ^ 32 * (pend % 2 ^ 32)

/-- What an operation on a context comes to: it retires with a result, or it has begun and retires later; `mark` where it does not begin
again. -/
inductive CtxRes where
  | done (s : State) (v : Nat)
  | wait (s : State) (mark : Bool)

/-- A killed context still has a launch that has not completed (R353). -/
def State.ending (s : State) (n : Nat) : Bool := s.launches.any (fun e => e.2.live && e.2.ctx == n)

def State.ctxKill (s : State) (n : Nat) : CtxRes :=
  let s := s.killCtx n .killed
  if s.ending n then .wait s true else .done s 0

def State.ctxMapdone (s : State) (n va : Nat) : State := let p := s.pageAt n va; s.resumePage n p.1 p.2

/-- A store of a context to a range is not performed. -/
def State.rangeOwed (s : State) (n lo hi : Nat) : Bool := s.stores.any (fun p => p.ctx == n && p.va / 64 * 64 < hi && lo < p.va / 64 * 64 + 64)

/-- Drop the cached translations of a range; it retires once the range's older stores, which used them, are performed (R339). -/
def State.ctxTlbinv (s : State) (n lo len : Nat) : CtxRes :=
  let hi := lo + len
  let s : State := { s with tlb := s.tlb.filter (fun e => !(e.ctx == n && e.va < hi && lo < e.va + e.size)) }
  if s.rangeOwed n lo hi then .wait s false else .done s 0

def State.ctxTrapres (s : State) (n slot how : Nat) : CtxRes :=
  match s.handledIn n slot with
  | none => .done s 2
  | some gid =>
    let g := s.grp gid
    match how with
    | 0 => .done (s.setGrp gid { g with status := .saved slot .soft }) 0
    | 1 => .done (s.setGrp gid { g with status := .saved slot .soft, pcHigh := if g.contPc = g.pc then g.pcHigh else 0, pc := g.contPc }) 0
    | 2 => .done (s.killGroup gid) 0
    | _ => .done s 2

/-- Clear flags of a context; cleared REPLAY-MARKED starts the log's replay afresh (R404, R405). -/
def State.ctxFlags (s : State) (n m : Nat) : State :=
  let c := s.ctx n
  s.setCtx n { c with degraded := c.degraded && !bit m 8, marked := c.marked && !bit m 9, hard := c.hard && !bit m 10
                      replayUsed := if bit m 9 then [] else c.replayUsed }

/-- An operation on a context where its state allows it: 1 for no context, 2 for another state. -/
def State.onCtx (s : State) (states : List CtxState) (n : Nat) (k : CtxRes) : CtxRes :=
  if (s.ctx n).state == .free then .done s 1 else if !states.contains (s.ctx n).state then .done s 2 else k

/-- The pilot's operations: it switches between contexts whose partitions meet, pre-empting the one that runs and resuming the other once that
one is saved; and those of its control port, which answer with what CTXOP writes to D (R346, R354, R355). -/
def execTimeSliceSwitch (r : PilotReq) (n : Nat) (s : State) : Host.Outcome State Fault Refusal :=
  let answer (r : CtxRes) : State := match r with | .done s v => s.send (.register [.ofNat 64 v]) | .wait s _ => s
  .next
    (match r with
     | .switchTo dst =>
       if n == dst || !s.meets n dst || (s.ctx dst).state != .saved then s
       else if (s.ctx n).state == .running then s.preempt n
       else if s.blocked dst then s
       else s.resumeCtx dst
     | .op code slot b c =>
       if 64 ≤ n then s
       else
         match code with
         | 0 => answer (s.onCtx [.running] n (.done (s.preempt n) 0))
         | 1 => answer (s.onCtx [.saved] n (if s.blocked n then .done s 2 else .done (s.resumeCtx n) 0))
         | 2 => answer (s.onCtx [.running, .saving, .saved] n (.done (s.killCtx n .killed) 0))
         | 3 => answer (s.onCtx [.running, .saved] n (.done (s.ctxMapdone n b) 0))
         | 4 => answer (s.onCtx [.running, .saving, .saved, .killed, .lost] n (s.ctxTlbinv n b c))
         | 5 => answer (s.onCtx [.running, .saved] n (s.ctxTrapres n slot b))
         | 6 => answer (.done (if (s.ctx n).state == .free then s else s.ctxFlags n b) (s.stateWord n))
         | 7 => answer (.done s (s.stateWord n))
         | _ => s)

/-- The frame of CTXOP: SYS, the fields of A, the context's state; `k` gives the effect and the result. A group whose `.kill` has begun goes on
to wait for the context's launches. -/
def State.ctxop (s : State) (f : Fields) (slotOk : Bool) (states : List CtxState) (k : State → Nat → Nat → CtxRes) :
    Host.Outcome State Fault Refusal :=
  s.uniform 0x1F9 f (fun s' =>
    let g := s'.g
    let a := g.uval f f.a
    let n := a % 64
    let slot := bits a 47 16
    if !(s'.ctx g.ctx).sys || a / 2 ^ 48 != 0 || bits a 15 6 != 0 || (!slotOk && slot != 0) then s.trap .illegal f.len
    else
      let r := if g.ctxWait == some n then (if s'.ending n then .wait s' true else .done s' 0) else s'.onCtx states n (k s' n slot)
      match r with
      | .done s v => if s.g.status == .none then s else s.done ({ s.g with ctxWait := none }.write f.d 2 0 v) f.len
      | .wait t mark =>
        if t.g.status == .none then t
        else { t.setG { t.g with wait := .instruction, ctxWait := if mark then some n else none } with stalled := true })

def execCtxopPreempt (f : Fields) (s : State) : Host.Outcome State Fault Refusal :=
  s.ctxop f false [.running] (fun s n _ => .done (s.preempt n) 0)

def execCtxopResume (f : Fields) (s : State) : Host.Outcome State Fault Refusal :=
  s.ctxop f false [.saved] (fun s n _ => if s.blocked n then .done s 2 else .done (s.resumeCtx n) 0)

def execCtxopKill (f : Fields) (s : State) : Host.Outcome State Fault Refusal :=
  s.ctxop f false [.running, .saving, .saved] (fun s n _ => s.ctxKill n)

def execCtxopMapdone (f : Fields) (s : State) : Host.Outcome State Fault Refusal :=
  s.ctxop f false [.running, .saved] (fun s n _ => .done (s.ctxMapdone n (s.g.uval f f.b)) 0)

def execCtxopTlbinv (f : Fields) (s : State) : Host.Outcome State Fault Refusal :=
  s.ctxop f false [.running, .saving, .saved, .killed, .lost] (fun s n _ => s.ctxTlbinv n (s.g.uval f f.b) (s.g.uval f f.c))

def execCtxopTrapres (f : Fields) (s : State) : Host.Outcome State Fault Refusal :=
  s.ctxop f true [.running, .saved] (fun s n slot => s.ctxTrapres n slot (s.g.uval f f.b))

/-- CTXOP `.flags` and `.state`: D receives the state word and no status code. -/
def State.ctxword (s : State) (f : Fields) (k : State → Nat → State) : Host.Outcome State Fault Refusal :=
  s.uniform 0x1F9 f (fun s' =>
    let g := s'.g
    let a := g.uval f f.a
    if !(s'.ctx g.ctx).sys || a / 2 ^ 6 != 0 then s.trap .illegal f.len
    else
      let n := a % 64
      let s'' := if (s'.ctx n).state == .free then s' else k s' n
      s''.done (s''.g.write f.d 2 0 (s'.stateWord n)) f.len)

def execCtxopFlags (f : Fields) (s : State) : Host.Outcome State Fault Refusal :=
  s.ctxword f (fun s n => s.ctxFlags n (s.g.uval f f.b))

def execCtxopState (f : Fields) (s : State) : Host.Outcome State Fault Refusal := s.ctxword f (fun s _ => s)

/-! ### EVMARK (R427) -/

def execEvmark (f : Fields) (s : State) : Host.Outcome State Fault Refusal :=
  s.uniform 0x1F8 f (fun s' =>
    let g := s'.g
    let v := if kindOf f.a = .imm then immOperand f 2 else g.uval f f.a
    if s'.recorderFull g.core then s.stall .recorder else
    let s' := (s'.gcrumb s'.cur 0x06 (g.uval f f.b % 2 ^ 16)).crumb g.core g.ctx 0x07 v
    s'.done s'.g f.len)

end Sys2Proof.Machine
end

