-- ==== Sys2Proof/Machine/Health.lean ====
section
/-! DEFINITION. Error records, health records, the errors that protected structures detect, power and thermal limits (R434 to R446). -/

namespace Sys2Proof.Machine

/-! ### Health and error records (R440, R441) -/

/-- Key of a unit of the enumeration table: its type and physical number. -/
def unitKey (type phys : Nat) : Nat := type * 2 ^ 16 + phys

def State.healthOf (s : State) (type phys : Nat) : Health := Cells.get Health.reset s.health (unitKey type phys)
def State.setHealth (s : State) (type phys : Nat) (h : Health) : State :=
  { s with health := Cells.set Health.reset s.health (unitKey type phys) h }

/-- Context field of a record that concerns no context. -/
def noCtx : Nat := 255

/-- The bytes of a device error record. -/
def errorBytes (eseq struct sev ctx punit addr count : Nat) : List Byte :=
  toLE 8 eseq ++ toLE 3 0 ++ toLE 1 struct ++ toLE 1 sev ++ toLE 1 ctx ++ toLE 2 punit ++ toLE 8 addr ++ toLE 4 count ++ toLE 4 0

/-- Drop a record: the dropped count rises. -/
def State.dropRecord (s : State) (ring : DWord) : State :=
  match s.objNat ring 16 8 with
  | some n => (s.devPut ring 16 8 (n + 1)).getD s
  | none => s

/-- Write a record into the device error ring, if one is set up, or drop it; whether it was written. -/
def State.errorWrite (s : State) (struct sev ctx punit addr count : Nat) : Bool × State :=
  match s.errRing with
  | none => (false, s)
  | some ring =>
    match s.objNat ring 0 8, s.objNat ring 8 8, s.objNat ring 24 8 with
    | some w, some r, some n =>
      if n ≤ w - r then (false, s.dropRecord ring)
      else
        match s.devWrite ring (64 + 32 * (w % n)) (errorBytes (s.errSeq + 1) struct sev ctx punit addr count) with
        | some s =>
          (true, { (s.devPut ring 0 8 (w + 1)).getD s with errSeq := s.errSeq + 1 })
        | none => (false, s)
    | _, _, _ => (false, s)

/-- A record about a unit, with the corrected errors since its last one. -/
def State.errorRecord (s : State) (struct sev ctx type phys addr : Nat) : State :=
  let h := s.healthOf type phys
  let (written, s) := s.errorWrite struct sev ctx phys addr h.since
  if written then s.setHealth type phys { s.healthOf type phys with since := 0 } else s

/-- Set REPLACE-REQUESTED; the first reason stays. -/
def State.replace (s : State) (reason : Nat) : State := if s.replaceReq then s else { s with replaceReq := true, reason := reason }

/-- A corrected error: it is counted, and the count that crosses the threshold, once in a window, gives a record, in the fourth window in a row also
the request for replacement. -/
def State.correctedError (s : State) (struct type phys : Nat) : State :=
  let h := s.healthOf type phys
  let crosses := !h.crossed && h.threshold < h.corrected + 1
  let s := s.setHealth type phys { h with corrected := h.corrected + 1, since := h.since + 1, crossed := h.crossed || crosses }
  if crosses then
    let s := s.errorRecord struct 0 noCtx type phys 0
    if 3 ≤ h.windows then s.replace 1 else s
  else s

/-- An uncorrectable error: it is counted and recorded. -/
def State.uncorrectable (s : State) (struct sev ctx type phys addr : Nat) : State :=
  let h := s.healthOf type phys
  let s := (s.setHealth type phys { h with uncorrectable := h.uncorrectable + 1 }).errorRecord struct sev ctx type phys addr
  if 8 ≤ h.uncorrectable + 1 then s.replace 2 else s

/-- A window of a unit ends: it counts where the threshold was crossed in it, whatever was set since. -/
def Health.expire (h : Health) : Health :=
  { h with corrected := 0, windows := if h.crossed then h.windows + 1 else 0, crossed := false }

def execHealthWindowExpire (s : State) : Host.Outcome State Fault Refusal :=
  .next
    (let health := s.health.foldl (fun m e => Cells.set Health.reset m e.1 e.2.expire) s.health
     let s : State := { s with health := health }
     if health.any (fun e => 4 ≤ e.2.windows) then s.replace 1 else s)

/-! ### Device-level fatal errors and lost contexts (R351, R438) -/

/-- Contexts that exist and can still be killed. -/
def State.liveCtxs (s : State) : List Nat :=
  s.ctxs.filterMap (fun e => match e.2.state with | .running => some e.1 | .saving => some e.1 | .saved => some e.1 | _ => none)

/-- Context of an origin that concerns no context. -/
def noOrigin : Nat := 64

/-- A device-level fatal error that a die detects in a unit; the crumb of the event is a FAULT crumb of KIND 5 (R419; log 42). -/
def State.deviceFatal (s : State) (struct die type phys : Nat) : State :=
  let s := (s.uncorrectable struct 3 noCtx type phys 0).replace 4
  let core := (s.dieCores die).headD 0
  let s := (s.crumb core 0 0x10 (gBody 0 0 (5 + 256 * Cause.poison.code))).freeze core Cause.poison.code noOrigin
  s.liveCtxs.foldl (fun s c => s.killCtx c .killed) s

/-- A context whose state is lost to an error. -/
def State.errorLost (s : State) (ctx struct type phys addr : Nat) : State :=
  if s.liveCtxs.contains ctx then
    (s.uncorrectable struct 2 ctx type phys addr).lostAlone ctx ((s.partCores ctx).headD 0) .poison
  else s

/-! ### Errors by site (R434) -/

/-- Context that owns the object holding a physical address. -/
def State.ownerOf (s : State) (pa : Nat) : Nat :=
  ((s.objs.find? (fun e => e.2.live && e.2.home == s.devnum &&
    (List.range (e.2.extent / 65536 + 1)).any (fun i =>
      match s.walk e.2.ctx (e.2.vbase + 65536 * i) with
      | some p => p.pa ≤ pa && pa < p.pa + p.size
      | none => false))).map (fun e => e.2.ctx)).getD noCtx

/-- An error in a register of a group that holds a berth: its core's unit. -/
def State.groupError (s : State) (gid struct addr : Nat) (corrected : Bool) (k : Group → Group) : State :=
  let g := s.grp gid
  if !g.resident then s
  else
    let p := s.physCore g.core
    if corrected then s.correctedError struct 1 p else (s.setGrp gid (k g)).uncorrectable struct 1 g.ctx 1 p addr

/-- An error in a register of the kinds whose marks are kept together. -/
def State.miscError (s : State) (gid kind n : Nat) (corrected : Bool) : State :=
  s.groupError gid 2 n corrected (fun g => { g with miscPoison := Cells.set false g.miscPoison (miscKey kind n) true })

/-- An error in a granule of memory. -/
def State.granuleError (s : State) (struct type phys granule : Nat) (corrected : Bool) : State :=
  if corrected then s.correctedError struct type phys
  else ({ s with memPoison := Cells.set false s.memPoison granule true } : State).uncorrectable struct 1 (s.ownerOf (16 * granule)) type phys (16 * granule)

/-- An error in a workgroup's memory on its core. -/
def State.wgError (s : State) (w struct addr : Nat) (corrected : Bool) (k : Workgroup → Workgroup) : State :=
  let wg := s.wgOf w
  if !wg.live || s.liveCores.length ≤ wg.core then s
  else
    let p := s.physCore wg.core
    if corrected then s.correctedError struct 1 p else (s.setWg w (k wg)).uncorrectable struct 1 wg.ctx 1 p addr

/-- Read one listed shadow word of a context as 0. -/
def State.dropShadow (s : State) (ctx : Nat) : State :=
  let mine := s.shadow.filter (fun e => (s.obj (e.1 / 2 ^ 36)).ctx == ctx)
  match mine[Config.draw s.freeCount % Nat.max mine.length 1]? with
  | some e => { s with shadow := Cells.del s.shadow e.1 }
  | none => s

/-- A parity error disables a scale cache. -/
def State.scaleError (s : State) (core : Nat) : State :=
  let c := s.core core
  if c.scaleOff || s.liveCores.length ≤ core then s
  else (s.setCore core { c with scaleOff := true }).uncorrectable 9 1 noCtx 1 (s.physCore core) 0

/-- Places of the newest entry of an overflow ring of a context, and the core it belongs to (R180). -/
def State.topEntry (s : State) (ctx : Nat) : Option (List Nat) :=
  let rings := s.overflow.filter (fun e => e.1 / 512 == ctx && 0 < e.2.count)
  match rings[Config.draw s.freeCount % Nat.max rings.length 1]? with
  | some e =>
    match s.ringAt ctx (e.1 % 512) (e.2.top + e.2.count - 1) false with
    | .ok (pa :: l) => some (pa :: l)
    | _ => none
  | none => none

/-- Stack of a physical address: live stacks hold the bytes in ascending order. -/
def State.stackOf (s : State) (pa : Nat) : Nat :=
  ((List.range 12).filter (fun n => !s.retiredUnits.contains (4, n))).getD (pa / Config.stackBytes) 0

/-- Physical address of the first byte of a context's save area. -/
def State.savePa (s : State) (ctx : Nat) : Nat :=
  let o := s.obj (s.ctx ctx).save.toNat
  match s.walk ctx o.vbase with
  | some p => p.pa + (o.vbase - p.va)
  | none => 0

/-- State of a context is being saved: the context is, or a group that it has evicted or that a HANDLE trap stopped (R349, R351; log 59). -/
def State.savesNow (s : State) (ctx : Nat) : Bool :=
  (s.ctx ctx).state == .saving ||
    ((s.ctx ctx).state == .running &&
      s.groups.any (fun e => e.2.ctx == ctx && (match e.2.status with | .saved _ .evict => true | .saved _ .handle => true | _ => false)))

def State.detect (s : State) (site : ErrorSite) (corrected : Bool) : State :=
  match site with
  | .vreg gid reg t =>
    if reg < 176 && t < 32 then s.groupError gid 1 reg corrected (fun g => { g with vPoison := Cells.set false g.vPoison (32 * reg + t) true }) else s
  | .sreg gid reg =>
    if reg < 48 then s.groupError gid 2 reg corrected (fun g => { g with sPoison := Cells.set false g.sPoison reg true }) else s
  | .pregs gid n => if n < 7 then s.miscError gid 0 n corrected else s
  | .gregs gid n => if n < 7 then s.miscError gid 1 n corrected else s
  | .xreg gid n _ => if n < 8 then s.miscError gid 2 n corrected else s
  | .kreg gid n =>
    if n < 16 then
      let s' := s.miscError gid 3 n corrected
      if corrected || !(s.grp gid).resident then s'
      else s'.setGrp gid ((s'.grp gid).setK n { (s'.grp gid).kreg n with tag := false } |> fun g => { g with miscPoison := Cells.set false g.miscPoison (miscKey 3 n) true })
    else s
  | .mode gid => s.miscError gid 4 0 corrected
  | .l1 core => if core < s.liveCores.length then s.correctedError 3 1 (s.physCore core) else s
  | .vault w gr =>
    if 16 * gr < (s.wgOf w).size then s.wgError w 4 (16 * gr) corrected (fun g => { g with poison := Cells.set false g.poison gr true }) else s
  | .acc w i => if i < 65536 then s.wgError w 5 i corrected (fun g => { g with accPoison := Cells.set false g.accPoison i true }) else s
  | .l2 slice gr => if slice < 96 && 16 * gr < s.hbmBytes then s.granuleError 6 2 slice gr corrected else s
  | .shadow slice ctx =>
    if 96 ≤ slice then s
    else if corrected then s.correctedError 7 2 slice
    else if !s.liveCtxs.contains ctx then s
    else
      let s := s.dropShadow ctx
      (s.setCtx ctx { s.ctx ctx with degraded := true }).uncorrectable 7 1 ctx 2 slice 0
  | .hbm stack gr => if stack < 12 && s.stackOf (16 * gr) = stack && 16 * gr < s.hbmBytes then s.granuleError 8 4 stack gr corrected else s
  | .scaleCache core => s.scaleError core
  | .tableEntry ctx die =>
    if 4 ≤ die then s
    else if corrected then s.correctedError 10 0 die
    else match ctx with
      | some c => s.errorLost c 10 0 die 0
      | none => s.deviceFatal 10 die 0 die
  | .dieLink down lo hi =>
    if !([(0, 1), (0, 2), (1, 3), (2, 3)] : List (Nat × Nat)).contains (lo, hi) then s
    else if down then s.deviceFatal 11 lo 3 (lo + 256 * hi)
    else s.correctedError 11 3 (lo + 256 * hi)
  | .quayLink port => if port < 24 then s.correctedError 11 5 port else s
  | .hostPort _ => s
  | .saveArea ctx =>
    let stack := s.stackOf (s.savePa ctx)
    if !s.savesNow ctx then s
    else if corrected then s.correctedError 8 4 stack
    else s.errorLost ctx 8 4 stack (s.savePa ctx)
  | .ringEntry ctx =>
    match s.topEntry ctx with
    | none => s
    | some l =>
      let pa := l.headD 0
      if corrected then s.correctedError 8 4 (s.stackOf pa)
      else
        let marked := l.foldl (fun m a => Cells.set false m (a / 16) true) s.memPoison
        ({ s with memPoison := marked } : State).uncorrectable 8 1 ctx 4 (s.stackOf pa) pa

def execErrorDetect (site : ErrorSite) (corrected : Bool) (s : State) : Host.Outcome State Fault Refusal := .next (s.detect site corrected)

/-- System software sets a unit's corrected-error threshold (R441). -/
def State.unitExists (s : State) (type phys : Nat) : Bool :=
  match type with
  | 0 => phys < 4
  | 1 => phys < 320 && !s.fusedOff.contains phys
  | 2 => phys < 96
  | 3 => ([0x0100, 0x0200, 0x0301, 0x0302] : List Nat).contains phys
  | 4 => phys < 12
  | 5 => phys < 24
  | _ => false

/-! ### Power and heat (R446) -/

/-- Clock of a die in MHz: its highest one where nothing lowers it. -/
def topClock : Nat := 3600
def lowClock : Nat := 1200
def State.clock (s : State) (die : Nat) : Nat := Cells.get topClock s.clocks die
def State.setClock (s : State) (die mhz : Nat) : State := { s with clocks := Cells.set topClock s.clocks die mhz }

/-- One step of 100 MHz down or up, within the limits; a die that tripped stays at the lowest clock. -/
def State.stepClock (s : State) (down : Bool) (die : Nat) : State :=
  if s.tripped.contains die then s.setClock die lowClock
  else s.setClock die (if down then Nat.max lowClock (s.clock die - 100) else Nat.min topClock (s.clock die + 100))

/-- The last reading of a die's sensor is above 100 degrees. -/
def State.hot (s : State) (die : Nat) : Bool := 100 < Cells.get 0 s.temps die

/-- The last power measurement is at or above the cap. -/
def State.overCap (s : State) : Bool := s.powerCap ≤ s.power

/-- A reading: its own limit lowers a die's clock by one step; where neither limit holds, the clock rises again. -/
def State.regulate (s : State) (lower : Bool) (die : Nat) : State :=
  if lower then s.stepClock true die else if s.hot die || s.overCap then s else s.stepClock false die

/-- A power measurement over 1 ms: at or above the cap every clock is lowered by one step. -/
def execPowerLimit (milliwatt : Nat) (s : State) : Host.Outcome State Fault Refusal :=
  .next (let s : State := { s with power := milliwatt }; [0, 1, 2, 3].foldl (fun s d => s.regulate s.overCap d) s)

/-- A junction reading: above 100 degrees the die's clock is lowered by one step. -/
def execThermalThrottle (die celsius : Nat) (s : State) : Host.Outcome State Fault Refusal :=
  .next (if die < 4 then (let s : State := { s with temps := Cells.set 0 s.temps die celsius }; s.regulate (s.hot die) die) else s)

/-- A die reaches 115 degrees. The record's STRUCT and SEV are not stated: free values. -/
def execThermalTrip (die : Nat) (s : State) : Host.Outcome State Fault Refusal :=
  .next
    (if 4 ≤ die || s.tripped.contains die then s
     else
       let s := (({ s with tripped := die :: s.tripped } : State).setClock die lowClock).send .thermtrip
       (s.errorRecord (Config.draw s.freeCount % 256) (Config.draw (s.freeCount + 1) % 256) noCtx 0 die 0).replace 6)

end Sys2Proof.Machine
end

