-- ==== Sys2Proof/Machine/Fabric.lean ====
section
/-! DEFINITION. Quay ports and their flits, device numbers and routes, host ports and the RoCE requests of hosts (R356 to R366, R403). -/

namespace Sys2Proof.Machine

/-! ### Quay links (R358 to R361) -/

/-- Quay ports of the device. -/
def portCount : Nat := 24

/-- A port that exists and is not retired. -/
def State.portLive (s : State) (p : Nat) : Bool := p < portCount && !s.retiredUnits.contains (5, p)

/-- The times that the far end has asked again for one flit: a replay of it failed each time (R360). -/
def Port.heard (p : Port) (control : Bool) (ack : Nat) : Port :=
  if control then { p with asked := some ack, again := if p.asked == some ack then p.again + 1 else 0 }
  else if p.asked == some ack then p
  else { p with asked := none, again := 0 }

/-- A flit in sequence: its ACKSEQ frees the replay buffer, an advertisement says the far end's order class, and a link-control flit has the
flits from the one it names on sent again. -/
def State.takeFlit (s : State) (port : Nat) (flit : BitVec 512) : State :=
  let p := s.port port
  let p := { p with expect := (p.expect + 1) % 4096, asking := false, failed := 0, order := if flitKind flit = 5 then bits flit.toNat 39 32 else p.order }
  let p := (p.acked (flitAck flit)).heard (flitKind flit == 4) (flitAck flit)
  let s := s.setPort port p
  (if flitKind flit = 4 then p.replay.foldl (fun s f => s.send (.flit port f)) s else s).pump port

/-- Discard a flit: the receiver asks for the one it expects by a link-control flit. While that one is on its way, the flits behind the bad one
are discarded without another request, and a flit whose CRC fails is a failed replay (R360; log 58). -/
def Port.discard (p : Port) (crcBad : Bool) : Port :=
  let p' := { p with asking := true, failed := if p.asking && crcBad then p.failed + 1 else p.failed }
  if crcBad || !p.asking then p'.ask else p'

/-- A receiver discards a flit whose CRC fails or whose number is not the one it expects; it accepts any other. -/
def execFlitReceive (port : Nat) (flit : BitVec 512) (s : State) : Host.Outcome State Fault Refusal :=
  .next
    (let p := s.port port
     if !s.portLive port || p.down then s
     else if !flitOk flit || flitSeq flit != p.expect then
       let s := s.setPort port (p.discard !(flitOk flit))
       (if flitOk flit then s else s.correctedError 11 5 port).pump port
     else s.takeFlit port flit)

/-- A record of a port's link. -/
def State.linkRecord (s : State) (port sev : Nat) : State := s.errorRecord 11 sev noCtx 5 port 0

/-- A link that comes up again advertises the device's order class. -/
def State.advertise (s : State) (port : Nat) : State := (s.setPort port { s.port port with queue := (s.port port).queue ++ [advert] }).pump port

/-- After 16 failed replays of one flit, received or sent, the port retrains. -/
def execPortRetrain (port : Nat) (ok : Bool) (s : State) : Host.Outcome State Fault Refusal :=
  .next
    (let p := s.port port
     if !s.portLive port || p.down || (p.failed < 16 && p.again < 16) then s
     else if ok then ((s.setPort port { p with asking := false, failed := 0, again := 0, retrains := 0 }).advertise port).linkRecord port 4
     else (s.setPort port { p with retrains := p.retrains + 1 }).linkRecord port 4)

/-- After 3 failed retrainings the port stays down. -/
def execPortDown (port : Nat) (s : State) : Host.Outcome State Fault Refusal :=
  .next
    (let p := s.port port
     if !s.portLive port || p.down || p.retrains < 3 then s
     else ((s.setPort port { p with down := true }).linkRecord port 5).replace 3)

/-- System software's retrain returns a port to service. -/
def execRetrainRequest (port : Nat) (s : State) : Host.Outcome State Fault Refusal :=
  .next
    (if !s.portLive port then s
     else
       let t := s.setPort port { s.port port with down := false, asking := false, failed := 0, again := 0, retrains := 0 }
       (if (s.port port).down then t.advertise port else t).linkRecord port 4)

def execDeviceNumberSet (n : Nat) (s : State) : Host.Outcome State Fault Refusal := .next (if n < 256 then { s with devnum := n } else s)

/-- A place on a device. -/
def State.placeOn (s : State) (dev : Nat) : Loc → Bool
  | .peer key _ => (s.obj key).home == dev
  | _ => false

/-- Requests to a device that have not been answered: stores, copies that read or write one of its objects, and QROUND `.wait` on its meetings. -/
def State.unanswered (s : State) (dev : Nat) : Bool :=
  s.stores.any (fun p => p.parts.any (fun q => q.bytes.any (fun b => s.placeOn dev b.1) || q.red.any (fun r => r.1.any (s.placeOn dev)))) ||
    s.cores.any (fun e => e.2.copies.any (fun c =>
      (s.obj (objKey c.ctx c.src.name)).home == dev || (s.obj (objKey c.ctx c.dst.name)).home == dev)) ||
    s.meetQ.any (fun m => m.held && (s.obj (objKey m.ctx m.req.obj)).home == dev)

/-- A device that a port reaches has not answered every request. -/
def State.portBusy (s : State) (port : Nat) : Bool := (List.range 256).any (fun d => s.routesBy d port && s.unanswered d)

/-- A route entry is written once every request to its device has been answered; its reserved bits are not kept. -/
def execRouteTableWrite (dev : Nat) (w : Word) (s : State) : Host.Outcome State Fault Refusal :=
  .next (if 256 ≤ dev || (dev != s.devnum && s.unanswered dev) then s else { s with routes := Cells.set 0 s.routes dev (w &&& 0x1FFFFFF) })

/-! ### Host ports (R363 to R365) -/

/-- Key of a queue pair. -/
def qpKey (port qp : Nat) : Nat := 2 ^ 14 * port + qp
def State.qpOf (s : State) (port qp : Nat) : QueuePair := Cells.get QueuePair.fresh s.qps (qpKey port qp)
def State.setQp (s : State) (port qp : Nat) (q : QueuePair) : State := { s with qps := Cells.set QueuePair.fresh s.qps (qpKey port qp) q }

/-- A queue pair that serves requests. -/
def State.qpServes (s : State) (port qp : Nat) : Bool := port < 2 && qp < 2 ^ 14 && s.trust.pilotUp && !(s.qpOf port qp).error

/-- Places of a host access: a NAK of kind remote access error where a check fails; a wait where a page of a context is not mapped. -/
inductive HostRes where
  | ok (l : List Loc)
  | nak
  | wait (ctx va : Nat)

def State.hostRun (s : State) (rkey : Word) (addr n : Nat) (rights : List Nat) (write : Bool) : HostRes :=
  let e := Cells.get RegEntry.none s.regs rkey.toNat
  let c := e.cap
  let off := c.start + addr
  if !e.valid || !rights.all c.has || c.length < addr + n || (s.portCheck e.ctx c off n false).isSome || !s.reachable (s.obj (objKey e.ctx c.name)).home then .nak
  else
    match s.engineRun e.ctx c none write (n / 65536 + 1) off n with
    | .ok l => .ok (l.map Prod.snd)
    | .async _ => .nak
    | .fault va => .wait e.ctx va

/-- A request of a queue pair that serves requests. -/
def State.hostRequest (s : State) (port qp : Nat) (r : HostRes) (k : List Loc → State) : Host.Outcome State Fault Refusal :=
  .next
    (if !s.qpServes port qp then s
     else match r with
       | .nak => s.send (.nak port qp true)
       | .wait _ _ => s
       | .ok l => k l)

/-- A host's write to a CHECKED object is no strand's (R188, R190). -/
def State.hostMark (s : State) (rkey : Word) (addr n : Nat) : State :=
  let e := Cells.get RegEntry.none s.regs rkey.toNat
  s.uncheckedWrite (objKey e.ctx e.cap.name) (e.cap.start + addr) n

/-- Bytes that a host writes: their words are marked as the host's. -/
def State.hostStore (s : State) (l : List Loc) (data : List Byte) : State :=
  let s := s.store (l.zip data) false
  { s with hostWrote := l.foldl (fun m x => match x with | .mem pa => Cells.set false m (pa / 4) true | _ => m) s.hostWrote }

def execRdmaWrite (port qp : Nat) (rkey : Word) (addr : Nat) (data : List Byte) (s : State) : Host.Outcome State Fault Refusal :=
  s.hostRequest port qp (s.hostRun rkey addr data.length [rWrite] true) (fun l =>
    (s.hostMark rkey addr data.length).hostStore l data)

/-- A READ of a bound capsule view answers its bytes; of an object, the object's. -/
def execRdmaRead (port qp : Nat) (rkey : Word) (addr len : Nat) (s : State) : Host.Outcome State Fault Refusal :=
  let view := Cells.get [] s.capViews rkey.toNat
  if !view.isEmpty then
    s.hostRequest port qp (if addr + len ≤ view.length then .ok [] else .nak) (fun _ => s.send (.rdmaData port qp ((view.drop addr).take len)))
  else s.hostRequest port qp (s.hostRun rkey addr len [rRead] false) (fun l => s.send (.rdmaData port qp (l.map s.byteAt)))

/-- An 8-byte atomic: it answers the old value. -/
def State.hostAtomic (s : State) (port qp : Nat) (rkey : Word) (addr : Nat) (k : Nat → Option Nat) : Host.Outcome State Fault Refusal :=
  s.hostRequest port qp (if addr % 8 != 0 then .nak else s.hostRun rkey addr 8 [rRead, rWrite] true) (fun l =>
    let old := s.readNat l
    let s := match k old with
      | some v => (s.hostMark rkey addr 8).hostStore l (toLE 8 v)
      | none => s
    s.send (.atomicOld port qp (.ofNat 64 old)))

def execAtomicFetchAdd (port qp : Nat) (rkey : Word) (addr : Nat) (v : DWord) (s : State) : Host.Outcome State Fault Refusal :=
  s.hostAtomic port qp rkey addr (fun old => some ((old + v.toNat) % 2 ^ 64))

def execAtomicCompareSwap (port qp : Nat) (rkey : Word) (addr : Nat) (cmp swp : DWord) (s : State) : Host.Outcome State Fault Refusal :=
  s.hostAtomic port qp rkey addr (fun old => if old = cmp.toNat then some swp.toNat else none)

/-- Transport opcodes of the subset: reliable-connected WRITE, READ, atomics, their answers, and congestion notification. -/
def roceOpcodes : List Nat := [0x06, 0x07, 0x08, 0x0A, 0x0C, 0x0D, 0x0E, 0x0F, 0x10, 0x11, 0x12, 0x13, 0x14, 0x81]

/-- A request outside the subset. -/
def execInvalidRequestNak (port qp : Nat) (opcode : Byte) (s : State) : Host.Outcome State Fault Refusal :=
  .next
    (if !s.qpServes port qp || roceOpcodes.contains opcode.toNat then s
     else (s.setQp port qp { s.qpOf port qp with error := true }).send (.nak port qp false))

/-- A pause of a priority for a number of quanta; 0 resumes it. What a queue pair of that priority sends waits for its end (log 58). -/
def execPriorityFlowControlFrame (port prio quanta : Nat) (s : State) : Host.Outcome State Fault Refusal :=
  .next (if port < 2 && prio < 8 && quanta < 2 ^ 16 then { s with paused := Cells.set 0 s.paused (8 * port + prio) quanta } else s)

/-- A congestion notification changes the rate of its queue pair; by how much is not stated. -/
def execCongestionNotificationPacket (port qp : Nat) (s : State) : Host.Outcome State Fault Refusal :=
  .next (if s.qpServes port qp then s.setQp port qp { s.qpOf port qp with slow := Config.draw s.freeCount % 256 } else s)

end Sys2Proof.Machine
end

