-- ==== Sys2Proof/Machine/Harbour.lean ====
section
/-! DEFINITION. Requests to the Harbourmaster: capabilities, objects, contexts, retirement, the enumeration table, limits, host tables and
communicator keys (R334 to R348, R353, R365, R366, R430, R439 to R448). -/

namespace Sys2Proof.Machine

/-- The Harbourmaster serves a request of system software, which reaches it through the pilot (R447, R450). -/
def State.serve (s : State) (k : State → State) : Host.Outcome State Fault Refusal :=
  .next (if s.trust.hmUp && s.trust.pilotUp then k s else s)

/-- The context of the pilot, which is none of those that system software creates, and owns no object of theirs (R447). -/
def pilotCtx : Nat := 64

/-- The object table's checks of an access that the Stevedore makes (R447). -/
def State.stevedoreCheck (s : State) (c : Cap) (off n : Nat) (caps : Bool) : Option Cause := s.portCheck pilotCtx c off n caps

/-- Answer a request: `some` is its effect, `none` refuses it. -/
def State.reply (s : State) (r : Option State) : State :=
  match r with
  | some s => s.send (.answer true)
  | none => s.send (.answer false)

/-! ### Capabilities and objects (R334 to R336) -/

/-- A name of system software (R333). -/
def systemName (n : DWord) : Bool := n.toNat / 2 ^ 62 == 2

/-- The checks of a PLACECAP but the one of rights: the array, and the object that the capability names. -/
def State.placeOk (s : State) (ctx : Nat) (arr : DWord) (granule : Nat) (c : Cap) : Bool :=
  let a := s.obj (objKey ctx arr)
  let o := s.obj (objKey ctx c.name)
  a.live && a.caparr && a.ctx == ctx && 16 * granule + 16 ≤ a.extent && o.live && o.ctx == a.ctx && c.start + c.length ≤ o.extent &&
    c.gen == o.gen && c.has rCheck == o.checked

/-- Write a capability into a granule of an array and set its tag. -/
def State.placeCap (s : State) (ctx : Nat) (arr : DWord) (granule : Nat) (c : Cap) : Option State :=
  match s.keyRun (objKey ctx arr) (16 * granule) 16 true with
  | some l =>
    let s := (s.store (l.zip (toLE 16 c.image.toNat)) false).uncheckedWrite (objKey ctx arr) (16 * granule) 16
    some (match l with
      | .mem pa :: _ => { s with tags := Cells.set false s.tags (pa / 16) true }
      | .peer n off :: _ => s.send (.tagPeer (s.obj n).home (.ofNat 64 n) off)
      | _ => s)
  | none => none

/-- Rights that the owner of an object holds: all but debug; cap-load and cap-store of a capability array only. -/
def ObjEntry.held (o : ObjEntry) : Nat := if o.caparr then 0x7F else 0x67

def execPlacecap (ctx : Nat) (arr : DWord) (granule : Nat) (image : BitVec 128) (s : State) : Host.Outcome State Fault Refusal :=
  s.serve (fun s =>
    let c : Cap := ⟨image, true⟩
    let o := s.obj (objKey ctx c.name)
    s.reply (guardSome (s.placeOk ctx arr granule c && c.rights &&& o.held == c.rights) (s.placeCap ctx arr granule c)))

/-- The fields of an entry are as R335 has them. -/
def objectOk (r : ObjectReq) : Bool :=
  r.ctx < 64 && systemName r.name && r.vbase % 65536 == 0 && r.vbase + r.extent ≤ 2 ^ 52 && 16 ≤ r.extent && r.extent ≤ 2 ^ 40 &&
    r.extent % 16 == 0 && r.home < 256 && r.shofs < 2 ^ 32

/-- Enter an object under a name that is free. -/
def State.create (s : State) (r : ObjectReq) : Option State :=
  let key := r.name.toNat
  let o := s.obj key
  if !objectOk r || o.live || o.retired then none
  else
    some ((s.setObj key { o with live := true, vbase := r.vbase, extent := r.extent, pin := r.pin, caparr := r.caparr, checked := r.checked
                                 home := r.home, ctx := r.ctx, shofs := r.shofs }).clearShadow key)

def execObjectCreate (r : ObjectReq) (s : State) : Host.Outcome State Fault Refusal := s.serve (fun s => s.reply (s.create r))

def execObjectRevoke (ctx : Nat) (name : DWord) (s : State) : Host.Outcome State Fault Refusal :=
  s.serve (fun s =>
    let key := objKey ctx name
    s.reply (guardSome ((s.obj key).live && (s.obj key).ctx == ctx) (some (s.freeObj key))))

/-! ### Contexts (R344, R345, R425, R426, R430) -/

/-- A field of a context descriptor: bytes from `at_`. -/
def descNat (d : BitVec 2048) (at_ n : Nat) : Nat := (d.toNat / 2 ^ (8 * at_)) % 2 ^ (8 * n)
def descName (d : BitVec 2048) (at_ : Nat) : DWord := .ofNat 64 (descNat d at_ 8)

/-- The context that a descriptor describes. -/
def describedCtx (d : BitVec 2048) : Ctx :=
  { Ctx.blank with
    state := .running, root := descNat d 0 8, sys := bit (descNat d 8 1) 0, det := bit (descNat d 8 1) 1, replayMark := bit (descNat d 8 1) 2
    colln := descNat d 9 1, qn := descNat d 12 4, qtab := descName d 16, save := descName d 24, saven := descNat d 32 4, privn := descNat d 36 4
    trec := descName d 40, trecn := descNat d 48 4, deqcap := descNat d 52 4, deq := descName d 56, viewovf := descName d 64
    shadow := descName d 72, priv := descName d 80, privsz := descNat d 88 4, heap := descName d 96, log := descName d 104
    fault := descName d 112, faultn := descNat d 120 4, replay := descName d 128, part := .ofNat 320 (descNat d 136 40) }

/-- The fields of a descriptor are in their ranges, its reserved bytes and bits zero. -/
def State.descOk (s : State) (d : BitVec 2048) : Bool :=
  let c := describedCtx d
  let pow2 (n : Nat) : Bool := n == 2 ^ n.log2
  c.root % 65536 == 0 && c.root + 32768 ≤ s.hbmBytes && descNat d 8 1 < 8 && c.colln ≤ 8 && 1 ≤ c.qn && c.qn ≤ 1024 &&
    256 ≤ c.deqcap && c.deqcap ≤ 2 ^ 24 && 1 ≤ c.privsz && c.privsz ≤ 256 && 64 ≤ c.faultn && c.faultn ≤ 65536 && pow2 c.faultn &&
    c.part.toNat < 2 ^ s.liveCores.length && descNat d 10 2 == 0 && descNat d 92 4 == 0 && descNat d 124 4 == 0 && descNat d 176 80 == 0

/-- An object of a context that is homed here. -/
def State.ownObject (s : State) (n : Nat) (name : DWord) : Bool :=
  let o := s.obj name.toNat
  systemName name && o.live && o.ctx == n

/-- A pinned object: PIN set in its entry and in the leaf of every page. -/
def State.pinnedObject (s : State) (n : Nat) (name : DWord) : Bool :=
  let o := s.obj name.toNat
  o.pin && o.home == s.devnum && (List.range ((o.extent + 65535) / 65536)).all (fun i =>
    match s.walk n (o.vbase + 65536 * i) with
    | some p => p.pin
    | none => false)

/-- Bytes of a save area (R347). -/
def saveBytes (cores slots : Nat) : Nat := 1343488 * cores + 32768 * slots

/-- The checks of a context's creation, with its tables in place. -/
def State.creatable (s : State) (n : Nat) (d : BitVec 2048) : Bool :=
  let c := describedCtx d
  let t := s.setCtx n c
  let objects : List DWord := [c.qtab, c.save, c.trec, c.deq, c.viewovf, c.shadow, c.priv, c.heap, c.log, c.fault, c.replay]
  let pinned : List DWord := [c.save, c.trec, c.shadow, c.fault, c.replay]
  (s.trust.lifecycle == .deployed || s.trust.lifecycle == .debugUnlocked) && n < 64 && (s.ctx n).state == .free && s.descOk d &&
    objects.all (t.ownObject n) && pinned.all (t.pinnedObject n) && saveBytes (t.partCores n).length c.saven ≤ (s.obj c.save.toNat).extent

/-- A debug object of a context, and the capability to it with the debug right alone, placed in the owner's array. -/
def State.placeDebug (s : State) (n : Nat) (name arr : DWord) (granule : Nat) : Option State :=
  let c := Cap.make name (s.obj name.toNat).gen (2 ^ rDebug) 0 0 0
  guardSome (s.placeOk n arr granule c) (s.placeCap n arr granule c)

def State.debugObject (s : State) (n : Nat) (name arr : DWord) (granule : Nat) : Option State :=
  (s.create { ctx := n, name := name, vbase := 0, extent := 16, pin := false, caparr := false, checked := false, home := s.devnum, shofs := 0 }).bind
    (fun s => (s.placeDebug n name arr granule).map (fun s =>
      s.setCtx n { s.ctx n with debugObj := name, debugArr := arr, debugGranule := granule }))

def execContextCreate (n : Nat) (desc : BitVec 2048) (arr : DWord) (granule : Nat) (debugName : DWord) (s : State) : Host.Outcome State Fault Refusal :=
  s.serve (fun s =>
    if !s.creatable n desc then s.reply none
    else
      let inst := s.ctxInst + 1
      let value : DWord := (Config.random s.freeCount).setWidth 64
      let t := s.setCtx n { describedCtx desc with inst := inst }
      let t := t.setCtx n { t.ctx n with state := if t.blocked n then .saved else .running }
      match t.debugObject n debugName arr granule with
      | none => s.reply none
      | some t =>
        s.reply (some (State.send { t with ctxInst := inst, capReads := Cells.put t.capReads inst value } (.register [.ofNat 64 inst, value]))))

/-- Take a context out of the machine: it is killed, its launches complete, its objects are freed. Its instance number stays, which names it in what
the recorder still holds (R425). -/
def State.destroy (s : State) (n : Nat) : State :=
  let s := if s.liveCtxs.contains n then s.killCtx n .killed else s
  let lids := s.launches.filterMap (fun e => if e.2.live && e.2.ctx == n then some (e.1, e.2) else none)
  let s := lids.foldl (fun s e => let t := s.freeLaunch e.1; (t.launchStatus e.2 e.1 stKilled).getD t) s
  let s := (s.objs.filterMap (fun e => if e.2.live && e.2.ctx == n then some e.1 else none)).foldl State.freeObj s
  { s.setCtx n { Ctx.blank with inst := (s.ctx n).inst } with
    tlb := s.tlb.filter (fun e => e.ctx != n)
    walks := s.walks.filter (fun w => w.ctx != n)
    stores := s.stores.filter (fun p => p.ctx != n)
    packets := s.packets.filter (fun p => p.ctx != n)
    halted := s.halted.filter (fun h => h.1 != n)
    failed := s.failed.filter (fun f => f.1 != n)
    meetQ := s.meetQ.filter (fun m => m.ctx != n)
    overflow := s.overflow.filter (fun e => e.1 / 512 != n)
    colls := s.colls.filter (fun e => !e.2.members.all (fun m => m.ctx == n)) }

def execContextDestroy (ctx : Nat) (s : State) : Host.Outcome State Fault Refusal :=
  s.serve (fun s => s.reply (guardSome (ctx < 64 && (s.ctx ctx).state != .free) (some (s.destroy ctx))))

/-- A name of system software that no object has: where the search starts is free. -/
def State.freeName (s : State) : DWord :=
  let start := Config.draw s.freeCount
  let used (n : Nat) : Bool := (s.obj n).live || (s.obj n).retired
  .ofNat 64 (((List.range (s.objs.length + 1)).map (fun i => 2 ^ 63 + (start + i) % 2 ^ 62)).find? (fun n => !used n) |>.getD (2 ^ 63))

def execRevokeDebug (ctx : Nat) (s : State) : Host.Outcome State Fault Refusal :=
  s.serve (fun s =>
    let c := s.ctx ctx
    let key := c.debugObj.toNat
    let o := s.obj key
    s.reply
      (if ctx ≥ 64 || c.state == .free then none
       else if o.gen = 255 then (s.freeObj key).debugObject ctx s.freeName c.debugArr c.debugGranule
       else (s.setObj key { o with gen := o.gen + 1 }).placeDebug ctx c.debugObj c.debugArr c.debugGranule))

/-! ### Retirement and the scale caches (R439, R442) -/

/-- A unit that is neither fused off nor retired, and that a request may retire. -/
def State.unitLive (s : State) (type phys : Nat) : Bool :=
  s.unitExists type phys && !s.retiredUnits.contains (type, phys) && (type == 1 || type == 2 || type == 4 || type == 5)

/-- Cores of a die that stay once what is pending, and one more, is retired. -/
def State.coresLeft (s : State) (phys : Nat) : Nat :=
  (s.liveCores.filter (fun p => p / 80 == phys / 80 && p != phys && !s.retirePending.contains (1, p))).length

def execRetire (type phys : Nat) (s : State) : Host.Outcome State Fault Refusal :=
  s.serve (fun s =>
    let ok := s.unitLive type phys && (type != 1 || 0 < s.coresLeft phys) && (type != 4 || s.ctxs.all (fun e => e.2.state == .free))
    s.reply (guardSome ok (some
      (if s.retirePending.contains (type, phys) then s else { s with retirePending := (type, phys) :: s.retirePending }))))

/-- An MMA command runs on a core. -/
def State.mmaRuns (s : State) (core : Nat) : Bool :=
  s.wgs.any (fun e => e.2.live && e.2.core == core && (match e.2.ring with | some r => r.run.isSome | none => false))

/-- A SCALEON waits for the running command; whether the self-test passes is free. -/
def execScaleon (pcore : Nat) (s : State) : Host.Outcome State Fault Refusal :=
  s.serve (fun s =>
    match s.logicalCore pcore with
    | none => s.reply none
    | some core =>
      if s.mmaRuns core then s
      else s.reply (guardSome (Config.draw s.freeCount % 2 == 1) (some (s.setCore core { s.core core with scaleOff := false }))))

/-! ### Limits and the error ring (R440, R441, R446) -/

def execThresholdSet (type phys n : Nat) (s : State) : Host.Outcome State Fault Refusal :=
  s.serve (fun s => s.reply (guardSome (s.unitExists type phys) (some (s.setHealth type phys { s.healthOf type phys with threshold := n }))))

def execPowerCapSet (milliwatt : Nat) (s : State) : Host.Outcome State Fault Refusal :=
  s.serve (fun s => s.reply (guardSome (2000000 ≤ milliwatt && milliwatt ≤ 4500000) (some { s with powerCap := milliwatt })))

def execErrorRingSetup (obj : DWord) (s : State) : Host.Outcome State Fault Refusal :=
  s.serve (fun s => s.reply (guardSome (systemName obj && (s.obj obj.toNat).live) (some { s with errRing := some obj })))

/-! ### Host tables (R365, R366) -/

def execRegistrationWrite (rkey : Word) (ctx : Nat) (image : BitVec 128) (s : State) : Host.Outcome State Fault Refusal :=
  s.serve (fun s =>
    let room := s.regs.length < 65536 || (Cells.get RegEntry.none s.regs rkey.toNat).valid
    if image = 0 then s.reply (some { s with regs := Cells.del s.regs rkey.toNat })
    else s.reply (guardSome (ctx < 64 && room) (some { s with regs := Cells.set RegEntry.none s.regs rkey.toNat ⟨true, ctx, ⟨image, true⟩⟩ })))

def execHostObjectWrite (i : Nat) (name : DWord) (port qp : Nat) (rkey : Word) (addr len : Nat) (s : State) : Host.Outcome State Fault Refusal :=
  s.serve (fun s =>
    if 4096 ≤ i then s.reply none
    else if name = 0 then s.reply (some { s with hostObjs := Cells.del s.hostObjs i })
    else s.reply (guardSome (name.toNat / 2 ^ 62 == 3 && port < 2 && qp < 2 ^ 14)
      (some { s with hostObjs := Cells.set HostObj.none s.hostObjs i ⟨true, name, port, qp, rkey, addr, len⟩ })))

/-! ### The enumeration table (R356, R442 to R445) -/

/-- Latency class of a pair of dies, and its added cycles. -/
def dieClass (a b : Nat) : Nat := if a = b then 0 else if a + b = 3 then 2 else 1
def classCycles : Nat → Nat
  | 0 => 0
  | 1 => 70
  | _ => 130

/-- One entry. -/
def enumEntry (type die state phys logical extra : Nat) : List Byte :=
  toLE 4 type ++ toLE 1 die ++ toLE 1 state ++ toLE 2 phys ++ toLE 4 logical ++ toLE 4 extra

def noNumber : Nat := 0xFFFFFFFF

/-- State of a unit: 0 live, 1 fused off, 2 retired, 3 port down. -/
def State.unitState (s : State) (type phys : Nat) : Nat :=
  if type == 1 && s.fusedOff.contains phys then 1 else if s.retiredUnits.contains (type, phys) then 2
  else if type == 5 && (s.port phys).down then 3 else 0

/-- Live units of a type below a physical number. -/
def State.liveBelow (s : State) (type phys : Nat) : Nat := ((List.range phys).filter (fun p => s.unitState type p == 0)).length

/-- Entry of a core, slice, stack or port. -/
def State.unitEntry (s : State) (type die phys logical extra : Nat) : List Byte :=
  let st := s.unitState type phys
  enumEntry type die st phys (if st = 1 || st = 2 then noNumber else logical) extra

def State.enumEntries (s : State) : List (List Byte) :=
  (List.range 4).map (fun d => enumEntry 0 d 0 d d 0) ++
  (List.range 320).map (fun p => s.unitEntry 1 (p / 80) p (s.liveBelow 1 p) 0) ++
  (List.range 96).map (fun p => s.unitEntry 2 (p / 24) p (s.liveBelow 2 p) 0) ++
  ([0x0100, 0x0200, 0x0301, 0x0302] : List Nat).map (fun p => enumEntry 3 255 0 p noNumber 0) ++
  (List.range 12).map (fun p => s.unitEntry 4 255 p p 0) ++
  (List.range 24).map (fun p => s.unitEntry 5 255 p p (s.port p).order) ++
  (List.range 4).flatMap (fun hi => (List.range (hi + 1)).map (fun lo =>
    enumEntry 6 255 0 (lo + 256 * hi) noNumber (dieClass lo hi + 256 * classCycles (dieClass lo hi))))

/-- Live cores of a device of the fused grade. -/
def gradeCores : Nat → Nat
  | 0 => 288
  | 1 => 256
  | _ => 224

def State.below (s : State) : Bool := s.liveCores.length < gradeCores s.grade

def State.enumTable (s : State) : List Byte :=
  let l := s.enumEntries
  toLE 4 1 ++ toLE 4 l.length ++ toLE 1 s.grade ++ toLE 1 (s.below.toNat + 2 * s.replaceReq.toNat) ++ toLE 2 s.liveCores.length ++
    toLE 2 s.reason ++ toLE 2 0 ++ toLE 8 s.hbmBytes ++ List.replicate 40 0 ++ l.flatten

def execEnumerationRead (s : State) : Host.Outcome State Fault Refusal := s.serve (fun s => s.send (.enumeration s.enumTable))

/-! ### Communicator keys (R367, R448) -/

/-- What a wrapped key is bound to: the communicator's name and generation. -/
def keyBind (name : DWord) (gen : Nat) : List Byte := toLE 8 name.toNat ++ toLE 1 gen

/-- Other member devices of a communicator. -/
def State.memberDevices (s : State) (comm : DWord) : Option (List Nat) :=
  (s.objNat comm 0 4).bind (fun n => ((List.range n).mapM (fun r => (s.objNat comm (64 + 4 * r) 4).map (· % 256))).map (fun l =>
    l.eraseDups.filter (· != s.devnum)))

/-- The wrapped key for each member whose key and certificate verify; none where a member does not answer or fails a check. -/
def wrapAll (k : BitVec 256) (bind : List Byte) (answers : List KeyAnswer) (devs : List Nat) : Option (List (List Byte)) :=
  devs.mapM (fun d => (answers.find? (fun a => a.dev == d)).bind (fun a =>
    guardSome (Config.certOk a.cert && Config.keyOk a.cert a.key a.sig) (some (Config.kemWrap a.key k bind))))

def execCommkey (ctx : Nat) (comm : DWord) (answers : List KeyAnswer) (acks : List Nat) (switchKeys : List (List Byte)) (s : State) :
    Host.Outcome State Fault Refusal :=
  s.serve (fun s =>
    let o := s.obj comm.toNat
    let k := Config.random s.freeCount
    match s.objNat comm 4 4, s.memberDevices comm with
    | some flags, some devs =>
      if !systemName comm || !o.live || o.ctx != ctx || !bit flags 1 || 16 < switchKeys.length then s.reply none
      else
        match wrapAll k (keyBind comm o.gen) answers devs with
        | none => s.reply none
        | some wrapped =>
          let s := (devs.zip wrapped).foldl (fun s x => s.send (.keys x.1 x.2)) s
          let s := switchKeys.foldl (fun s e => s.send (.report (Config.kemWrap e k (keyBind comm o.gen)))) s
          let flags := flags % 4 + 8 * (flags / 8) + (if switchKeys.isEmpty then 0 else 4)
          s.reply (guardSome (devs.all acks.contains)
            ((s.devPut comm 4 4 flags).map (fun s => { s with commKeys := Cells.put s.commKeys (keyIndex comm o.gen) k })))
    | _, _ => s.reply none)

/-- A member answers another device's Harbourmaster, once it has its seed and its identity (R448, R452). -/
def execKeyExchangeQuery (dev : Nat) (s : State) : Host.Outcome State Fault Refusal :=
  .next (if s.trust.hmUp && s.trust.seed && s.trust.identity && dev < 256 && dev != s.devnum then s.send (.keys dev (Config.kemKey 0 ++ Config.kemKey 1 ++ Config.kemKey 2)) else s)

/-- A key arrives; a message that carries none says that the communicator has ended, and the key is erased (R448; log 40). -/
def execKeyInstall (dev : Nat) (name : DWord) (gen : Nat) (ct wrapped : List Byte) (s : State) : Host.Outcome State Fault Refusal :=
  .next
    (if !s.trust.hmUp || !s.trust.seed || 256 ≤ dev || dev == s.devnum || 256 ≤ gen then s
     else if ct.isEmpty && wrapped.isEmpty then { s with commKeys := Cells.del s.commKeys (keyIndex name gen) }
     else s.reply ((Config.kemUnwrap ct wrapped (keyBind name gen)).map (fun k => { s with commKeys := Cells.put s.commKeys (keyIndex name gen) k })))

end Sys2Proof.Machine
end

