-- ==== Sys2Proof/Machine/Trust.lean ====
section
/-! DEFINITION. Resets and the boot sequence, the self-test, loss of power, lifecycle changes, firmware versions, and the report protocol
(R422 to R426, R439, R449 to R455). -/

namespace Sys2Proof.Machine

/-! ### Lifecycle and wipes (R450, R452, R455) -/

/-- What an image's signature covers, and its check against a fused version (R450). -/
def imageOk (i : Image) (fused : Nat) : Bool := Config.hssVerify 0 (i.bytes ++ toLE 4 i.svn.toNat) i.sig && fused ≤ i.svn.toNat

def State.setTrust (s : State) (t : Trust) : State := { s with trust := t }

/-- Wipe every tenant key: contexts, host tables, communicator keys, capsule-read values and capsules. -/
def State.wipeKeys (s : State) : State :=
  let s := (s.ctxs.filterMap (fun e => if e.2.state == .free then none else some e.1)).foldl State.destroy s
  { s with regs := [], hostObjs := [], commKeys := [], capReads := [], capsules := [], flashCapsules := [], capViews := []
           trust := { s.trust with wipe := false } }

def execSvnRaise (stevedore : Bool) (image : Image) (s : State) : Host.Outcome State Fault Refusal :=
  s.serve (fun s =>
    let t := s.trust
    let fused := if stevedore then t.stFuse else t.hmFuse
    s.reply (guardSome (imageOk image fused)
      (some (s.setTrust (if stevedore then { t with stFuse := image.svn.toNat } else { t with hmFuse := image.svn.toNat })))))

def execDeploy (s : State) : Host.Outcome State Fault Refusal :=
  s.serve (fun s => s.reply (guardSome (s.trust.lifecycle == .provisioned) (some (s.setTrust { s.trust with lifecycle := .deployed }))))

/-- What the vendor signs in a RETURN or DECOMMISSION token: the device. -/
def deviceBytes : List Byte := toLE 8 Config.devid.toNat

/-- The lifecycle state and the vendor's signature let a RETURN through (R452). -/
def Trust.mayReturn (t : Trust) (sig : List Byte) : Bool := t.lifecycle == .deployed && Config.hssVerify 2 deviceBytes sig

def execReturnToken (sig : List Byte) (s : State) : Host.Outcome State Fault Refusal :=
  s.serve (fun s => s.reply (guardSome (s.trust.mayReturn sig)
    (let s := s.wipeKeys
     some (s.setTrust { s.trust with lifecycle := .returned }))))

def execDecommission (sig : List Byte) (s : State) : Host.Outcome State Fault Refusal :=
  s.serve (fun s => s.reply (guardSome (s.trust.lifecycle == .returned && Config.hssVerify 3 deviceBytes sig)
    (some (s.setTrust { s.trust with lifecycle := .decommissioned, seed := false, identity := false }))))

/-- Vendor provisioning creates the identity key; the device signs its key-exchange key with the first leaf (R448, R451). -/
def execVendorProvisioning (s : State) : Host.Outcome State Fault Refusal :=
  .next
    (if s.trust.hmUp && s.trust.lifecycle == .manufacture then
       s.setTrust { s.trust with lifecycle := .provisioned, seed := true, identity := true, leaf := s.trust.leaf + 1 }
     else s)

/-! ### Boot (R439, R444, R449, R450) -/

/-- The self-test of one core: whether its two parts pass; a core that fails gets a record. -/
def State.selfTest (s : State) (pass1 pass2 : List Nat) (core : Nat) : State :=
  let p := s.physCore core
  let ok1 := pass1.contains p
  let ok2 := pass2.contains p
  let s := s.setCore core { s.core core with scaleOff := !(ok1 && ok2) }
  let s := if ok1 then s else s.uncorrectable 5 1 noCtx 1 p 0
  if ok2 then s else s.errorRecord 9 1 noCtx 1 p 0

/-- Steps 1 to 5 of every reset. -/
def State.boot (s : State) (hm st : Image) (pass1 pass2 : List Nat) : State :=
  let cores := List.range s.liveCores.length
  let s := cores.foldl (fun s c => s.setCore c { s.core c with scaleOff := true }) s
  let lc := if s.trust.lifecycle == .debugUnlocked then .deployed else s.trust.lifecycle
  let t : Trust := { s.trust with
    mr0 := 0, mr1 := 0, mr2 := 0, mr3 := 0, lifecycle := lc, powered := true, hmUp := false, pilotUp := false, portOpen := false
    challenge := none }
  if !imageOk hm t.hmFuse then s.setTrust t
  else
    let t := { t with hmUp := true, hmSvn := hm.svn.toNat, mr0 := extendMr 0 hm.bytes }
    let s := cores.foldl (fun s c => s.selfTest pass1 pass2 c) (s.setTrust t)
    if !imageOk st t.stFuse then s
    else
      let t := { t with
        stSvn := st.svn.toNat, mr1 := extendMr 0 st.bytes, mr2 := extendMr 0 (bootState lc.code s.grade t.unlocks), mr3 := extendMr 0 [0] }
      let s := s.setTrust t
      let s := if t.wipe then s.wipeKeys else s
      let s := if s.below then s.replace 5 else s
      s.setTrust { s.trust with pilotUp := true }

/-- What loses its value without power: all but fuses and flash. -/
def State.coldState (s : State) : State :=
  let t := s.trust
  { State.reset with
    freeCount := s.freeCount, nextId := s.nextId, inputs := s.inputs, outbox := s.outbox, grade := s.grade, fusedOff := s.fusedOff
    retirePending := s.retirePending, retiredUnits := s.retiredUnits, flashCapsules := s.flashCapsules, capno := s.capno
    capReads := s.capReads, ctxInst := s.ctxInst
    trust := { Trust.reset with
      mr0 := 0, mr1 := 0, mr2 := 0, mr3 := 0, lifecycle := t.lifecycle, unlocks := t.unlocks, leaf := t.leaf, hmFuse := t.hmFuse
      stFuse := t.stFuse, hmSvn := 0, stSvn := 0, powered := false, hmUp := false, pilotUp := false, wipe := t.wipe, seed := t.seed, identity := t.identity } }

def execColdReset (hm st : Image) (pass1 pass2 : List Nat) (s : State) : Host.Outcome State Fault Refusal :=
  .next (s.coldState.boot hm st pass1 pass2)

/-! ### Warm reset (R349, R350, R442, R444) -/

/-- Entries of overflow rings at cores that are no longer of the partition go to the context's image. -/
def State.moveRings (s : State) (live : Nat) : State :=
  (s.overflow.filter (fun e => live ≤ e.1 % 512)).foldl (fun s e =>
    let ctx := e.1 / 512
    let core := e.1 % 512
    let l := (List.range e.2.count).filterMap (fun k => (s.ringEntry ctx core (e.2.top + k)).map Prod.fst)
    let c := s.ctx ctx
    let i := (s.partCores ctx).idxOf core
    (s.setOver ctx core ⟨0, 0⟩).setCtx ctx { c with image := Cells.set [] c.image i (Cells.get [] c.image i ++ l) }) s

/-- A core's new contents: recorder and copies of saved contexts stay. -/
def Core.warm (c : Core) : Core := { Core.blank with copies := c.copies, recorder := c.recorder }

/-- Apply pending retirements, renumber, and keep what a warm reset keeps. Contexts that were not saved are lost. Saved groups and
entries name places of their partition, whose logical numbers stay; a core past the last live one gives way to the partition's first. -/
def State.warmState (s : State) : State :=
  let s := (s.ctxs.filterMap (fun e => match e.2.state with | .running => some e.1 | .saving => some e.1 | _ => none)).foldl
    (fun s c => s.killCtx c .lost) s
  let retired := s.retiredUnits ++ s.retirePending
  let live := ({ s with retiredUnits := retired } : State).liveCores.length
  let s := s.moveRings live
  let t : State := { s with retiredUnits := retired, retirePending := [] }
  let cores := t.liveCores.zipIdx.foldl (fun m e =>
    match s.logicalCore e.1 with
    | some c => Cells.set Core.blank m e.2 (s.core c).warm
    | none => m) []
  let off := (retired.filter (fun u => u.1 == 5)).foldl (fun m u => m ||| BitVec.ofNat 32 (2 ^ u.2)) 0
  let stay (ctx core : Nat) : Nat := if live ≤ core && core != noCore then (s.partCores ctx).headD 0 else core
  { t with
    cur := 0, stalled := false, cores := cores, resets := s.resets + 1
    ctxs := s.ctxs.map (fun (e : Nat × Ctx) => (e.1, { e.2 with part := e.2.part &&& .ofNat 320 (2 ^ live - 1) }))
    groups := s.groups.map (fun (e : Nat × Group) => (e.1, { e.2 with core := stay e.2.ctx e.2.core }))
    sideLog := s.sideLog.map (fun p => { p with core := stay p.ctx p.core })
    routes := s.routes.foldl (fun m e => Cells.set 0 m e.1 (e.2 &&& ~~~off)) []
    mem := s.mem.filter (fun c => c.1 < t.hbmBytes)
    freezing := s.freezing.filterMap (fun c => t.logicalCore (s.physCore c))
    tlb := [], stores := [] }

def execWarmReset (hm st : Image) (pass1 pass2 : List Nat) (s : State) : Host.Outcome State Fault Refusal :=
  .next (if s.trust.powered then s.warmState.boot hm st pass1 pass2 else s)

/-! ### The report protocol (R453 to R455) -/

/-- Status codes. -/
def rpOk : Nat := 0
def rpBadReq : Nat := 1
def rpNotPresent : Nat := 2
def rpBadToken : Nat := 3
def rpBadState : Nat := 4
def rpKeySpent : Nat := 5
def rpBootFail : Nat := 6

/-- A response: the header, a status, the body. -/
def State.respond (s : State) (h : ReportHdr) (op status : Nat) (body : List Byte) : State :=
  s.send (.report (toLE 1 1 ++ toLE 1 (op + 0x80) ++ toLE 2 (4 + body.length) ++ toLE 4 h.xid.toNat ++ toLE 8 Config.devid.toNat ++
    toLE 4 status ++ body))

/-- A good header: its version, the OP and the device, and the payload's bytes in LEN (a request whose LEN is another is a bad one: log 71). -/
def headerOk (h : ReportHdr) (op len : Nat) : Bool :=
  h.version == 1 && h.op.toNat == op && h.len.toNat == len && (h.devid == 0 || h.devid == Config.devid)

/-- Payload bytes of the four requests (R426, R454, R455). -/
def attestLen : Nat := 32
def capsuleReadLen : Nat := 24
def challengeLen : Nat := 0
def unlockLen (t : Token) : Nat := 52 + t.sig.length

/-- A request with a good header, once the device has booted; a message of any other OP is a bad request. -/
def State.reportRequest (s : State) (h : ReportHdr) (op len : Nat) (k : State) : Host.Outcome State Fault Refusal :=
  .next
    (if !s.trust.powered then s
     else if !s.trust.hmUp || !s.trust.pilotUp then s.respond h h.op.toNat rpBootFail []
     else if !headerOk h op len then s.respond h h.op.toNat rpBadReq []
     else k)

/-- Leaves of the identity key (R451). -/
def leafCount : Nat := 2 ^ 25

/-- A request that needs a signature: the leaf counter rises before the leaf signs (R451). -/
def State.signing (s : State) (h : ReportHdr) (op : Nat) (k : State → Nat → State) : State :=
  let t := s.trust
  if !t.identity then s.respond h op rpBadState []
  else if leafCount ≤ t.leaf then s.respond h op rpKeySpent []
  else k (s.setTrust { t with leaf := t.leaf + 1 }) t.leaf

/-- Bytes of every signature of the identity key (R451). -/
def sigLen : Nat := 3124

/-- A signature over the digest of bytes. -/
def signature (leaf : Nat) (b : List Byte) : List Byte := (List.range sigLen).map (Config.hssByte leaf (toLE 32 (sha256 b).toNat))

/-- Bytes 0 to 191 of an attestation. -/
def State.attestation (s : State) (leaf : Nat) (nonce : BitVec 256) : List Byte :=
  let t := s.trust
  toLE 4 1 ++ toLE 1 t.lifecycle.code ++ toLE 1 s.grade ++ toLE 2 t.unlocks ++ toLE 8 Config.devid.toNat ++ toLE 4 t.hmSvn ++ toLE 4 t.stSvn ++
    toLE 8 leaf ++ toLE 32 nonce.toNat ++ toLE 32 t.mr0.toNat ++ toLE 32 t.mr1.toNat ++ toLE 32 t.mr2.toNat ++ toLE 32 t.mr3.toNat

def execAttest (h : ReportHdr) (nonce : BitVec 256) (s : State) : Host.Outcome State Fault Refusal :=
  s.reportRequest h 1 attestLen (s.signing h 1 (fun s leaf =>
    let b := s.attestation leaf nonce
    s.respond h 1 rpOk (b ++ toLE 4 sigLen ++ signature leaf b)))

/-! #### Capsule views (R423 to R426) -/

def crumbKind (c : Crumb) : Nat := bits c.toNat 73 68
def crumbCtx (c : Crumb) : Nat := bits c.toNat 79 74
def deviceCrumb (c : Crumb) : Bool := ([0x3D, 0x3E, 0x3F] : List Nat).contains (crumbKind c)

/-- The bits that a redacted crumb keeps: CSEQ and KIND, and the source of an M crumb; RED is set. -/
def redact (c : Crumb) (h : Nat) : Crumb :=
  let body := if ([0x30, 0x31, 0x32] : List Nat).contains (crumbKind c) then bits c.toNat 63 27 * 2 ^ 27 else 0
  .ofNat 128 (body + 2 ^ 64 + 2 ^ 68 * crumbKind c + 2 ^ 74 * h + 2 ^ 100 * (c.toNat / 2 ^ 100))

/-- Crumbs of a context in a capsule. -/
def Capsule.crumbsOf (c : Capsule) (ctx : Nat) : Nat :=
  (c.cores.map (fun k => (k.crumbs.filter (fun x => !deviceCrumb x && crumbCtx x == ctx)).length)).sum

/-- A context has a crumb or an origin in a capsule. -/
def Capsule.holds (c : Capsule) (ctx : Nat) : Bool := 0 < c.crumbsOf ctx || c.origins.any (fun o => o.ctx == ctx)

/-- Contexts of a capsule other than the view's, in ascending order: its hash entries. -/
def Capsule.others (c : Capsule) (v : Nat) : List Nat := (List.range 64).filter (fun x => x != v && c.holds x)

def Capsule.instOf (c : Capsule) (ctx : Nat) : Nat := ((c.insts.find? (fun e => e.1 == ctx)).map Prod.snd).getD 0

/-- A hash entry. -/
def Capsule.hashEntry (c : Capsule) (ctx : Nat) : List Byte :=
  (toLE 32 (sha256 (toLE 8 c.no ++ toLE 8 (c.instOf ctx))).toNat).take 8 ++ toLE 4 (c.crumbsOf ctx) ++ toLE 4 0

def Origin.word (o : Origin) (v : Nat) (others : List Nat) : Nat :=
  let who := if o.ctx = noOrigin then 0 else if o.ctx = v then 2 ^ 24 * v else 2 ^ 24 * (others.idxOf o.ctx) + 2 ^ 30
  o.pcore + 2 ^ 16 * o.cause + who + 2 ^ 32 * o.cseq

def CoreSection.bytes (k : CoreSection) (v : Nat) (others : List Nat) : List Byte :=
  let show_ (c : Crumb) : Crumb := if deviceCrumb c || crumbCtx c == v then c else redact c (others.idxOf (crumbCtx c))
  toLE 2 k.pcore ++ toLE 2 k.lcore ++ toLE 4 k.crumbs.length ++ toLE 8 k.cycle ++ toLE 4 k.cseqf ++ toLE 4 (Nat.min k.dropped (2 ^ 32 - 1)) ++
    List.replicate 40 0 ++ k.crumbs.flatMap (fun c => toLE 16 (show_ c).toNat)

/-- The view of a capsule for one context, before its signature. -/
def Capsule.view (c : Capsule) (v resets : Nat) : List Byte :=
  let others := c.others v
  let origins := (List.range 8).flatMap (fun i => toLE 8 ((c.origins[i]?.map (fun o => o.word v others)).getD 0))
  toLE 4 1 ++ toLE 4 c.cores.length ++ toLE 8 c.no ++ toLE 8 Config.devid.toNat ++ toLE 8 (c.instOf v) ++ toLE 1 v ++ toLE 1 c.lcs ++
    toLE 1 c.origins.length ++ toLE 1 others.length ++ toLE 4 (resets - c.resets) ++ toLE 32 c.meas.toNat ++ origins ++ List.replicate 120 0 ++
    others.flatMap c.hashEntry ++ c.cores.flatMap (fun k => k.bytes v others)

/-- A remote key that no view and no registration has: where the search starts is free. -/
def State.freeRkey (s : State) : Nat :=
  let start := Config.draw s.freeCount
  let used (n : Nat) : Bool := !(Cells.get [] s.capViews n).isEmpty || (Cells.get RegEntry.none s.regs n).valid
  (((List.range (s.capViews.length + s.regs.length + 1)).map (fun i => (start + i) % 2 ^ 32)).find? (fun n => !used n)).getD 0

/-- The stored capsule of a number: the HBM copy, else the flash copy. -/
def State.findCapsule (s : State) (no : Nat) : Option Capsule :=
  (s.capsules.find? (fun c => c.no == no)) <|> (s.flashCapsules.find? (fun c => c.no == no))

/-- The capsule of a number and the context of it that a capsule-read capability opens, where the capsule holds a crumb or an origin of that
context (R426). -/
def State.capsuleFor (s : State) (capno : Nat) (cap : BitVec 128) : Option (Capsule × Nat) :=
  let inst := cap.toNat / 2 ^ 64
  guardSome (s.capReads.any (fun e => e.1 == inst && e.2.toNat == cap.toNat % 2 ^ 64))
    ((s.findCapsule capno).bind (fun c => (c.insts.find? (fun e => e.2 == inst)).bind (fun e => guardSome (c.holds e.1) (some (c, e.1)))))

def execCapsuleRead (h : ReportHdr) (capno : Nat) (cap : BitVec 128) (s : State) : Host.Outcome State Fault Refusal :=
  s.reportRequest h 2 capsuleReadLen
    (match s.capsuleFor capno cap with
     | none => s.respond h 2 rpNotPresent []
     | some (c, v) =>
       s.signing h 2 (fun s leaf =>
         let view := c.view v s.resets
         let b := view ++ toLE 4 sigLen ++ signature leaf view
         let key := s.freeRkey
         ({ s with capViews := Cells.set [] s.capViews key b } : State).respond h 2 rpOk (toLE 4 key ++ toLE 8 b.length)))

/-! #### Unlock (R455) -/

def execUnlockChallenge (h : ReportHdr) (s : State) : Host.Outcome State Fault Refusal :=
  s.reportRequest h 3 challengeLen
    (let c := Config.random s.freeCount
     (s.setTrust { s.trust with challenge := some c }).respond h 3 rpOk (toLE 32 c.toNat))

/-- Bytes 0 to 47 of a token. -/
def tokenBytes (t : Token) : List Byte :=
  toLE 4 t.format.toNat ++ [t.lcs] ++ toLE 3 t.reserved.toNat ++ toLE 8 t.devid.toNat ++ toLE 32 t.nonce.toNat

/-- Step 1: a deployed device with an unlock fuse left. -/
def Trust.mayUnlock (t : Trust) : Bool := t.lifecycle == .deployed && t.unlocks < 64

/-- Step 2: the token matches the device, its state and the challenge, and the signature of the length that it gives verifies. -/
def tokenOk (t : Token) (challenge : Option (BitVec 256)) : Bool :=
  t.format == 1 && t.reserved == 0 && t.devid == Config.devid && t.lcs == 2 && challenge == some t.nonce &&
    t.siglen.toNat ≤ t.sig.length && Config.hssVerify 1 (toLE 32 (sha256 (tokenBytes t)).toNat) (t.sig.take t.siglen.toNat)

def execUnlock (h : ReportHdr) (t : Token) (s : State) : Host.Outcome State Fault Refusal :=
  s.reportRequest h 4 (unlockLen t)
    (let challenge := s.trust.challenge
     let s := s.setTrust { s.trust with challenge := none }
     if !s.trust.mayUnlock then s.respond h 4 rpBadState []
     else if !tokenOk t challenge then s.respond h 4 rpBadToken []
     else
       let s := (s.setTrust { s.trust with wipe := true }).wipeKeys
       let u := s.trust
       (s.setTrust { u with unlocks := u.unlocks + 1, lifecycle := .debugUnlocked, portOpen := true, mr3 := extendMr u.mr3 (tokenBytes t) }).respond h 4 rpOk [])

/-! ### Loss of power (R451, R455) -/

/-- A signature can be made: there is a key, with a leaf left. -/
def Trust.canSign (t : Trust) : Bool := t.identity && t.leaf < leafCount

/-- What the Harbourmaster has in flash where power fails while it serves a request: the wipe flag of an unlock or a return that goes through,
or the raised leaf counter of an answer that it was about to sign. -/
def State.halfServed (s : State) : Instr → Trust
  | .unlock h t => { s.trust with wipe := s.trust.wipe || (headerOk h 4 (unlockLen t) && s.trust.mayUnlock && tokenOk t s.trust.challenge) }
  | .returnToken sig => { s.trust with wipe := s.trust.wipe || s.trust.mayReturn sig }
  | .attest h _ => { s.trust with leaf := if headerOk h 1 attestLen && s.trust.canSign then s.trust.leaf + 1 else s.trust.leaf }
  | .capsuleRead h no cap =>
    { s.trust with leaf := if headerOk h 2 capsuleReadLen && s.trust.canSign && (s.capsuleFor no cap).isSome then s.trust.leaf + 1 else s.trust.leaf }
  | _ => s.trust

/-- Power is lost, and the Harbourmaster may have begun to serve the next request; whether it has is free (log 3). -/
def execPowerLoss (s : State) : Host.Outcome State Fault Refusal :=
  .next
    (match s.inputs.filter (fun i => !fromHost i) with
     | i :: _ =>
       if s.trust.hmUp && s.trust.pilotUp && Config.draw s.freeCount % 2 == 1 then (s.setTrust (s.halfServed i)).coldState else s.coldState
     | [] => s.coldState)

end Sys2Proof.Machine
end

