-- ==== Sys2Proof/Machine/Debug.lean ====
section
/-! DEFINITION. Debug requests, samples, TICK crumbs, freeze messages and capsules (R414, R420 to R424, R428 to R433). -/

namespace Sys2Proof.Machine

/-! ### Debug requests (R431 to R433) -/

/-- The capability that a request names is a tagged debug capability to the target context's debug object. -/
def State.debugOk (s : State) (r : DebugReq) : Bool :=
  let key := objKey r.ctx r.arr
  let c := s.ctx r.ctx
  (s.obj key).live && (s.obj key).caparr && c.state != .free &&
    (match s.keyRun key (16 * r.granule) 16 with
     | some (.mem pa :: l) =>
       let cap : Cap := ⟨.ofNat 128 (s.readNat (.mem pa :: l)), Cells.get false s.tags (pa / 16)⟩
       cap.tag && cap.has rDebug && cap.name == c.debugObj && cap.gen == (s.obj c.debugObj.toNat).gen && (s.obj c.debugObj.toNat).live
     | _ => false)

/-- Serve a debug request: a refused one has no effect. -/
def State.debugRequest (s : State) (r : DebugReq) (k : State → Option State) : Host.Outcome State Fault Refusal :=
  s.serve (fun s => s.reply (if s.debugOk r then k s else none))

/-- Groups of a context that a request names: one save slot's, or all. -/
def State.debugGroups (s : State) (ctx : Nat) (slot : Option Nat) : List Nat :=
  s.groups.filterMap (fun e =>
    if e.2.ctx == ctx && e.2.status != .none && (slot.isNone || e.2.slot == slot) then some e.1 else none)

/-- A group to stop: at its next instruction boundary (`State.settle`). -/
def execStop (r : DebugReq) (slot : Option Nat) (s : State) : Host.Outcome State Fault Refusal :=
  s.debugRequest r (fun s => some ((s.debugGroups r.ctx slot).foldl (fun s gid =>
    let g := s.grp gid
    s.setGrp gid { g with stopReq := !g.stopped }) s))

/-- A stopped group is to issue again, once its STOP crumb finds room (`State.settle`); a request to stop that has not taken effect is withdrawn. -/
def State.resumeGroup (s : State) (gid : Nat) : State :=
  let g := s.grp gid
  s.setGrp gid { g with stopReq := g.stopped }

def execResume (r : DebugReq) (slot : Option Nat) (s : State) : Host.Outcome State Fault Refusal :=
  s.debugRequest r (fun s => some ((s.debugGroups r.ctx slot).foldl State.resumeGroup s))

/-- Region of a tile register in the vault window. -/
def State.tileRegion (s : State) (g : Group) (n : Nat) : Nat × Nat := (s.launch g.lid).lrec.tileAt n

/-- Thread numbers of a vector register. -/
def laneList : List Nat := List.range 32

/-- The values of a register as a request reads it; none where the register does not exist or may not be read. -/
def State.regValues (s : State) (g : Group) : DebugReg → Option (List DWord)
  | .v n => guardSome (n < g.allot) (some (laneList.map (fun t => (Cells.get 0 g.v (32 * n + t)).setWidth 64)))
  | .s n => guardSome (n < g.ucount) (some [Cells.get 0 g.s n])
  | .p n => guardSome (n < 8) (some [if n = 7 then 0xFFFFFFFF else (Cells.get 0 g.p n).setWidth 64])
  | .g n => guardSome (n < 8) (some [if g.gpred n then 1 else 0])
  | .x n => guardSome (n < 8) (some (laneList.map (fun t => .ofNat 64 (g.index n t)) ++ [.ofNat 64 (Cells.get 0 g.xbase n), .ofNat 64 (Cells.get 0 g.xbound n)]))
  | .o n => guardSome (n < 8) (some ((Cells.get [] g.oq n).map (fun e => e.1.setWidth 64)))
  | .t n =>
    match g.wg with
    | some w =>
      let r := s.tileRegion g n
      guardSome (n < 16 && r.2 != 0) (some ((List.range (r.2 / 8)).map (fun i =>
        .ofNat 64 (s.readNat ((List.range 8).map (fun j => .vault w (r.1 + 8 * i + j)))))))
    | none => none
  | .mode => some [g.mode.setWidth 64]
  | .pedKey => some [.ofNat 64 g.pedKey]
  | .pedPos => some [.ofNat 64 g.pedDepth, .ofNat 64 g.pedBlk, .ofNat 64 g.pedIdx]
  | .k _ => none
  | .l _ => none

/-- A request on a register of a stopped group of the target context. -/
def State.stoppedGroup (s : State) (r : DebugReq) (gid : Nat) : Bool :=
  let g := s.grp gid
  g.status != .none && g.ctx == r.ctx && g.stopped

def execReadreg (r : DebugReq) (gid : Nat) (reg : DebugReg) (s : State) : Host.Outcome State Fault Refusal :=
  s.debugRequest r (fun s => guardSome (s.stoppedGroup r gid) ((s.regValues (s.grp gid) reg).map (fun l => s.send (.register l))))

/-- Operand code of a register in a DBGWR crumb; 0xF3 where it has none. -/
def regCode : DebugReg → Nat
  | .v n => n
  | .s n => 0xB0 + n
  | .o n => 0xE0 + n
  | .x n => 0xE8 + n
  | _ => 0xF3

/-- The destination of a load that a fault holds, with its width in registers. -/
def State.heldDst (s : State) : Option (BitVec 8 × Nat) :=
  match s.g.wait, s.fetch with
  | .hold _, .ok (.ld f) _ => some (f.d, (form 0x1C0 f).d.width)
  | .hold _, .ok (.ldu f) _ => some (f.d, (form 0x1C4 f).d.width)
  | .hold _, .ok (.ldt f) _ => some (f.d, match s.layout f.ext.num1.toNat with | some l => if l.bits = 64 then 2 else 1 | none => 1)
  | .hold _, .ok (.atom f) _ => some (f.d, (form 0x1C5 f).d.width)
  | .hold _, .ok (.ldfrag f) _ => some (f.d, (form 0x188 f).d.width)
  | _, _ => none

/-- Discard marks of a register: its quads, or the s register. -/
def regMarks : DebugReg → List Nat
  | .v n => (List.range 8).map (fun q => 8 * n + q)
  | .s n => [sMark n]
  | _ => []

/-- Marks of a register that is the destination of a load that a fault holds. -/
def State.heldMarks (s : State) (gid : Nat) (reg : DebugReg) : List Nat :=
  match ({ s with cur := gid } : State).heldDst, reg with
  | some (code, w), .v n => if laneList.any (fun t => ((s.grp gid).regs code w t).contains n) then regMarks reg else []
  | some (code, _), .s n => if kindOf code == .s && opNum code == n then regMarks reg else []
  | _, _ => []

/-- A meeting instruction of the group still has to write this s register. -/
def MeetWait.writes (m : MeetWait) (gid : Nat) (reg : DebugReg) : Bool := m.gid == gid && m.packet.isNone && reg == .s m.dst

/-- A result on its way, or the first write of a held load, still has to write this register. -/
def State.pendingReg (s : State) (gid : Nat) (reg : DebugReg) : Bool :=
  (s.grp gid).pending.any (fun d => (regMarks reg).any (fun m => d.quads.contains m || d.s.any (fun x => sMark x.1 == m))) ||
    s.meetQ.any (fun m => m.writes gid reg) || !(s.heldMarks gid reg).isEmpty

/-- Discard the results that are on their way to a register, each for the quads that it still has to write; where a fault holds the load that is to
write it, the mark waits for the first write of that load (R433). -/
def State.discardReg (s : State) (gid : Nat) (reg : DebugReg) : State :=
  let g := s.grp gid
  let s := s.setGrp gid { g with pending := g.pending.map (fun d => d.discard (regMarks reg)), discard := g.discard ++ s.heldMarks gid reg }
  { s with meetQ := s.meetQ.map (fun m => if m.writes gid reg then { m with skip := true } else m) }

/-- The group and its register as a request writes it; none where the register does not exist, may not be written, or the value does not
fit it. -/
def State.regPut (s : State) (gid : Nat) (reg : DebugReg) (l : List DWord) : Option State :=
  let g := s.grp gid
  let val (i : Nat) : Nat := (l.getD i 0).toNat
  match reg with
  | .v n =>
    guardSome (n < g.allot && l.length == 32)
      (some (s.setGrp gid
        (let g := laneList.foldl (fun g t => g.setV n t (val t)) g
         { g with vEmpty := g.vEmpty.filter (fun e => e.1 / 8 != n) })))
  | .s n => guardSome (n < g.ucount && l.length == 1)
      (some (s.setGrp gid (let g := g.setS n (l.headD 0); { g with sEmpty := Cells.del g.sEmpty n })))
  | .p n => guardSome (n < 8 && l.length == 1)
      (some (s.setGrp gid (if n = 7 then g else { g.unmark 0 n with p := Cells.set 0 g.p n (.ofNat 32 (val 0)) })))
  | .g n => guardSome (n < 8 && l.length == 1) (some (s.setGrp gid (g.setGpred n (val 0 % 2 == 1))))
  | .x n => guardSome (n < 8 && l.length == 34)
      (some (s.setGrp gid { g.unmark 2 n with
        x := Cells.setAll 0 g.x (laneList.map (fun t => (32 * n + t, (.ofNat 8 (val t) : Byte))))
        xbase := Cells.set 0 g.xbase n (val 32), xbound := Cells.set 0 g.xbound n (val 33) }))
  | .o n => guardSome (n < 8 && l.length ≤ 64)
      (some (s.setGrp gid { g with oq := Cells.set [] g.oq n (l.map (fun x => (x.setWidth 32, false))) }))
  | .t n =>
    match g.wg with
    | some w =>
      let r := s.tileRegion g n
      guardSome (n < 16 && r.2 != 0 && 8 * l.length == r.2)
        (some (s.store ((List.range r.2).map (fun i => (Loc.vault w (r.1 + i), (.ofNat 8 (val (i / 8) / 2 ^ (8 * (i % 8))) : Byte)))) false))
    | none => none
  | .mode => guardSome (l.length == 1 && modeOk (.ofNat 32 (val 0)))
      (some (s.setGrp gid { g.unmark 4 0 with mode := .ofNat 32 (val 0) &&& modeMask }))
  | .pedKey => guardSome (l.length == 1 && val 0 < Config.p) (some (s.setGrp gid { g with pedKey := val 0 }))
  | .pedPos => guardSome (l.length == 3 && val 0 < 64 && val 1 < 2 ^ 15 && val 2 < 2 ^ 16)
      (some (s.setGrp gid { g with pedDepth := val 0, pedBlk := val 1, pedIdx := val 2 }))
  | .k _ => none
  | .l _ => none

/-- A write: the crumb, the value, and the marks that discard results on their way. -/
def execWritereg (r : DebugReq) (gid : Nat) (reg : DebugReg) (value : List DWord) (s : State) : Host.Outcome State Fault Refusal :=
  s.debugRequest r (fun s =>
    guardSome (s.stoppedGroup r gid)
      ((s.regPut gid reg value).map (fun t =>
         (t.discardReg gid reg).gcrumb gid 0x08 (regCode reg + 256 * (s.pendingReg gid reg).toNat))))

/-! ### Samples (R428, R429) -/

/-- Set a context's sample ring and interval, or turn sampling off. -/
def execSampcfg (r : DebugReq) (ring : DWord) (n : Option Nat) (s : State) : Host.Outcome State Fault Refusal :=
  s.debugRequest r (fun s =>
    let c := s.ctx r.ctx
    match n with
    | none => some (s.setCtx r.ctx { c with sampRing := 0, sampN := 0 })
    | some k =>
      guardSome (10 ≤ k && k ≤ 24 && (s.obj ring.toNat).live && (s.obj ring.toNat).ctx == r.ctx)
        (some (s.setCtx r.ctx { c with sampRing := ring, sampN := k })))

/-- The bytes of a sample record. -/
def LastIssue.record (i : LastIssue) (core sched : Nat) (lat : BitVec 64) : List Byte :=
  toLE 1 i.quads ++ toLE 1 0 ++ toLE 2 core ++ toLE 1 sched ++ toLE 1 i.ctx ++ toLE 1 i.flags ++ toLE 1 i.level ++ toLE 8 i.cycle ++
    toLE 4 i.pc.toNat ++ toLE 4 i.seq.toNat ++ toLE 8 lat.toNat

/-- Append a record to a sample ring, or count it as dropped. -/
def State.sampleWrite (s : State) (ring : DWord) (b : List Byte) : State :=
  match s.objNat ring 0 8, s.objNat ring 8 8, s.objNat ring 24 8 with
  | some w, some rd, some n =>
    if n ≤ w - rd then s.dropRecord ring
    else
      match s.objRun ring (64 + 32 * (w % n)) 32 true with
      | some l =>
        let s := (s.store (l.zip b) false).uncheckedWrite ring.toNat (64 + 32 * (w % n)) 32
        (s.devPut ring 0 8 (w + 1)).getD s
      | none => s
  | _, _, _ => s

/-- The results of a scheduler's tagged instruction are written: no result of its address is on its way (R428; log 42). -/
def State.tagDue (s : State) (d : Sched) : Bool :=
  match d.ins with
  | some i => (s.grp i.gid).pending.all (fun x => x.pc != i.pc) && !s.meetQ.any (fun m => m.gid == i.gid && m.packet.isNone && m.pc == i.pc)
  | none => false

/-- The results of the tagged instruction are written: its record goes to the ring of its context, while that is sampled, and the next window
starts. -/
def execSampleTag (core sched : Nat) (s : State) : Host.Outcome State Fault Refusal :=
  .next
    (let c := s.core core
     let d := Cells.get Sched.reset c.scheds sched
     match d.ins with
     | none => s
     | some i =>
       let x := s.ctx i.ctx
       if !s.tagDue d then s
       else
         let s := s.setCore core { c with scheds := Cells.set Sched.reset c.scheds sched { d with issues := 0, ins := none } }
         if x.sampN = 0 then s else s.sampleWrite x.sampRing (i.record core sched (Config.latency s.freeCount)))

/-! ### The recorder and its capsules (R414, R420 to R424) -/

/-- Bit 29 of the cycle count has changed: a TICK crumb. Every step makes this of a core whose count it raises (`Core.elapse`). -/
def Core.ticked (c : Core) : Core :=
  let b := bit c.cycle 29
  if b == c.recorder.tick then c else { c with recorder := { c.recorder.add c.cycle 0 0x3D c.cycle with tick := b } }

def execTick (core : Nat) (s : State) : Host.Outcome State Fault Refusal :=
  .next (if bit (s.core core).cycle 29 == (s.core core).recorder.tick then s else s.setCore core (s.core core).ticked)

/-- A core that still records receives the message of the capsule's first origin. -/
def execFreezeMessage (core : Nat) (s : State) : Host.Outcome State Fault Refusal :=
  .next
    (if !s.freezing.contains core then s
     else
       let t : State := { s with freezing := s.freezing.filter (· != core) }
       let c := t.core core
       match t.origins with
       | [] => t
       | o :: _ =>
         if c.recorder.frozen then t
         else
           let r := c.recorder.add c.cycle 0 0x3F (mBody o.pcore o.cseq o.cause)
           t.setCore core { c with recorder := { r with frozen := true, fcycle := c.cycle } })

/-- One core's section. -/
def State.section (s : State) (core : Nat) : CoreSection :=
  let r := (s.core core).recorder
  { pcore := s.physCore core, lcore := core, cycle := r.fcycle, cseqf := (r.cseq + 2 ^ 28 - 1) % 2 ^ 28, dropped := r.lost, crumbs := r.crumbs }

/-- Put an origin into a list in ascending order of physical cores. -/
def insertOrigin (o : Origin) : List Origin → List Origin
  | [] => [o]
  | x :: l => if o.pcore < x.pcore then o :: x :: l else x :: insertOrigin o l

/-- A recorder resumes: its first crumb counts the events dropped while it was frozen. -/
def Recorder.resume (r : Recorder) (cycle : Nat) : Recorder :=
  ({ r with frozen := false, dropped := 0, lost := 0 }).add cycle 0 0x3E (Nat.min r.dropped 0xFFFF)

/-- Every live core is frozen: the Harbourmaster stores a capsule of the first 8 origins, with what was noted at the freeze, and the cores resume
recording. -/
def execCapsuleCollect (s : State) : Host.Outcome State Fault Refusal :=
  .next
    (let cores := List.range s.liveCores.length
     if s.origins.isEmpty || !cores.all (fun c => (s.core c).recorder.frozen) then s
     else
       let note := s.frozenNote.getD s.freezeNote
       let cap : Capsule :=
         { no := s.capno + 1, origins := (s.origins.take 8).foldl (fun l o => insertOrigin o l) [], cores := cores.map s.section, meas := note.meas
           lcs := note.lcs, resets := note.resets, insts := note.insts }
       let keep (n : Nat) (l : List Capsule) : List Capsule := (l ++ [cap]).drop (l.length + 1 - n)
       let s : State := { s with capno := s.capno + 1, capsules := keep 8 s.capsules, flashCapsules := keep 4 s.flashCapsules, origins := [], freezing := [], frozenNote := none }
       cores.foldl (fun s c => s.setCore c { s.core c with recorder := (s.core c).recorder.resume (s.core c).cycle }) s)

end Sys2Proof.Machine
end

