-- ==== Sys2Proof/Machine/Dispatch.lean ====
section
/-! DEFINITION. The meaning of every constructor of Instr: one arm each. -/

namespace Sys2Proof.Machine

def exec (i : Instr) (s : State) : Host.Outcome State Fault Refusal :=
  match i with
  | .add f => Sys2Proof.Machine.execAdd f s
  | .sub f => Sys2Proof.Machine.execSub f s
  | .mul f => Sys2Proof.Machine.execMul f s
  | .mulhi f => Sys2Proof.Machine.execMulhi f s
  | .mad f => Sys2Proof.Machine.execMad f s
  | .divn f => Sys2Proof.Machine.execDivn f s
  | .remn f => Sys2Proof.Machine.execRemn f s
  | .min f => Sys2Proof.Machine.execMin f s
  | .max f => Sys2Proof.Machine.execMax f s
  | .abs f => Sys2Proof.Machine.execAbs f s
  | .neg f => Sys2Proof.Machine.execNeg f s
  | .and f => Sys2Proof.Machine.execAnd f s
  | .or f => Sys2Proof.Machine.execOr f s
  | .xor f => Sys2Proof.Machine.execXor f s
  | .andn f => Sys2Proof.Machine.execAndn f s
  | .shl f => Sys2Proof.Machine.execShl f s
  | .shr f => Sys2Proof.Machine.execShr f s
  | .sar f => Sys2Proof.Machine.execSar f s
  | .bfx f => Sys2Proof.Machine.execBfx f s
  | .bfi f => Sys2Proof.Machine.execBfi f s
  | .popc f => Sys2Proof.Machine.execPopc f s
  | .clz f => Sys2Proof.Machine.execClz f s
  | .ctz f => Sys2Proof.Machine.execCtz f s
  | .brev f => Sys2Proof.Machine.execBrev f s
  | .sel f => Sys2Proof.Machine.execSel f s
  | .mov f => Sys2Proof.Machine.execMov f s
  | .movi f => Sys2Proof.Machine.execMovi f s
  | .cmp f => Sys2Proof.Machine.execCmp f s
  | .fadd f => Sys2Proof.Machine.execFadd f s
  | .fsub f => Sys2Proof.Machine.execFsub f s
  | .fmul f => Sys2Proof.Machine.execFmul f s
  | .ffma f => Sys2Proof.Machine.execFfma f s
  | .fmin f => Sys2Proof.Machine.execFmin f s
  | .fmax f => Sys2Proof.Machine.execFmax f s
  | .fcmp f => Sys2Proof.Machine.execFcmp f s
  | .fclass f => Sys2Proof.Machine.execFclass f s
  | .fdot2 f => Sys2Proof.Machine.execFdot2 f s
  | .frcp f => Sys2Proof.Machine.execFrcp f s
  | .frsq f => Sys2Proof.Machine.execFrsq f s
  | .fsqrt f => Sys2Proof.Machine.execFsqrt f s
  | .fexp2 f => Sys2Proof.Machine.execFexp2 f s
  | .flog2 f => Sys2Proof.Machine.execFlog2 f s
  | .fsinpi f => Sys2Proof.Machine.execFsinpi f s
  | .fcospi f => Sys2Proof.Machine.execFcospi f s
  | .cvt f => Sys2Proof.Machine.execCvt f s
  | .cvtpk f => Sys2Proof.Machine.execCvtpk f s
  | .qpack f => Sys2Proof.Machine.execQpack f s
  | .qunpk f => Sys2Proof.Machine.execQunpk f s
  | .scalegen f => Sys2Proof.Machine.execScalegen f s
  | .pset f => Sys2Proof.Machine.execPset f s
  | .plop f => Sys2Proof.Machine.execPlop f s
  | .pmov f => Sys2Proof.Machine.execPmov f s
  | .vote f => Sys2Proof.Machine.execVote f s
  | .shfl f => Sys2Proof.Machine.execShfl f s
  | .swpair f => Sys2Proof.Machine.execSwpair f s
  | .bcast f => Sys2Proof.Machine.execBcast f s
  | .redux f => Sys2Proof.Machine.execRedux f s
  | .scan f => Sys2Proof.Machine.execScan f s
  | .matchAny f => Sys2Proof.Machine.execMatchAny f s
  | .ldx f => Sys2Proof.Machine.execLdx f s
  | .stx f => Sys2Proof.Machine.execStx f s
  | .xset f => Sys2Proof.Machine.execXset f s
  | .grow f => Sys2Proof.Machine.execGrow f s
  | .shrink f => Sys2Proof.Machine.execShrink f s
  | .allotq f => Sys2Proof.Machine.execAllotq f s
  | .bra f => Sys2Proof.Machine.execBra f s
  | .call f => Sys2Proof.Machine.execCall f s
  | .brx f => Sys2Proof.Machine.execBrx f s
  | .join f => Sys2Proof.Machine.execJoin f s
  | .ret f => Sys2Proof.Machine.execRet f s
  | .exit f => Sys2Proof.Machine.execExit f s
  | .bkpt f => Sys2Proof.Machine.execBkpt f s
  | .yield f => Sys2Proof.Machine.execYield f s
  | .nop f => Sys2Proof.Machine.execNop f s
  | .safept f => Sys2Proof.Machine.execSafept f s
  | .trap f => Sys2Proof.Machine.execTrap f s
  | .smode f => Sys2Proof.Machine.execSmode f s
  | .gmode f => Sys2Proof.Machine.execGmode f s
  | .rdsys f => Sys2Proof.Machine.execRdsys f s
  | .wrsys f => Sys2Proof.Machine.execWrsys f s
  | .mmaf16x16x16 f => Sys2Proof.Machine.execMmaf16x16x16 f s
  | .mmaf32x8x16 f => Sys2Proof.Machine.execMmaf32x8x16 f s
  | .mmaf8x32x16 f => Sys2Proof.Machine.execMmaf8x32x16 f s
  | .mmaf16x16x32 f => Sys2Proof.Machine.execMmaf16x16x32 f s
  | .mmai f => Sys2Proof.Machine.execMmai f s
  | .mmaq f => Sys2Proof.Machine.execMmaq f s
  | .ldfrag f => Sys2Proof.Machine.execLdfrag f s
  | .stfrag f => Sys2Proof.Machine.execStfrag f s
  | .fragmov f => Sys2Proof.Machine.execFragmov f s
  | .tmma f => Sys2Proof.Machine.execTmma f s
  | .tcfgRing f => Sys2Proof.Machine.execTcfgRing f s
  | .tcfgFree f => Sys2Proof.Machine.execTcfgFree f s
  | .tscale f => Sys2Proof.Machine.execTscale f s
  | .taccrd f => Sys2Proof.Machine.execTaccrd f s
  | .taccwr f => Sys2Proof.Machine.execTaccwr f s
  | .tepi f => Sys2Proof.Machine.execTepi f s
  | .tstat f => Sys2Proof.Machine.execTstat f s
  | .tdrainWait f => Sys2Proof.Machine.execTdrainWait f s
  | .tdrainAbort f => Sys2Proof.Machine.execTdrainAbort f s
  | .ld f => Sys2Proof.Machine.execLd f s
  | .st f => Sys2Proof.Machine.execSt f s
  | .ldt f => Sys2Proof.Machine.execLdt f s
  | .stt f => Sys2Proof.Machine.execStt f s
  | .ldu f => Sys2Proof.Machine.execLdu f s
  | .atom f => Sys2Proof.Machine.execAtom f s
  | .red f => Sys2Proof.Machine.execRed f s
  | .fence f => Sys2Proof.Machine.execFence f s
  | .barSync f => Sys2Proof.Machine.execBarSync f s
  | .barArrive f => Sys2Proof.Machine.execBarArrive f s
  | .barWait f => Sys2Proof.Machine.execBarWait f s
  | .abarInit f => Sys2Proof.Machine.execAbarInit f s
  | .abarArrive f => Sys2Proof.Machine.execAbarArrive f s
  | .abarWait f => Sys2Proof.Machine.execAbarWait f s
  | .abarSync f => Sys2Proof.Machine.execAbarSync f s
  | .abarInval f => Sys2Proof.Machine.execAbarInval f s
  | .waitc f => Sys2Proof.Machine.execWaitc f s
  | .capld f => Sys2Proof.Machine.execCapld f s
  | .capst f => Sys2Proof.Machine.execCapst f s
  | .caprestr f => Sys2Proof.Machine.execCaprestr f s
  | .capq f => Sys2Proof.Machine.execCapq f s
  | .strmset f => Sys2Proof.Machine.execStrmset f s
  | .strmctlStart f => Sys2Proof.Machine.execStrmctlStart f s
  | .strmctlStop f => Sys2Proof.Machine.execStrmctlStop f s
  | .strmctlQuery f => Sys2Proof.Machine.execStrmctlQuery f s
  | .strmctlFree f => Sys2Proof.Machine.execStrmctlFree f s
  | .cpy f => Sys2Proof.Machine.execCpy f s
  | .bufacqFill f => Sys2Proof.Machine.execBufacqFill f s
  | .bufacqDrain f => Sys2Proof.Machine.execBufacqDrain f s
  | .bufrelFill f => Sys2Proof.Machine.execBufrelFill f s
  | .bufrelDrain f => Sys2Proof.Machine.execBufrelDrain f s
  | .bufwait f => Sys2Proof.Machine.execBufwait f s
  | .bufstate f => Sys2Proof.Machine.execBufstate f s
  | .pref f => Sys2Proof.Machine.execPref f s
  | .llock f => Sys2Proof.Machine.execLlock f s
  | .lunlk f => Sys2Proof.Machine.execLunlk f s
  | .spawn f => Sys2Proof.Machine.execSpawn f s
  | .sync f => Sys2Proof.Machine.execSync f s
  | .texit f => Sys2Proof.Machine.execTexit f s
  | .pedrd f => Sys2Proof.Machine.execPedrd f s
  | .pedcmp f => Sys2Proof.Machine.execPedcmp f s
  | .rng f => Sys2Proof.Machine.execRng f s
  | .alloco f => Sys2Proof.Machine.execAlloco f s
  | .freeo f => Sys2Proof.Machine.execFreeo f s
  | .logw f => Sys2Proof.Machine.execLogw f s
  | .rdecl f => Sys2Proof.Machine.execRdecl f s
  | .rview f => Sys2Proof.Machine.execRview f s
  | .racc f => Sys2Proof.Machine.execRacc f s
  | .rapp f => Sys2Proof.Machine.execRapp f s
  | .coll f => Sys2Proof.Machine.execColl f s
  | .collq f => Sys2Proof.Machine.execCollq f s
  | .amerge f => Sys2Proof.Machine.execAmerge f s
  | .qmeet f => Sys2Proof.Machine.execQmeet f s
  | .qroundPoll f => Sys2Proof.Machine.execQroundPoll f s
  | .qroundWait f => Sys2Proof.Machine.execQroundWait f s
  | .qresync f => Sys2Proof.Machine.execQresync f s
  | .launch f => Sys2Proof.Machine.execLaunch f s
  | .postres f => Sys2Proof.Machine.execPostres f s
  | .evmark f => Sys2Proof.Machine.execEvmark f s
  | .ctxopPreempt f => Sys2Proof.Machine.execCtxopPreempt f s
  | .ctxopResume f => Sys2Proof.Machine.execCtxopResume f s
  | .ctxopKill f => Sys2Proof.Machine.execCtxopKill f s
  | .ctxopMapdone f => Sys2Proof.Machine.execCtxopMapdone f s
  | .ctxopTlbinv f => Sys2Proof.Machine.execCtxopTlbinv f s
  | .ctxopTrapres f => Sys2Proof.Machine.execCtxopTrapres f s
  | .ctxopFlags f => Sys2Proof.Machine.execCtxopFlags f s
  | .ctxopState f => Sys2Proof.Machine.execCtxopState f s
  | .unassignedOpcode a => Sys2Proof.Machine.execUnassignedOpcode a s
  | .storePerformed a => Sys2Proof.Machine.execStorePerformed a s
  | .deferredResultWrite a b => Sys2Proof.Machine.execDeferredResultWrite a b s
  | .loadResultArrive a b => Sys2Proof.Machine.execLoadResultArrive a b s
  | .pageWalk a => Sys2Proof.Machine.execPageWalk a s
  | .asyncTrapDeliver a => Sys2Proof.Machine.execAsyncTrapDeliver a s
  | .raceFilterCheck a => Sys2Proof.Machine.execRaceFilterCheck a s
  | .remoteWritePerformed a => Sys2Proof.Machine.execRemoteWritePerformed a s
  | .hardPreemptCount a => Sys2Proof.Machine.execHardPreemptCount a s
  | .hardPreemptWait a => Sys2Proof.Machine.execHardPreemptWait a s
  | .workgroupDispatch a => Sys2Proof.Machine.execWorkgroupDispatch a s
  | .berthFill a => Sys2Proof.Machine.execBerthFill a s
  | .stealRequest a b => Sys2Proof.Machine.execStealRequest a b s
  | .viewMerge a => Sys2Proof.Machine.execViewMerge a s
  | .streamReadAhead a b => Sys2Proof.Machine.execStreamReadAhead a b s
  | .copyComplete a => Sys2Proof.Machine.execCopyComplete a s
  | .mmaCommandStart a => Sys2Proof.Machine.execMmaCommandStart a s
  | .mmaOperandSlot a => Sys2Proof.Machine.execMmaOperandSlot a s
  | .interruptionPoint a => Sys2Proof.Machine.execInterruptionPoint a s
  | .tileCommandRetire a => Sys2Proof.Machine.execTileCommandRetire a s
  | .epiCommand a => Sys2Proof.Machine.execEpiCommand a s
  | .scaleCommand a => Sys2Proof.Machine.execScaleCommand a s
  | .nopPacket a b => Sys2Proof.Machine.execNopPacket a b s
  | .launchPacket a b => Sys2Proof.Machine.execLaunchPacket a b s
  | .copyPacket a b => Sys2Proof.Machine.execCopyPacket a b s
  | .depend a b => Sys2Proof.Machine.execDepend a b s
  | .dependComplete a b => Sys2Proof.Machine.execDependComplete a b s
  | .graph a b => Sys2Proof.Machine.execGraph a b s
  | .graphStep a b => Sys2Proof.Machine.execGraphStep a b s
  | .collPacket a b => Sys2Proof.Machine.execCollPacket a b s
  | .meetInit a b => Sys2Proof.Machine.execMeetInit a b s
  | .meetFini a b => Sys2Proof.Machine.execMeetFini a b s
  | .meetContrib a b => Sys2Proof.Machine.execMeetContrib a b s
  | .meetResync a b => Sys2Proof.Machine.execMeetResync a b s
  | .queueRestart a b => Sys2Proof.Machine.execQueueRestart a b s
  | .launchComplete a => Sys2Proof.Machine.execLaunchComplete a s
  | .collInstanceStart a b => Sys2Proof.Machine.execCollInstanceStart a b s
  | .collInstanceComplete a b => Sys2Proof.Machine.execCollInstanceComplete a b s
  | .meetContribution a => Sys2Proof.Machine.execMeetContribution a s
  | .flitReceive a b => Sys2Proof.Machine.execFlitReceive a b s
  | .portRetrain a b => Sys2Proof.Machine.execPortRetrain a b s
  | .portDown a => Sys2Proof.Machine.execPortDown a s
  | .retrainRequest a => Sys2Proof.Machine.execRetrainRequest a s
  | .deviceNumberSet a => Sys2Proof.Machine.execDeviceNumberSet a s
  | .routeTableWrite a b => Sys2Proof.Machine.execRouteTableWrite a b s
  | .rdmaWrite a b c d e => Sys2Proof.Machine.execRdmaWrite a b c d e s
  | .rdmaRead a b c d e => Sys2Proof.Machine.execRdmaRead a b c d e s
  | .atomicFetchAdd a b c d e => Sys2Proof.Machine.execAtomicFetchAdd a b c d e s
  | .atomicCompareSwap a b c d e f => Sys2Proof.Machine.execAtomicCompareSwap a b c d e f s
  | .invalidRequestNak a b c => Sys2Proof.Machine.execInvalidRequestNak a b c s
  | .attest a b => Sys2Proof.Machine.execAttest a b s
  | .capsuleRead a b c => Sys2Proof.Machine.execCapsuleRead a b c s
  | .unlockChallenge a => Sys2Proof.Machine.execUnlockChallenge a s
  | .unlock a b => Sys2Proof.Machine.execUnlock a b s
  | .placecap a b c d => Sys2Proof.Machine.execPlacecap a b c d s
  | .objectCreate a => Sys2Proof.Machine.execObjectCreate a s
  | .objectRevoke a b => Sys2Proof.Machine.execObjectRevoke a b s
  | .contextCreate a b c d e => Sys2Proof.Machine.execContextCreate a b c d e s
  | .contextDestroy a => Sys2Proof.Machine.execContextDestroy a s
  | .retire a b => Sys2Proof.Machine.execRetire a b s
  | .scaleon a => Sys2Proof.Machine.execScaleon a s
  | .revokeDebug a => Sys2Proof.Machine.execRevokeDebug a s
  | .commkey a b c d e => Sys2Proof.Machine.execCommkey a b c d e s
  | .keyExchangeQuery a => Sys2Proof.Machine.execKeyExchangeQuery a s
  | .keyInstall a b c d e => Sys2Proof.Machine.execKeyInstall a b c d e s
  | .svnRaise a b => Sys2Proof.Machine.execSvnRaise a b s
  | .deploy => Sys2Proof.Machine.execDeploy s
  | .returnToken a => Sys2Proof.Machine.execReturnToken a s
  | .decommission a => Sys2Proof.Machine.execDecommission a s
  | .thresholdSet a b c => Sys2Proof.Machine.execThresholdSet a b c s
  | .powerCapSet a => Sys2Proof.Machine.execPowerCapSet a s
  | .errorRingSetup a => Sys2Proof.Machine.execErrorRingSetup a s
  | .registrationWrite a b c => Sys2Proof.Machine.execRegistrationWrite a b c s
  | .hostObjectWrite a b c d e f g => Sys2Proof.Machine.execHostObjectWrite a b c d e f g s
  | .enumerationRead => Sys2Proof.Machine.execEnumerationRead s
  | .stop a b => Sys2Proof.Machine.execStop a b s
  | .resume a b => Sys2Proof.Machine.execResume a b s
  | .readreg a b c => Sys2Proof.Machine.execReadreg a b c s
  | .writereg a b c d => Sys2Proof.Machine.execWritereg a b c d s
  | .sampcfg a b c => Sys2Proof.Machine.execSampcfg a b c s
  | .sampleTag a b => Sys2Proof.Machine.execSampleTag a b s
  | .tick a => Sys2Proof.Machine.execTick a s
  | .freezeMessage a => Sys2Proof.Machine.execFreezeMessage a s
  | .capsuleCollect => Sys2Proof.Machine.execCapsuleCollect s
  | .errorDetect a b => Sys2Proof.Machine.execErrorDetect a b s
  | .healthWindowExpire => Sys2Proof.Machine.execHealthWindowExpire s
  | .powerLimit a => Sys2Proof.Machine.execPowerLimit a s
  | .thermalThrottle a b => Sys2Proof.Machine.execThermalThrottle a b s
  | .thermalTrip a => Sys2Proof.Machine.execThermalTrip a s
  | .timeSliceSwitch r n => Sys2Proof.Machine.execTimeSliceSwitch r n s
  | .coldReset a b c d => Sys2Proof.Machine.execColdReset a b c d s
  | .warmReset a b c d => Sys2Proof.Machine.execWarmReset a b c d s
  | .powerLoss => Sys2Proof.Machine.execPowerLoss s
  | .vendorProvisioning => Sys2Proof.Machine.execVendorProvisioning s
  | .priorityFlowControlFrame a b c => Sys2Proof.Machine.execPriorityFlowControlFrame a b c s
  | .congestionNotificationPacket a b => Sys2Proof.Machine.execCongestionNotificationPacket a b s

end Sys2Proof.Machine
end

