-- ==== Sys2Proof/Machine/Sched.lean ====
section
/-! DEFINITION. What can happen next: events from outside, steps of the device, and the instruction that each scheduler issues (R160, R162,
R395 to R397, R413, R428). -/

namespace Sys2Proof.Machine

/-- An outcome of one step. -/
abbrev Out := Host.Outcome State Fault Refusal

/-! ### Issuing an instruction -/

/-- The state as a group's instruction finds it. -/
def State.turn (s : State) (gid : Nat) : State := { s with cur := gid, stalled := false }

/-- Run a group's next instruction: fetch it, then its meaning. Poison in its bytes comes from where the code lies (R415, R436). -/
def State.attempt (s : State) (gid : Nat) : Out :=
  let t := s.turn gid
  match t.fetch with
  | .ok i _ => exec i t
  | .trap c len => .next (t.onChkAt (t.levelOf t.g (.mem 0)) (.trap c) len t)
  | .hold va => .next (t.holdFault va false)

/-- The attempt, unless a meeting instruction of the group has its log entry still to come: then the group waits for that result (log 56). -/
def State.tryNext (s : State) (gid : Nat) : Out :=
  if s.unrecorded gid then .next ((s.turn gid).stall .regEmpty) else s.attempt gid

/-- What a group's next instruction comes to: it issues, its wait is only to be noted, it waits, or the machine stops. -/
inductive Try where
  | issue (r : State)
  | note (r : State)
  | blocked (w : Wait)
  | stop (o : Out)

/-- The state without what no group and no step of the device between resets and requests changes (R449 to R455). -/
def State.untrusted (s : State) : State :=
  { s with trust := { s.trust with mr0 := 0, mr1 := 0, mr2 := 0, mr3 := 0, challenge := none } }

def State.tryGroup (s : State) (gid : Nat) : Try :=
  match s.tryNext gid with
  | .next r =>
    if !r.stalled then .issue r
    else
      let g := r.grp gid
      let old := (s.grp gid).wait
      let same : State := { r.setGrp gid { g with wait := old } with stalled := false }
      if same.untrusted != (s.turn gid).untrusted then .issue r
      else if g.wait == old then .blocked g.wait
      else .note r
  | o => .stop o

/-- A group that may issue: running, not stopped by a debugger, not held by a fault, and not at the count at which it is pre-empted hard,
unless an instruction in progress finishes before (R165, R262, R311). -/
def State.mayIssue (s : State) (gid : Nat) (g : Group) : Bool :=
  g.status == .running && !g.stopped && (match g.wait with | .hold _ => false | _ => true) &&
    !(hardCount ≤ g.issuedSince && s.preempting g.ctx && !s.mustFinish gid)

/-- Groups that hold a berth of a scheduler. -/
def State.schedGroups (s : State) (core sched : Nat) : List Nat :=
  s.groups.filterMap (fun e => if s.mayIssue e.1 e.2 && e.2.core == core && e.2.sched == sched then some e.1 else none)

/-- Insert by rising key. -/
def insertKey {α : Type} (key : α → Nat) (x : α) : List α → List α
  | [] => [x]
  | y :: l => if key x ≤ key y then x :: y :: l else y :: insertKey key x l

def sortKey {α : Type} (key : α → Nat) (l : List α) : List α := l.foldr (insertKey key) []

/-- A wait in which a group of a deterministic context holds its turn (R397): for a result, and for what a release, an acquire or a read waits
for, but for a side-logged entry, of its own or of a group that R398 orders before it; a CTXOP that waits for another context's groups passes. -/
def State.holdsTurn (s : State) (gid : Nat) : Wait → Bool
  | .regEmpty => !s.awaitsRound gid
  | .release => !s.sideLog.any (fun p => p.gid == gid)
  | .instruction => !s.sideLog.any (fun p => s.before p gid) && (s.grp gid).ctxWait.isNone
  | _ => false

/-- The first group in turn order that does not pass its turn: it issues, or it holds the turn. -/
def State.detTurn (s : State) : List (Nat × Try) → Option (Nat × Try)
  | [] => none
  | (gid, .issue r) :: _ => some (gid, .issue r)
  | (gid, .stop o) :: _ => some (gid, .stop o)
  | (gid, .blocked w) :: l => if s.holdsTurn gid w then some (gid, .blocked w) else State.detTurn s l
  | (gid, .note r) :: l => if s.holdsTurn gid (r.grp gid).wait then some (gid, .note r) else State.detTurn s l

/-- An attempt that issues. -/
def Try.issues : Try → Bool
  | .issue _ => true
  | .stop _ => true
  | _ => false

/-- The group that a scheduler issues (R160), or in deterministic mode the one whose turn it is (R397). -/
def State.pick (s : State) (d : Sched) (det : Bool) (l : List (Nat × Try)) : Option (Nat × Try) :=
  if det then
    let rank (x : Nat × Try) : Nat := (s.grp x.1).rank
    s.detTurn (sortKey rank (l.filter (fun x => d.ptr ≤ rank x)) ++ sortKey rank (l.filter (fun x => rank x < d.ptr)))
  else
    let ready := l.filter (fun x => x.2.issues)
    match ready.find? (fun x => x.1 == d.last && d.run < runLimit) with
    | some x => some x
    | none => (sortKey (fun (x : Nat × Try) => ((s.grp x.1).berth % 256 + 256 - d.ptr) % 256) ready).head?

/-- Lowest level code of an access to a space, and how many codes it may have: which cache an object's data comes from is free. -/
def State.spaceLevel (s : State) : Option Space → Nat × Nat
  | none => (0, 1)
  | some (.own _) => (1, 1)
  | some (.remote none) => (0, 1)
  | some (.remote (some w)) => (if s.dieOf (s.wgOf w).core == s.dieOf s.g.core then 2 else 3, 1)
  | some (.obj c) => if s.isPeer (.obj c) then (8, 1) else (4, 4)

/-- The level codes that an instruction of the current group may reach (R429). -/
def State.levelRange (s : State) (op : Nat) (f : Fields) : Nat × Nat :=
  let entry : Nat × Nat := match s.layout f.ext.num1.toNat with | some l => s.spaceLevel (s.layoutSpace l) | none => (0, 1)
  if ([0x1C0, 0x1C1, 0x1C4, 0x1C5, 0x1C6] : List Nat).contains op then s.spaceLevel (s.spaceOf f.mod.toNat f.ext.num1.toNat (s.g.uval f f.b / 2 ^ 32))
  else if ([0x188, 0x189, 0x1C2, 0x1C3] : List Nat).contains op then entry
  else if op = 0x1CB || op = 0x1CC then s.spaceLevel (some (.obj (s.g.kreg f.ext.num1.toNat)))
  else if op = 0x1D1 then
    let i := s.g.image f.a
    let side (n : Nat) : Nat × Nat :=
      if n = 0x100 then (1, 1) else if (s.hostIndex (s.g.kreg n).name).isSome then (9, 1) else s.spaceLevel (some (.obj (s.g.kreg n)))
    let a := side (imgBytes i 24 2)
    let b := side (imgBytes i 26 2)
    if a.1 < b.1 then b else a
  else (0, 1)

/-- The deferred class: DIVN, REMN, the transcendental, conversion and lane instructions, fragments, TACCRD, loads, ATOM, RNG, the meeting
instructions and LAUNCH (R15, R93, R140, R240, R245, R280, R332, R393). -/
def deferredClass (op : Nat) (f : Fields) : Bool :=
  ([0x006, 0x007, 0x090, 0x091, 0x092, 0x093, 0x094, 0x095, 0x096, 0x0A2, 0x0A3, 0x0A4, 0x103, 0x110, 0x111, 0x112, 0x113, 0x114, 0x115] : List Nat).contains op ||
    ([0x180, 0x181, 0x182, 0x183, 0x184, 0x185, 0x188, 0x18A, 0x1A3, 0x1C0, 0x1C2, 0x1C4, 0x1C5, 0x1E5, 0x1F3, 0x1F4, 0x1F5, 0x1F6] : List Nat).contains op ||
    ((op == 0x0A0 || op == 0x0A1) && f.ext.ovf == 3)

/-- A thread of the instruction reads a vector register, so that its lane's ports may defer a quad (R23, R24). -/
def readsBanks (op : Nat) (f : Fields) : Bool :=
  (formSrcs (form op f) f).any (fun o => kindOf o.2.1 == .v)

/-- The sample description of an issue (R429); whether a port conflict deferred a quad of one that reads vector registers is free (log 7). -/
def State.describe (s r : State) (gid : Nat) : LastIssue :=
  let g := s.grp gid
  let t := s.turn gid
  let f := match t.fetch with | .ok i _ => i.word.map Prod.snd | _ => none
  let act := match f with | some f => g.active f | none => []
  let quads := ((act.map (· / 4)).dedup).length
  let word : Option (Nat × Fields) := match t.fetch with | .ok i _ => i.word | _ => none
  let deferred : Bool := word.any (fun w => deferredClass w.1 w.2) || decide (g.pending.length < (r.grp gid).pending.length)
  let banks : Bool := !act.isEmpty && word.any (fun w => readsBanks w.1 w.2)
  let range := match t.fetch with
    | .ok i _ => (match i.word with | some (op, f) => if act.isEmpty then (0, 1) else t.levelRange op f | none => (0, 1))
    | _ => (0, 1)
  { gid := gid, ctx := g.ctx, pc := g.pc, seq := (if (r.grp gid).status == .none then g.seq else (r.grp gid).seq), quads := quads, cycle := (s.core g.core).cycle
    level := range.1 + Config.level s.freeCount % range.2
    flags := (match f with | some f => f.u.toNat | none => 0) + 2 * act.isEmpty.toNat + 4 * r.trapped.toNat + 8 * deferred.toNat +
      16 * (if banks then Config.draw (s.freeCount + 8) % 2 else 0) }

/-- An issue is the one of its window that is tagged: each of the window's issues may be, and the last one is where none was (R428). -/
def State.tagsNext (s : State) (ctx issues : Nat) : Bool :=
  let left := 2 ^ (s.ctx ctx).sampN - issues
  left ≤ 1 || Config.draw s.freeCount % left == 0

/-- Account for an issue: the scheduler's rotation, the sampling window, and what pre-emption counts; marks that the instruction of a load held by
a fault had still to meet are gone with it (R433). -/
def State.account (s r : State) (gid : Nat) : State :=
  let g := s.grp gid
  let det := (s.ctx g.ctx).det
  let d := Cells.get Sched.reset (s.core g.core).scheds g.sched
  let c := r.core g.core
  let e := Cells.get Sched.reset c.scheds g.sched
  let again := d.last == gid && d.run < runLimit
  let run := if again then d.run + 1 else 1
  let sampled := (s.ctx g.ctx).sampN != 0
  let e := { e with
    ptr := if det then nextRank (r.ranksOn g.core g.sched) (g.rank + 1) else if again then d.ptr else (g.berth % 256 + 1) % 256
    last := gid
    run := if e.run = runLimit || runLimit ≤ run then runLimit + 1 else run
    issued := s.freeCount
    issues := if sampled && e.ins.isNone then e.issues + 1 else e.issues
    ins := if sampled && e.ins.isNone && s.tagsNext g.ctx e.issues then some (s.describe r gid) else e.ins }
  let r := r.setCore g.core { c with scheds := Cells.set Sched.reset c.scheds g.sched e }
  let h := r.grp gid
  if h.status == .none then r
  else
    let went := h.retired != g.retired
    r.setGrp gid { h with lastIssue := (s.core g.core).cycle, issuedSince := if went then h.issuedSince + 1 else h.issuedSince
                          discard := if went then [] else h.discard }

/-- The turn of a scheduler has passed to a group that holds it (R397). -/
def State.holdTurn (s : State) (core sched gid : Nat) : Option Out :=
  let c := s.core core
  let d := Cells.get Sched.reset c.scheds sched
  let rank := (s.grp gid).rank
  guardSome ((s.ctx (s.grp gid).ctx).det && d.ptr != rank)
    (some (.next (s.setCore core { c with scheds := Cells.set Sched.reset c.scheds sched { d with ptr := rank } })))

/-- What a scheduler can do: issue one instruction, pass the turn, or note the waits of its groups; nothing before the record of a tagged instruction
is written (R428). -/
def State.schedActions (s : State) (core sched : Nat) : List Out :=
  let gids := s.schedGroups core sched
  let ctx := (s.grp (gids.headD 0)).ctx
  let d := Cells.get Sched.reset (s.core core).scheds sched
  if s.tagDue d then []
  else
    let l := gids.map (fun gid => (gid, s.tryGroup gid))
    let notes := l.filterMap (fun x => match x.2 with | .note r => some (Host.Outcome.next r) | _ => none)
    match s.pick d (s.ctx ctx).det l with
    | some (gid, .issue r) => notes ++ [.next (s.account r gid)]
    | some (_, .stop o) => o :: notes
    | some (gid, _) => (s.holdTurn core sched gid).toList ++ notes
    | none => notes

/-- Schedulers with a group, the one that issued longest ago last (R161). -/
def State.activeScheds (s : State) : List (Nat × Nat) :=
  let l := (s.groups.filterMap (fun e => if s.mayIssue e.1 e.2 then some (e.2.core, e.2.sched) else none)).eraseDups
  sortKey (fun (x : Nat × Nat) => s.freeCount - (Cells.get Sched.reset (s.core x.1).scheds x.2).issued) l

/-! ### Steps of the device -/

/-- Packet steps of a queue. -/
def packetSteps (ctx q : Nat) : List Instr :=
  [.nopPacket ctx q, .launchPacket ctx q, .copyPacket ctx q, .depend ctx q, .dependComplete ctx q, .graph ctx q, .graphStep ctx q,
    .collPacket ctx q, .meetInit ctx q, .meetFini ctx q, .meetContrib ctx q, .meetResync ctx q]

/-- Command steps of a ring. -/
def ringSteps (w core : Nat) (held : Bool) : List Instr :=
  (if held then [] else [.mmaCommandStart w]) ++
    [.mmaOperandSlot w, .tileCommandRetire w, .epiCommand w, .scaleCommand w, .interruptionPoint core]

/-- Cores that may have a candidate for a berth, or a group to evict. -/
def State.fillCores (s : State) : List Nat :=
  let saved := s.groups.any (fun e => match e.2.status with | .saved _ _ => (s.ctx e.2.ctx).state == .running | _ => false)
  let waiting := s.launches.any (fun e => e.2.live && !e.2.killed && e.2.nextWg < e.2.nWg)
  let homes := s.wgs.any (fun e => e.2.live && s.liveCores.length ≤ e.2.core && (s.ctx e.2.ctx).state == .running)
  let running := s.ctxs.filter (fun (e : Nat × Ctx) => e.2.state == .running)
  let part := if saved || homes then running.flatMap (fun (e : Nat × Ctx) => s.partCores e.1) else []
  let deques := s.cores.filterMap (fun (e : Nat × Core) => if e.2.deque.isEmpty then none else some e.1)
  let rings := s.overflow.map (fun (e : Nat × Overflow) => e.1 % 512)
  let growing := s.groups.filterMap (fun (e : Nat × Group) =>
    if e.2.resident && (waiting || (match e.2.wait with | .growth _ => true | _ => false)) then some e.2.core else none)
  (part ++ deques ++ rings ++ growing).eraseDups

/-- Steal requests while a core holds an entry: for each thief, the victims that it may ask and that hold one, and one that holds none, for all
such requests fail alike. -/
def State.steals (s : State) : List Instr :=
  let deques := s.cores.filterMap (fun (e : Nat × Core) => if e.2.deque.isEmpty then none else some e.1)
  let holders := (deques ++ s.overflow.map (fun (e : Nat × Overflow) => e.1 % 512)).eraseDups
  let running := s.ctxs.filter (fun (e : Nat × Ctx) => e.2.state == .running)
  if holders.isEmpty then []
  else
    running.flatMap (fun (e : Nat × Ctx) => ((s.openCores e.1).filter (fun t => 0 < s.freeBerths t)).flatMap (fun t =>
      let part := s.partCores e.1
      (holders.filter (s.mayRob e.1 t) ++ ((part.find? (fun v => !holders.contains v && s.mayRob e.1 t v)).toList)).map (fun v => .stealRequest t v)))

/-- Stores that may be performed, by kind. -/
def storeStep (i : Nat) : StoreKind → Instr
  | .plain => .storePerformed i
  | .checked => .raceFilterCheck i
  | .remote => .remoteWritePerformed i

def State.storeSteps (s : State) : List Instr := s.stores.zipIdx.map (fun (e : PStore × Nat) => storeStep e.2 e.1.kind)

/-- Results, traps, hard pre-emption and stream reads of a group. -/
def State.groupSteps (s : State) (gid : Nat) (g : Group) : List Instr :=
  let results := g.pending.zipIdx.map (fun (d : Deferred × Nat) => if d.1.load then Instr.loadResultArrive gid d.2 else .deferredResultWrite gid d.2)
  let traps : List Instr := if g.traps.isEmpty then [] else [.asyncTrapDeliver gid]
  let hard : List Instr := if s.preempting g.ctx && g.status == .running then [.hardPreemptCount gid, .hardPreemptWait gid] else []
  let streams := g.streams.filterMap (fun (x : Nat × Stream) => if x.2.active then some (Instr.streamReadAhead gid x.1) else none)
  results ++ (traps ++ (hard ++ streams))

/-- Placement and completion of a launch. -/
def launchSteps (lid : Nat) (l : Launch) : List Instr :=
  if !l.live then []
  else if !l.killed && l.nextWg < l.nWg then [.workgroupDispatch lid, .launchComplete lid]
  else [.launchComplete lid]

/-- Copies, TICK crumbs and samples of a core. -/
def State.coreSteps (s : State) (core : Nat) (c : Core) : List Instr :=
  let copies : List Instr := if c.copies.isEmpty then [] else [.copyComplete core]
  let tick : List Instr := if bit c.cycle 29 == c.recorder.tick then [] else [.tick core]
  let samples := c.scheds.filterMap (fun (d : Nat × Sched) => if s.tagDue d.2 then some (Instr.sampleTag core d.1) else none)
  copies ++ (tick ++ samples)

def State.wgSteps (s : State) (w : Nat) (g : Workgroup) : List Instr :=
  if g.live && g.ring.isSome then ringSteps w g.core (s.scaleonHeld g.core) else []

def ctxSteps (n : Nat) (c : Ctx) : List Instr := if c.state == .running then (List.range c.qn).flatMap (packetSteps n) else []

def collSteps (i : Nat) (c : CollInst) : List Instr :=
  if c.live then Instr.collInstanceStart i [] :: (List.range c.members.length).map (fun k => Instr.collInstanceComplete i k) else []

def blockSteps (i : Nat) (b : Block) : List Instr := if b.live && b.closing then [.viewMerge i] else []

/-- Steps of the device that the data at hand may allow. -/
def State.internal (s : State) : List Instr :=
  let l1 := s.storeSteps ++ s.groups.flatMap (fun e => s.groupSteps e.1 e.2)
  let l2 := (s.walks.map Walk.die).eraseDups.map (fun d => Instr.pageWalk d)
  let l3 := s.launches.flatMap (fun e => launchSteps e.1 e.2)
  let l4 := s.fillCores.map (fun c => Instr.berthFill c)
  let l5 := s.blocks.flatMap (fun e => blockSteps e.1 e.2)
  let l6 := s.cores.flatMap (fun e => s.coreSteps e.1 e.2)
  let l7 := s.wgs.flatMap (fun e => s.wgSteps e.1 e.2)
  let l8 := s.ctxs.flatMap (fun e => ctxSteps e.1 e.2)
  let l9 := s.colls.flatMap (fun e => collSteps e.1 e.2)
  let l10 := (List.range s.meetQ.length).map (fun i => Instr.meetContribution (.queued i))
  let l11 := s.freezing.map (fun c => Instr.freezeMessage c)
  let l12 : List Instr := if s.origins.isEmpty then [] else [.capsuleCollect]
  [l1, l2, l3, l4, s.steals, l5, l6, l7, l8, l9, l10, l11, l12].flatten

/-- A step that changes the state. -/
def State.fire (s : State) (i : Instr) : Option Out :=
  match exec i s with
  | .next r => if r.untrusted = s.untrusted then none else some (.next r)
  | o => some o

/-! ### Events from outside -/

/-- An instruction word is no event. -/
def isWord : Instr → Bool
  | .unassignedOpcode _ => true
  | i => i.word.isSome

/-- A host access that waits for a page: its context, the address and whether it writes. -/
def HostRes.page (write : Bool) : HostRes → Option (Nat × Nat × Bool)
  | .wait ctx va => some (ctx, va, write)
  | _ => none

/-- The page that a request of a host or of a peer waits for (R343, R365). -/
def State.inputPage (s : State) : Instr → Option (Nat × Nat × Bool)
  | .rdmaWrite port qp rkey addr data => if s.qpServes port qp then (s.hostRun rkey addr data.length [rWrite] true).page true else none
  | .rdmaRead port qp rkey addr len => if s.qpServes port qp then (s.hostRun rkey addr len [rRead] false).page false else none
  | .atomicFetchAdd port qp rkey addr _ => if s.qpServes port qp then (s.hostRun rkey addr 8 [rRead, rWrite] true).page true else none
  | .atomicCompareSwap port qp rkey addr _ _ => if s.qpServes port qp then (s.hostRun rkey addr 8 [rRead, rWrite] true).page true else none
  | .meetContribution (.remote r) =>
    let key := s.meetKey r.obj
    let o := s.obj key
    let gone : Option Nat := match r.op with
      | 4 => (match s.meetInit key with | .wait va => some va | _ => none)
      | 5 => s.mtGone key 56 1
      | _ => s.mtFault key r ((s.foreignNext key r).map Prod.fst)
    if r.dev == s.devnum || !s.reachable r.dev || !o.live || o.home != s.devnum then none else gone.map (fun va => (o.ctx, va, true))
  | _ => none

/-- A host access whose answer a pause of its port keeps (R363). -/
def State.inputPaused (s : State) : Instr → Bool
  | .rdmaWrite port qp _ _ _ => s.qpPaused port qp
  | .rdmaRead port qp _ _ _ => s.qpPaused port qp
  | .atomicFetchAdd port qp _ _ _ => s.qpPaused port qp
  | .atomicCompareSwap port qp _ _ _ _ => s.qpPaused port qp
  | _ => false

/-- The name of an event's access to a page (R343). -/
def inputId : Instr → Nat
  | .rdmaWrite port qp rkey addr _ => accessId 11 (4 * port) (qp + 2 ^ 14 * (rkey.toNat + 2 ^ 32 * addr))
  | .rdmaRead port qp rkey addr _ => accessId 11 (4 * port + 1) (qp + 2 ^ 14 * (rkey.toNat + 2 ^ 32 * addr))
  | .atomicFetchAdd port qp rkey addr _ => accessId 11 (4 * port + 2) (qp + 2 ^ 14 * (rkey.toNat + 2 ^ 32 * addr))
  | .atomicCompareSwap port qp rkey addr _ _ => accessId 11 (4 * port + 3) (qp + 2 ^ 14 * (rkey.toNat + 2 ^ 32 * addr))
  | .meetContribution (.remote r) => accessId 12 r.op (r.rank + 2 ^ 8 * (r.dev + 2 ^ 8 * (r.tag + 2 ^ 32 * r.obj.toNat)))
  | _ => 0

/-- A request that waits: it is served before any later one (R361, R439); a debugger's write for room in the recorder's queue (R416). -/
def State.inputWaits (s : State) : Instr → Bool
  | .scaleon p => s.trust.pilotUp && (match s.logicalCore p with | some c => s.mmaRuns c | none => false)
  | .timeSliceSwitch (.op 4 _ lo len) n => n < 64 && s.rangeOwed n lo (lo + len)
  | .routeTableWrite dev _ => dev < 256 && dev != s.devnum && s.unanswered dev
  | .portDown p => s.portLive p && !(s.port p).down && 3 ≤ (s.port p).retrains && s.portBusy p
  | .retrainRequest p => s.portLive p && (s.port p).down && s.portBusy p
  | .writereg r gid _ _ => s.stoppedGroup r gid && s.recorderFull (s.grp gid).core
  | _ => false

/-- Take the oldest event that may be taken: it happens, waits, passes to the end, or is dropped where it has no effect. One that waits for a
page, or for a paused port, lets later events pass; host accesses keep their order. `front` are the events that are passed. -/
def State.inputAfter (s : State) (front : List Instr) : List Instr → Option Out
  | [] => none
  | i :: l =>
    let t : State := { s with inputs := front ++ l }
    if isWord i then some (.next t)
    else if fromHost i && front.any fromHost then State.inputAfter s (front ++ [i]) l
    else
      match s.inputPage i with
      | some (ctx, va, write) =>
        let u := s.engineFault ctx ((s.partCores ctx).headD 0) va write (inputId i)
        if u.walks.length = s.walks.length then State.inputAfter s (front ++ [i]) l else some (.next u)
      | none =>
        if s.inputPaused i then State.inputAfter s (front ++ [i]) l
        else if t.inputWaits i then none
        else
          match exec i t with
          | .next r =>
            if r = t && inputPasses i then (if l.isEmpty then none else some (.next { s with inputs := front ++ (l ++ [i]) })) else some (.next r)
          | o => some o

def State.input (s : State) : Option Out := s.inputAfter [] s.inputs

/-- Pauses of priorities that have run out; when is not stated (R363; log 58). -/
def State.unpause (s : State) : State :=
  match s.paused with
  | [] => s
  | l => { s with paused := l.filter (fun e => !Config.pauseOver s.freeCount e.1) }

/-! ### All that can happen next -/

def State.actions (s : State) : List Out :=
  s.input.toList ++ s.internal.filterMap s.fire ++ s.activeScheds.flatMap (fun x => s.schedActions x.1 x.2)

/-- Cycles of a core, in each of which its recorder writes up to 2 crumbs of its queue; a change of bit 29 is a TICK (R414, R416). -/
def Core.elapse (c : Core) (n : Nat) : Core :=
  ({ c with cycle := c.cycle + n, recorder := { c.recorder with busy := c.recorder.busy - 2 * n } } : Core).ticked

/-- Cycles of one step, beside the first: a free number below what changes bit 29 of a count twice (log 7). -/
def State.stallOf (s : State) (core : Nat) : Nat := Config.stall (512 * s.freeCount + core) % 2 ^ 28

/-- What ends every step: cycle counts, the counter of free values, and what the pilot and the cores do between steps. -/
def State.endStep (s : State) : State :=
  ({ s with
    stalled := false, trapped := false, freeCount := s.freeCount + 15
    cores := s.cores.map (fun (e : Nat × Core) => (e.1, e.2.elapse (1 + s.stallOf e.1))) } : State).evictShadow.unpause.settle.linkOut

/-- End a step that goes on. -/
def finishOut : Out → Out
  | .next s => .next s.endStep
  | o => o

/-- The state in which the next step is chosen and runs. -/
def State.ready (s : State) : State := { s with freeCount := s.freeCount + 1 }

/-- Every 64th step's choice among `n` things is not free: by turns the first (the oldest event, or else the oldest store that can be performed), the
last (the issue of the scheduler that has waited longest), and each place of the list, so that no group that stays ready and no accepted store waits
for ever (R161; log 3). -/
def fairPlace (step n : Nat) : Option Nat :=
  guardSome (step % 64 == 0)
    (some (match step / 64 % 3 with | 0 => 0 | 1 => n - 1 | _ => step / 192 % n))

/-- One of the things that can happen; which one is free but for `fairPlace`. A machine in which nothing can happen idles. -/
def State.choose (s : State) : List Out → Out
  | [] => .next s
  | [a] => a
  | a :: b :: l =>
    let n := l.length + 2
    ((a :: b :: l).getD ((fairPlace (s.freeCount / 16) n).getD (Config.choose s.freeCount n % n)) a)

end Sys2Proof.Machine
end

