-- ==== Sys2Proof/Machine/Load.lean ====
section
/-! DEFINITION. A program of one instruction, loaded from outside: a context, a code object, its page tables, and one group of a launch
(log 6). -/

namespace Sys2Proof.Machine

/-- Physical addresses of the three tables and of the code page. -/
def loadRoot : Nat := 0x10000
def loadCode : Nat := 0x40000

/-- Name of the code object. -/
def loadName : DWord := .ofNat 64 (2 ^ 63 + 1)

/-- The tables that map virtual page 0 to the code page, and the instruction's bytes, zero above the given bits. -/
def loadCells (nbits w : Nat) : List (Nat × Byte) :=
  let put (pa n v : Nat) : List (Nat × Byte) := (toLE n v).zipIdx.map (fun e => (pa + e.2, e.1))
  put loadRoot 8 0x20011 ++ put 0x20000 8 0x30011 ++ put 0x30000 8 (loadCode + 3) ++ put loadCode 32 (w % 2 ^ nbits)

/-- A capability to the code object. -/
def loadCap : Cap := Cap.make loadName 0 5 0 0 1

/-- Every cause kills the group. -/
def loadRecord : LaunchRec := { LaunchRec.blank with allot := 22, ucnt := 5, traps := .ofNat 128 0x55555555555555555555555555555555 }

def loadGroup : Group :=
  { Group.blank with status := .running, ctx := 0, lid := 1, wg := some 1, core := 0, berth := 0, live := 0xFFFFFFFF, cur := 0xFFFFFFFF
                     allot := 176, ucount := 48, k := [(0, loadCap)], block := 1 }

/-- The machine with that one group and nothing else that could act. -/
def State.load (s : State) (nbits w : Nat) : State :=
  { s with
    cur := 1, stalled := false, nextId := s.nextId + 2, inputs := [], walks := [], stores := [], sideLog := [], packets := [], halted := [], graphs := []
    colls := [], meetQ := [], overflow := [], freezing := [], origins := [], tlb := [], locks := [], lostPins := [], engFaults := [], cores := [(0, Core.blank)]
    ctxs := [(0, { Ctx.blank with state := .running, root := loadRoot, part := 1 })]
    objs := Cells.set ObjEntry.absent s.objs loadName.toNat
      { ObjEntry.absent with live := true, vbase := 0, extent := 32, home := s.devnum, ctx := 0 }
    mem := Cells.setAll memDefault s.mem (loadCells nbits w)
    memPoison := [], groups := [(1, loadGroup)], wgs := [(1, { Workgroup.blank with live := true, lid := 1, members := [1] })]
    launches := [(1, { Launch.blank with live := true, lrec := loadRecord, code := loadCap, nWg := 1, nextWg := 1, groups := 1 })]
    blocks := [(1, { Block.blank with live := true, gid := 1, lid := 1, items := [.strand 0 []] })] }

end Sys2Proof.Machine
end

