-- ==== Sys2Proof/Machine/Step.lean ====
section
/-! DEFINITION. The step of the device. -/

namespace Sys2Proof.Machine

/-- One step: one of the things that can happen next. -/
def step (s : State) : Host.Outcome State Fault Refusal := finishOut (s.ready.choose s.ready.actions)

/-- The machine with an instruction where the next step fetches it. -/
def State.withFetchWord (s : State) (nbits w : Nat) : State := s.load nbits w

end Sys2Proof.Machine
end

