-- ==== Sys2Proof/Safety.lean ====
section
/-! DEFINITION. The terms that claims use: safe runs, when an instruction may execute, and what it leaves unchanged. -/

namespace Sys2Proof.Machine

/-! ### Safe runs -/

/-- A run of `n` steps reaches a state: no step faults or is refused. -/
def Goes (s : State) (n : Nat) : Prop := ∃ t, Sys2Proof.core.run n s = .next t

/-- No run from a state ever stops. -/
def Safe (s : State) : Prop := ∀ n, Goes s n

/-! ### When an instruction executes -/

/-- The current group runs, its instruction passes every check of R77 that all instructions share, it waits for nothing, and some thread
is active (R31, R34, R35, R70, R123, R208, R436). -/
structure ReadyAs (op : Nat) (f : Fields) (fm : Form) (skip : Bool) (s : State) : Prop where
  running : s.g.status = .running
  issue : s.g.issue op f fm skip = .ok
  active : s.g.active f ≠ []

abbrev Ready (op : Nat) (f : Fields) (s : State) : Prop := ReadyAs op f (form op f) false s

/-- The state after an instruction's sources are read: o registers are popped, a held source is recorded. -/
def State.readsAs (s : State) (f : Fields) (fm : Form) : State := s.setG ((s.g.readAll fm f (s.g.active f)).1.record fm f)

/-- The sources of the active threads. -/
def State.rowsAs (s : State) (f : Fields) (fm : Form) : List Row := (s.g.readAll fm f (s.g.active f)).2

abbrev State.reads (s : State) (op : Nat) (f : Fields) : State := s.readsAs f (form op f)
abbrev State.rows (s : State) (op : Nat) (f : Fields) : List Row := s.rowsAs f (form op f)

/-! ### What stays -/

/-- Nothing but the current group changes, and every byte of memory and of every vault window reads as before. -/
structure OnlyGroup (s t : State) : Prop where
  state : t = s.setG t.g
  bytes : ∀ l, t.byteAt l = s.byteAt l

/-- The next instruction follows; the instruction is counted; the group no longer waits. -/
structure Completed (s t : State) (len : Nat) : Prop where
  pc : t.g.pc = s.g.pc + .ofNat 32 len
  retired : t.g.retired = s.g.retired + 1
  wait : t.g.wait = .none

/-- Vector registers that a destination names in a thread. -/
def Group.destRegs (g : Group) (code : BitVec 8) (w t : Nat) : List Nat :=
  match kindOf code with
  | .v => g.regs code w t
  | .ix => g.regs code w t
  | _ => []

/-- The value of an s register that a result of `w` registers writes (R73). -/
def sValue (w val : Nat) : DWord := .ofNat 64 (if w = 1 then val % 2 ^ 32 else val)

/-- Group `h` is group `g` with these results, by thread, in the destination: every register that the destination does not name holds what
it held, with its poison mark, and a zero destination takes nothing. -/
structure Holds (g h : Group) (code : BitVec 8) (w : Nat) (res : List (Nat × Nat)) : Prop where
  vector : ∀ e ∈ res, ∀ i r, (g.destRegs code w e.1)[i]? = some r →
    h.vreg r e.1 = e.2 / 2 ^ (32 * i) % 2 ^ 32 ∧ Cells.get false h.vPoison (32 * r + e.1) = false
  uniform : kindOf code = .s → ∀ e, res.getLast? = some e →
    h.sreg (opNum code) = sValue w e.2 ∧ Cells.get false h.sPoison (opNum code) = false
  vectorFrame : ∀ n t, t < 32 → ¬ (∃ e ∈ res, e.1 = t ∧ n ∈ g.destRegs code w t) →
    h.vreg n t = g.vreg n t ∧ Cells.get false h.vPoison (32 * n + t) = Cells.get false g.vPoison (32 * n + t)
  uniformFrame : ∀ n, ¬ (kindOf code = .s ∧ n = opNum code ∧ res ≠ []) →
    h.sreg n = g.sreg n ∧ Cells.get false h.sPoison n = Cells.get false g.sPoison n

/-- An instruction of `len` bytes has completed and left these results in its destination, and nothing else has changed beside what
reading its sources changes. -/
structure Wrote (s r t : State) (f : Fields) (w : Nat) (res : List (Nat × Nat)) : Prop where
  only : OnlyGroup s t
  completed : Completed s t f.len
  holds : Holds r.g t.g f.d w res
  rest : t.g = { r.g with v := t.g.v, vPoison := t.g.vPoison, s := t.g.s, sPoison := t.g.sPoison, pc := t.g.pc, retired := t.g.retired, wait := t.g.wait }

/-- An instruction has completed; of its group only these predicates may differ: the p register of the field in the active threads, or the g
register in a uniform instruction (R91). -/
structure WrotePred (s r t : State) (f : Fields) (code : BitVec 8) (res : List (Nat × Bool)) : Prop where
  only : OnlyGroup s t
  completed : Completed s t f.len
  vector : f.u = false → code.toNat % 8 ≠ 7 → ∀ e ∈ res, t.g.pred (code.toNat % 8) e.1 = e.2
  uniform : f.u = true → code.toNat % 8 ≠ 7 → ∀ e, res.getLast? = some e → t.g.gpred (code.toNat % 8) = e.2
  vectorFrame : ∀ n th, th < 32 → ¬ (f.u = false ∧ n = code.toNat % 8 ∧ ∃ e ∈ res, e.1 = th) → t.g.pred n th = r.g.pred n th
  uniformFrame : ∀ n, n < 8 → ¬ (f.u = true ∧ n = code.toNat % 8) → t.g.gpred n = r.g.gpred n
  rest : t.g = { r.g with p := t.g.p, g := t.g.g, miscPoison := t.g.miscPoison, pc := t.g.pc, retired := t.g.retired, wait := t.g.wait }

/-- An instruction of the deferred class has completed: its destination is marked empty, and one result in flight holds what the active
threads will get; no register changes yet (R33). Where a debugger's write to the destination of a load that a fault held left marks, the result
goes without what is marked, and what is marked is not empty (R433). -/
structure Deferring (s r t : State) (f : Fields) (w : Nat) (res : List (Nat × Nat × Bool)) (load div dz : Bool) : Prop where
  only : OnlyGroup s t
  completed : Completed s t f.len
  flight : ∃ d : Deferred, t.g.pending = r.g.pending ++ [d.discard r.g.discard] ∧ d.load = load ∧ d.div = div ∧ d.dz = dz ∧ d.skip = [] ∧
    (∀ e ∈ res, ∀ i q, (r.g.regs f.d w e.1)[i]? = some q → (32 * q + e.1, BitVec.ofNat 32 (e.2.1 / 2 ^ (32 * i)), e.2.2) ∈ d.v ∧
      8 * q + e.1 / 4 ∈ d.quads) ∧
    (∀ x ∈ d.v, ∃ e ∈ res, ∃ q ∈ r.g.regs f.d w e.1, x.1 = 32 * q + e.1) ∧
    (∀ q, Cells.get false t.g.vEmpty q = if q ∈ d.quads ∧ q ∉ r.g.discard then true else Cells.get false r.g.vEmpty q) ∧
    (kindOf f.d = .s → ∀ e, res.getLast? = some e →
      d.s = some (opNum f.d, sValue w e.2.1, e.2.2) ∧
      Cells.get false t.g.sEmpty (opNum f.d) = if sMark (opNum f.d) ∈ r.g.discard then Cells.get false r.g.sEmpty (opNum f.d) else true)
  rest : t.g = { r.g with vEmpty := t.g.vEmpty, sEmpty := t.g.sEmpty, pending := t.g.pending, pc := t.g.pc, retired := t.g.retired, wait := t.g.wait }

/-- An instruction has completed and changed nothing but its group's `pc`, count and wait, beside what reading its sources changes. -/
structure Passed (s r t : State) (len : Nat) : Prop where
  only : OnlyGroup s t
  completed : Completed s t len
  rest : t.g = { r.g with pc := t.g.pc, retired := t.g.retired, wait := t.g.wait }

end Sys2Proof.Machine
end

