-- ==== Sys2Proof/Certificates/Slice0/Obligations.lean ====
section
/-! DEFINITION. The statements for the provers. -/

namespace Sys2Proof.Claims

open Sys2Proof.Machine

/-! ### Result functions of the instructions that compute each thread's result from its own sources -/

/-- One instruction: constructor, opcode, and the result of a thread from the group after its reads and the thread's sources. -/
abbrev ResultRow : Type := (Fields → Instr) × Nat × (Fields → Group → Row → Nat)

/-- A chaining instruction that is ready answers a next state, which holds these results and nothing else new (R15, R16). -/
def Chains (c : Fields → Instr) (op : Nat) (fn : Fields → Group → Row → Nat) : Prop :=
  ∀ f s, Ready op f s → ∃ t, exec (c f) s = .next t ∧
    Wrote s (s.reads op f) t f (form op f).d.width ((s.rows op f).map (fun r => (r.t, fn f (s.reads op f).g r)))

/-- A deferred instruction that is ready answers a next state with its results in flight (R15, R33). -/
def Defers (c : Fields → Instr) (op : Nat) (fn : Fields → Group → Row → Nat) : Prop :=
  ∀ f s, Ready op f s → ∃ t, exec (c f) s = .next t ∧
    Deferring s (s.reads op f) t f (form op f).d.width ((s.rows op f).map (fun r => (r.t, fn f (s.reads op f).g r, false))) false false false

/-- The type's width of an integer operand, and its value as the type reads it. -/
def opW (f : Fields) : Nat := bitsOf f.ty
def opInt (f : Fields) (x : Nat) : Int := toInt (isSigned f.ty) (opW f) x

/-- Integer, logic, shift, bit and move instructions (R95 to R99). -/
def integerTable : List ResultRow :=
  [(.mul, 0x003, fun f _ r => arith f (fun x y => x * y) r.a r.b),
   (.mulhi, 0x004, fun f _ r => wrap (opW f) (opInt f r.a * opInt f r.b / 2 ^ opW f)),
   (.mad, 0x005, fun f _ r =>
     if f.mod = 2 then wrap 64 (opInt f r.a * opInt f r.b + r.c)
     else if f.mod = 1 then satur (isSigned f.ty) (opW f) (opInt f r.a * opInt f r.b + opInt f r.c)
     else wrap (opW f) (opInt f r.a * opInt f r.b + opInt f r.c)),
   (.min, 0x008, fun f _ r => onElems f.ty (fun w x y => if toInt (isSigned f.ty) w y < toInt (isSigned f.ty) w x then y % 2 ^ w else x % 2 ^ w) r.a r.b),
   (.max, 0x009, fun f _ r => onElems f.ty (fun w x y => if toInt (isSigned f.ty) w x < toInt (isSigned f.ty) w y then y % 2 ^ w else x % 2 ^ w) r.a r.b),
   (.abs, 0x00A, fun f _ r => arith f (fun x _ => x.natAbs) r.a 0),
   (.neg, 0x00B, fun f _ r => arith f (fun x _ => -x) r.a 0),
   (.and, 0x010, fun _ _ r => r.a &&& r.b), (.or, 0x011, fun _ _ r => r.a ||| r.b), (.xor, 0x012, fun _ _ r => r.a ^^^ r.b),
   (.andn, 0x013, fun _ _ r => r.a - (r.a &&& r.b)),
   (.shl, 0x014, fun f _ r => if opW f ≤ r.b then 0 else r.a * 2 ^ r.b % 2 ^ opW f),
   (.shr, 0x015, fun f _ r => if opW f ≤ r.b then 0 else r.a / 2 ^ r.b),
   (.sar, 0x016, fun f _ r => wrap (opW f) (toSigned (opW f) r.a / 2 ^ (if opW f ≤ r.b then opW f else r.b))),
   (.bfx, 0x017, fun f _ r =>
     if fieldLen (opW f) r.b r.c = 0 then 0
     else if f.mod = 1 then wrap (opW f) (toSigned (fieldLen (opW f) r.b r.c) (r.a / 2 ^ r.b % 2 ^ fieldLen (opW f) r.b r.c))
     else r.a / 2 ^ r.b % 2 ^ fieldLen (opW f) r.b r.c),
   (.bfi, 0x018, fun f _ r =>
     let k := fieldLen (opW f) (r.c % 256) (r.c / 256 % 256)
     if k = 0 then r.a else r.a - r.a / 2 ^ (r.c % 256) % 2 ^ k * 2 ^ (r.c % 256) + r.b % 2 ^ k * 2 ^ (r.c % 256)),
   (.popc, 0x019, fun f _ r => (bitList (opW f) r.a).countP id),
   (.clz, 0x01A, fun f _ r => ((bitList (opW f) r.a).reverse.takeWhile (!·)).length),
   (.ctz, 0x01B, fun f _ r => ((bitList (opW f) r.a).takeWhile (!·)).length),
   (.brev, 0x01C, fun f _ r => (bitList (opW f) r.a).foldl (fun acc b => 2 * acc + b.toNat) 0),
   (.sel, 0x020, fun f g r => movedValue f (if g.predField f.u f.c r.t then r.a else r.b)),
   (.mov, 0x021, fun f _ r => movedValue f r.a), (.movi, 0x022, fun f _ _ => movedValue f (immOperand f (regsOf f.ty)))]

/-- Floating-point instructions with one rounding (R100 to R103). -/
def floatTable : List ResultRow :=
  [(.fadd, 0x080, fun f g r => g.fpu f r (fun rd a b _ => sumFV rd [a, b]) 2),
   (.fsub, 0x081, fun f g r => g.fpu f r (fun rd a b _ => sumFV rd [a, b.neg]) 2),
   (.fmul, 0x082, fun f g r => g.fpu f r (fun _ a b _ => a.mul b) 2),
   (.ffma, 0x083, fun f g r => g.fpu f r (fun rd a b c => sumFV rd [a.mul b, c]) 3),
   (.fmin, 0x084, fun f g r => g.fpicks f FV.min r.a r.b), (.fmax, 0x085, fun f g r => g.fpicks f FV.max r.a r.b),
   (.fclass, 0x087, fun f _ r => fclassOf (fmtOfTy f.ty) r.a),
   (.fdot2, 0x088, fun f g r =>
     let a := (elemsOf f.ty r.a).map (fmtOfTy f.ty).decode
     let b := (elemsOf f.ty r.b).map (fmtOfTy f.ty).decode
     let c := g.input fp32 r.c
     g.result fp32 (g.rounding f.rnd) (g.draws (g.rounding f.rnd) r.t 0) (a ++ b ++ [c]) (sumFV (g.rounding f.rnd) (List.zipWith FV.mul a b ++ [c])))]

/-- Transcendental instructions: inputs and results are flushed under MODE.FTZ32 (R58, R104, R105). -/
def transcendentalTable : List ResultRow :=
  [(.frcp, 0x090, fun _ g r => g.flushIn fp32 (g.frcp (g.flushIn fp32 r.a))),
   (.frsq, 0x091, fun _ g r => g.flushIn fp32 (g.frsq (g.flushIn fp32 r.a))),
   (.fsqrt, 0x092, fun f g r => g.flushIn fp32 (g.fsqrt f (g.flushIn fp32 r.a) r.t)),
   (.fexp2, 0x093, fun _ g r => g.flushIn fp32 (g.fexp2 (g.flushIn fp32 r.a))),
   (.flog2, 0x094, fun _ g r => g.flushIn fp32 (g.flog2 (g.flushIn fp32 r.a))),
   (.fsinpi, 0x095, fun _ g r => g.flushIn fp32 (g.ftrig false (Config.fsinpi (.ofNat 32 (g.flushIn fp32 r.a))) (g.flushIn fp32 r.a))),
   (.fcospi, 0x096, fun _ g r => g.flushIn fp32 (g.ftrig true (Config.fcospi (.ofNat 32 (g.flushIn fp32 r.a))) (g.flushIn fp32 r.a)))]

/-- ADD or SUB (R96). -/
def AddsOrSubs (c : Fields → Instr) (op : Nat) (sub : Bool) : Prop :=
  ∀ f s, Ready op f s → ∃ t, exec (c f) s = .next t ∧
    (f.mod ≠ 2 → Wrote s (s.reads op f) t f (form op f).d.width
      ((s.rows op f).map (fun r => (r.t, arith f (fun x y => if sub then x - y else x + y) r.a r.b)))) ∧
    (f.mod = 2 →
      let sum (r : Row) := carryArith f sub r.a r.b ((s.reads op f).g.predField f.u f.c r.t)
      OnlyGroup s t ∧ Completed s t f.len ∧
      Holds (s.reads op f).g t.g f.d (form op f).d.width ((s.rows op f).map (fun r => (r.t, (sum r).1))) ∧
      (f.u = false → f.c.toNat % 8 ≠ 7 → ∀ r ∈ s.rows op f, t.g.pred (f.c.toNat % 8) r.t = (sum r).2) ∧
      (f.u = true → f.c.toNat % 8 ≠ 7 → ∀ r ∈ s.rows op f, t.g.gpred (f.c.toNat % 8) = (sum r).2) ∧
      (∀ n th, th < 32 → ¬ (f.u = false ∧ n = f.c.toNat % 8 ∧ th ∈ s.g.active f) → t.g.pred n th = s.g.pred n th) ∧
      (∀ n, n < 8 → ¬ (f.u = true ∧ n = f.c.toNat % 8) → t.g.gpred n = s.g.gpred n) ∧
      t.g = { (s.reads op f).g with v := t.g.v, vPoison := t.g.vPoison, s := t.g.s, sPoison := t.g.sPoison, p := t.g.p, g := t.g.g, miscPoison := t.g.miscPoison, pc := t.g.pc, retired := t.g.retired, wait := t.g.wait })

/-- DIVN or REMN (R97). -/
def Divides (c : Fields → Instr) (op : Nat) (pick : Nat × Nat → Nat) : Prop :=
  ∀ f s, Ready op f s → ∃ t, exec (c f) s = .next t ∧
    Deferring s (s.reads op f) t f (form op f).d.width
      ((s.rows op f).map (fun x => (x.t, pick (divRem (isSigned f.ty) (opW f) x.a x.b), false)))
      false true ((s.rows op f).any (fun x => x.b % 2 ^ opW f == 0))

/-! ### Predicates and lanes -/

/-- An instruction that writes a predicate per active thread. -/
def Judges (c : Fields → Instr) (op : Nat) (fn : Fields → Group → Row → Bool) : Prop :=
  ∀ f s, Ready op f s → ∃ t, exec (c f) s = .next t ∧
    WrotePred s (s.reads op f) t f f.d ((s.rows op f).map (fun r => (r.t, fn f (s.reads op f).g r)))

/-- Instructions that write a predicate (R99, R101, R111, R112). -/
def predicateTable : List ((Fields → Instr) × Nat × (Fields → Group → Row → Bool)) :=
  [(.cmp, 0x023, fun f _ r => condition f.c.toNat (opInt f r.a < opInt f r.b) (opInt f r.a == opInt f r.b)),
   (.fcmp, 0x086, fun f g r => fcondition f.c.toNat (g.input (fmtOfTy f.ty) r.a) (g.input (fmtOfTy f.ty) r.b)),
   (.pset, 0x100, fun _ _ r => r.a &&& r.b != 0),
   (.plop, 0x101, fun f g r =>
     let op (x y : Bool) : Bool := if f.mod = 0 then x && y else if f.mod = 1 then x || y else x != y
     op (op (g.predField f.u f.a r.t) (g.predField f.u f.b r.t)) (g.predField f.u f.c r.t))]

/-- A deferred instruction whose threads read each other: the result of a thread from all the active threads' sources. -/
def Crosses (c : Fields → Instr) (op : Nat) (fn : Fields → Group → List Row → Row → Nat) : Prop :=
  ∀ f s, Ready op f s → ∃ t, exec (c f) s = .next t ∧
    Deferring s (s.reads op f) t f (form op f).d.width
      ((s.rows op f).map (fun r => (r.t, fn f (s.reads op f).g (s.rows op f) r, false))) false false false

/-- Value of an active thread; none for an inactive one. -/
def laneValue (rows : List Row) (t : Nat) : Option Nat := (rows.find? (fun r => r.t == t)).map Row.a

/-- Lane instructions (R115 to R121). -/
def laneTable : List ((Fields → Instr) × Nat × (Fields → Group → List Row → Row → Nat)) :=
  [(.shfl, 0x110, fun f _ rows r =>
     let from_ : Option Nat :=
       if f.mod = 0 then some (r.b % 32)
       else if f.mod = 1 then (if r.t < r.b then none else some (r.t - r.b))
       else if f.mod = 2 then (if 31 < r.t + r.b then none else some (r.t + r.b))
       else some (r.t ^^^ (r.b % 32))
     (from_.bind (laneValue rows)).getD r.a),
   (.swpair, 0x111, fun _ _ rows r => (laneValue rows (r.t ^^^ 1)).getD r.a),
   (.bcast, 0x112, fun _ _ rows r => (laneValue rows (r.b % 32)).getD 0),
   (.redux, 0x113, fun f g rows _ => (treeOf (g.combine f) (laneValue rows)).getD 0),
   (.matchAny, 0x115, fun _ _ rows r => ((rows.filter (fun x => x.a == r.a)).map (fun x => 2 ^ x.t)).sum)]

/-- The mask of some threads. -/
def threadMask (rows : List Row) : Nat := (rows.map (fun r => 2 ^ r.t)).sum

/-! ### Control flow -/

/-- An entry of the reconvergence stack that lies in k2's window, by its place there, with its poison mark (R130). -/
def deepEntry (s : State) (i : Nat) : Option (RsEntry × Bool) :=
  let acc : TAcc := ⟨0, (s.g.kreg 2).start + 16 * i⟩
  match s.accCheck (some (.obj (s.g.kreg 2))) [rRead] 16 false [acc], s.loads (.obj (s.g.kreg 2)) 16 false false [acc] with
  | .ok, .ok [(_, some l)] _ => some (RsEntry.ofImage (s.loadNat l).1, (s.loadNat l).2)
  | _, _ => none

/-- `all` is the whole stack of the current group, top first: the entries in k2's window lie above those in hardware. Of the former, the first
`seen` can be read, and those whose JOIN address is one of `marks`, or any where none is given, carry no poison mark. -/
structure WholeStack (r : State) (all : List RsEntry) (seen : Nat) (mark : Option Word) : Prop where
  length : all.length = r.g.spilled + r.g.stack.length
  legal : all.length ≤ maxEntries
  hardware : all.drop r.g.spilled = r.g.stack
  deep : ∀ i e, i < r.g.spilled → i < seen → all[i]? = some e →
    ∃ p, deepEntry r (r.g.spilled - 1 - i) = some (e, p) ∧ (p = true → ∃ pc, mark = some pc ∧ e.join ≠ some pc)

/-- R128: where a JOIN at `pc` leads, from the mask, the live threads and the stack. -/
def joinTo (pc live : Word) : Word → List RsEntry → Word × List RsEntry × Word
  | cur, [] => (cur, [], pc + 8)
  | cur, e :: l =>
    if e.join ≠ some pc then (cur, e :: l, pc + 8)
    else if e.mask &&& live = 0 then joinTo pc live cur l
    else if e.merge then joinTo pc live (e.mask &&& live) l
    else (e.mask &&& live, l, e.resume)

/-- R128: how many entries a JOIN at `pc` looks at. -/
def joinSeen (pc live : Word) : List RsEntry → Nat
  | [] => 0
  | e :: l => if e.join = some pc ∧ (e.mask &&& live = 0 ∨ e.merge = true) then 1 + joinSeen pc live l else 1

/-- R129: where an EXIT that leaves no active thread leads; none where the stack runs empty. -/
def exitTo (live : Word) : List RsEntry → Option (Word × List RsEntry × Word)
  | [] => none
  | e :: l =>
    if e.mask &&& live = 0 then exitTo live l
    else some (e.mask &&& live, l, if e.merge then (e.join.getD 0xFFFFFFFF) + 8 else e.resume)

/-- R129: how many entries an EXIT looks at. -/
def exitSeen (live : Word) : List RsEntry → Nat
  | [] => 0
  | e :: l => if e.mask &&& live = 0 then 1 + exitSeen live l else 1

/-- A JOIN or an EXIT has completed at `target`, with these active and live threads and this whole stack, and nothing else has changed. -/
structure Popped (s r t : State) (target cur live : Word) (rest : List RsEntry) : Prop where
  only : OnlyGroup s t
  pc : t.g.pc = target
  retired : t.g.retired = s.g.retired + 1
  wait : t.g.wait = .none
  cur : t.g.cur = cur
  live : t.g.live = live
  spilled : t.g.spilled = rest.length - s.g.stack.length
  stack : t.g.stack = rest.drop (rest.length - s.g.stack.length)
  rest : t.g = { r.g with pc := t.g.pc, retired := t.g.retired, wait := t.g.wait, live := t.g.live, cur := t.g.cur, stack := t.g.stack, spilled := t.g.spilled }

/-- A group has ended: it is gone and has left its workgroup, its launch has one group fewer, and of the other groups only what they wait for
may differ. -/
structure Ended (s t : State) : Prop where
  gone : (t.grp s.cur).status = .none
  launch : (t.launch s.g.lid).groups = (s.launch s.g.lid).groups - 1
  left : ∀ w, s.g.wg = some w → s.cur ∉ (t.wgOf w).members
  others : ∀ i, i ≠ s.cur → t.grp i = { s.grp i with wait := (t.grp i).wait }
  bytes : ∀ pa, t.byteAt (.mem pa) = s.byteAt (.mem pa)

/-- A control instruction has completed and of its group only `pc`, the count, the wait, the thread masks and the stack may differ. -/
structure Jumped (s r t : State) (target : Word) : Prop where
  only : OnlyGroup s t
  pc : t.g.pc = target
  retired : t.g.retired = s.g.retired + 1
  wait : t.g.wait = .none
  rest : t.g = { r.g with pc := t.g.pc, retired := t.g.retired, wait := t.g.wait, live := t.g.live, cur := t.g.cur, stack := t.g.stack }

/-! ### Memory -/

/-- The space of a memory instruction and the offset of each active thread (R230, R231). -/
def memSpace (s : State) (op : Nat) (f : Fields) : Option Space :=
  (s.reads op f).spaceOf f.mod.toNat f.ext.num1.toNat (s.g.uval f f.b / 2 ^ 32)
def memAccs (s : State) (op : Nat) (f : Fields) : List TAcc := accsOf f (s.g.uval f f.b) (s.rows op f)

/-- What a thread of a load reads: its places' bytes and marks, zero where its access failed. -/
def placeVal (r : State) (x : Nat × Option (List Loc)) : Nat × Bool := match x.2 with | some p => r.loadNat p | none => (0, false)

/-- What the accesses of a load read, by thread. -/
def threadVals (r : State) (ls : List (Nat × Option (List Loc))) : List (Nat × Nat × Bool) := ls.map (fun x => (x.1, placeVal r x))

/-- The values that a load gets: those its places hold, `vals0`, or, from an object of a peer device, what the replay log records or gives; `u` is
the state with the requests and the log entry made (R402 to R404). -/
def Gets (r : State) (sp : Space) (n : Nat) (accs : List TAcc) (vals0 : List (Nat × Nat × Bool)) (u : State) (vals : List (Nat × Nat × Bool)) : Prop :=
  if r.isPeer sp then (r.readsPeer sp n accs).logged 2 n vals0 = some (u, vals) else u = r ∧ vals = vals0

/-- Results of `w` registers are in flight to the destination, each quad by itself; the destination is empty until they arrive, and no other
register is (R33, R240). Where a debugger's write to the destination of a load that a fault held left marks, the results go without what is marked,
and what is marked is not empty (R433). -/
structure Flies (u t : State) (f : Fields) (w : Nat) (res : List (Nat × Nat × Bool)) : Prop where
  flight : ∃ ds : List Deferred, t.g.pending = u.g.pending ++ ds.map (fun d => d.discard u.g.discard) ∧
    (∀ d ∈ ds, d.load = true ∧ d.div = false ∧ d.dz = false ∧ d.skip = []) ∧
    (∀ e ∈ res, ∀ i q, (u.g.regs f.d w e.1)[i]? = some q →
      ∃ d ∈ ds, (32 * q + e.1, BitVec.ofNat 32 (e.2.1 / 2 ^ (32 * i)), e.2.2) ∈ d.v ∧ 8 * q + e.1 / 4 ∈ d.quads) ∧
    (∀ d ∈ ds, ∀ x ∈ d.v, ∃ e ∈ res, ∃ q ∈ u.g.regs f.d w e.1, x.1 = 32 * q + e.1) ∧
    (∀ d ∈ ds, ∀ q ∈ d.quads, q ∉ u.g.discard → Cells.get false t.g.vEmpty q = true) ∧
    (∀ q, (q ∈ u.g.discard ∨ ∀ d ∈ ds, q ∉ d.quads) → Cells.get false t.g.vEmpty q = Cells.get false u.g.vEmpty q) ∧
    (kindOf f.d = .s → ∀ e, res.getLast? = some e → (∃ d ∈ ds, d.s = some (opNum f.d, sValue w e.2.1, e.2.2)) ∧
      (sMark (opNum f.d) ∉ u.g.discard → Cells.get false t.g.sEmpty (opNum f.d) = true)) ∧
    (∀ n, (sMark n ∈ u.g.discard ∨ ¬ (kindOf f.d = .s ∧ n = opNum f.d ∧ res ≠ [])) → Cells.get false t.g.sEmpty n = Cells.get false u.g.sEmpty n)

/-- What a load leaves: the causes of failed accesses are reported and the results of `w` registers are in flight. Beside the group only the cached
translations change, and no byte does. -/
structure Loaded (s u t : State) (f : Fields) (w : Nat) (causes : List Cause) (res : List (Nat × Nat × Bool)) : Prop where
  only : t = { u.setG t.g with tlb := t.tlb }
  bytes : ∀ l, t.byteAt l = u.byteAt l
  completed : Completed s t f.len
  traps : t.g.traps = u.g.traps ++ causes.map (fun c => ⟨c, u.g.pc, u.g.seq⟩)
  flies : Flies u t f w res
  rest : t.g = { u.g with traps := t.g.traps, vEmpty := t.g.vEmpty, sEmpty := t.g.sEmpty, pending := t.g.pending, pc := t.g.pc, retired := t.g.retired, wait := t.g.wait }

/-- A store is issued: its group completes, its lines wait among the pending stores, and no byte has changed yet (R211, R222). -/
structure StoreIssued (s r s1 t : State) (len : Nat) : Prop where
  bytes : ∀ l, t.byteAt l = s.byteAt l
  completed : Completed s t len
  stores : t.stores = s1.stores
  sideLog : t.sideLog = s1.sideLog
  rest : t.g = { r.g with traps := t.g.traps, ops := t.g.ops, pc := t.g.pc, retired := t.g.retired, wait := t.g.wait }

/-- The stores that ST makes, per active thread: its offset and its low bytes (R232, R237). -/
def stPuts (s : State) (f : Fields) : List Put :=
  ((memAccs s 0x1C1 f).zip (s.rows 0x1C1 f)).zipIdx.map (fun (e : (TAcc × Row) × Nat) =>
    (⟨e.1.1.off, toLE (2 ^ f.ext.sz) (if f.u && kindOf f.c == .s then s.g.uval f f.c else if f.u && kindOf f.c != .o then immOperand f 2 else e.1.2.c), none,
      s.g.dataPoison f (form 0x1C1 f) (s.rows 0x1C1 f).length e.1.2.t e.2⟩ : Put))

/-- The stores of an instruction as they are issued, in thread order: each put that reaches its object, with the places of its bytes and their virtual
addresses. A page piece whose translation faults, or which an older store of the side log keeps there, has virtual places (R212, R222, R342). -/
def issuedAt (s : State) (sp : Space) (n : Nat) (caps : Bool) : List Loc → List Put → List (Put × List (Option Nat × Loc))
  | _, [] => []
  | seen, x :: l =>
    match s.resolve sp x.off n caps true true with
    | .ok places => (x, s.virtualize seen places) :: issuedAt s sp n caps (seen ++ (s.virtualize seen places).map Prod.snd) l
    | _ => issuedAt s sp n caps seen l

/-- The bytes of those stores with their places, and their reductions: places, operation, type and operand. -/
def issuedBytes (l : List (Put × List (Option Nat × Loc))) : List (Loc × Byte) :=
  l.flatMap (fun e => if e.1.red.isSome then [] else (e.2.map Prod.snd).zip e.1.bytes)
def issuedReds (l : List (Put × List (Option Nat × Loc))) : List (List Loc × Nat × Ty × Nat) :=
  l.filterMap (fun e => e.1.red.map (fun r => (e.2.map Prod.snd, r)))

/-- The bytes, and the reductions, of some parts of stores. -/
def bytesOf (l : List Part) : List (Loc × Byte) := l.flatMap Part.bytes
def redsOf (l : List Part) : List (List Loc × Nat × Ty × Nat) := l.flatMap Part.red

/-- A byte of local memory or of a vault window. -/
def isLocal (l : Loc) : Prop := (∃ pa, l = .mem pa) ∨ ∃ w off, l = .vault w off

/-- Every byte and every reduction of some parts is local. -/
def allLocal (l : List Part) : Prop := (∀ b ∈ bytesOf l, isLocal b.1) ∧ ∀ r ∈ redsOf l, ∀ x ∈ r.1, isLocal x

/-- The last byte that some writes put at a place. -/
def lastByte (l : List (Loc × Byte)) (x : Loc) : Option Byte := (l.reverse.find? (fun b => b.1 == x)).map Prod.snd

/-- What reductions at one run of places leave, from what stood there (R244, R245). -/
def reduced (n : Nat) (l : List (List Loc × Nat × Ty × Nat)) (old : Nat) : Nat :=
  l.foldl (fun v r => match aopApply r.2.1 r.2.2.1 v r.2.2.2 0 with | some y => y % 2 ^ (8 * n) | none => v) old

/-- The parts of a store are performed: each place takes the last byte written to it, and each run of places what its reductions leave, in order; a
held granule of a window, and every other byte, keeps what it holds; tags and full bits follow (R201, R211, R222, R245, R249, R265, R333). -/
structure Performed (s t : State) (tag setFull : Bool) (parts : List Part) : Prop where
  byte : ∀ x, isLocal x → (∀ r ∈ redsOf parts, x ∉ r.1) →
    t.byteAt x = if s.dropsWrite x then s.byteAt x else (lastByte (bytesOf parts) x).getD (s.byteAt x)
  reduction : ∀ places, places.Nodup → (∀ x ∈ places, s.dropsWrite x = false) → (∀ b ∈ bytesOf parts, b.1 ∉ places) →
    (∀ r ∈ redsOf parts, r.1 = places ∨ ∀ x ∈ r.1, x ∉ places) → (∀ x ∈ places, isLocal x) →
    t.readNat places = reduced places.length ((redsOf parts).filter (fun r => r.1 == places)) (s.readNat places)
  noTag : tag = false → ∀ b ∈ bytesOf parts, ∀ pa, b.1 = .mem pa → Cells.get false t.tags (pa / 16) = false
  tag : tag = true → ∀ q pa b l, parts = [q] → q.bytes = (.mem pa, b) :: l → Cells.get false t.tags (pa / 16) = true
  otherTags : ∀ n, (∀ b ∈ bytesOf parts, ∀ pa, b.1 = .mem pa → pa / 16 ≠ n) → (∀ r ∈ redsOf parts, ∀ pa, .mem pa ∈ r.1 → pa / 16 ≠ n) →
    Cells.get false t.tags n = Cells.get false s.tags n
  full : ∀ w n, (Cells.get false (t.wgOf w).full n = true ↔ Cells.get false (s.wgOf w).full n = true ∨
    (setFull = true ∧ ∃ b ∈ bytesOf parts, ∃ off, b.1 = .vault w off ∧ off / 16 = n ∧ (s.wgOf w).held off = false))

/-- A store to CHECKED memory whose parts all pass the race filter, each on what the parts before it leave (R190, R191). -/
def passes (p : PStore) : State → List Part → Prop
  | _, [] => True
  | s, q :: l =>
    match q.shadow with
    | none => passes p (s.applyPart q p.tag p.setFull) l
    | some x => ∃ u, s.filterWrite p.gid p.ctx p.core p.entry x.1 p.pc p.seq = .apply u ∧ passes p (u.applyPart q p.tag p.setFull) l

/-- R190 to R192: the parts of a store to CHECKED memory, granule by granule: one that passes is applied; one that races is reported and not applied;
one whose filter meets an unmapped page is not applied, and the context is LOST. -/
inductive Filtering (p : PStore) : State → List Part → State → Prop where
  | over (s : State) : Filtering p s [] s
  | unchecked (s : State) (q : Part) (l : List Part) (t : State) : q.shadow = none → Filtering p (s.applyPart q p.tag p.setFull) l t → Filtering p s (q :: l) t
  | applied (s u : State) (q : Part) (l : List Part) (t : State) (key va : Nat) : q.shadow = some (key, va) →
    s.filterWrite p.gid p.ctx p.core p.entry key p.pc p.seq = .apply u → Filtering p (u.applyPart q p.tag p.setFull) l t → Filtering p s (q :: l) t
  | raced (s u v : State) (q : Part) (l : List Part) (t : State) (key va : Nat) : q.shadow = some (key, va) →
    s.filterWrite p.gid p.ctx p.core p.entry key p.pc p.seq = .race u →
    u.reportRace p.gid p.ctx p.entry key va p.pc p.seq p.core = some v → Filtering p v l t → Filtering p s (q :: l) t
  | lost (s u : State) (q : Part) (l : List Part) (t : State) (key va : Nat) : q.shadow = some (key, va) →
    s.filterWrite p.gid p.ctx p.core p.entry key p.pc p.seq = .lost u → Filtering p u l t → Filtering p s (q :: l) t

/-- What performing a store leaves of its group's counters: its REMOTE operation is over with its last line (R204). -/
def RemoteCounted (s t : State) (i : Nat) (p : PStore) : Prop :=
  (p.op = 0 ∨ (∃ q ∈ s.stores.eraseIdx i, q.gid = p.gid ∧ q.op = p.op) → (t.grp p.gid).ops = (s.grp p.gid).ops) ∧
  (∀ a b : List EngineOp, (s.grp p.gid).ops = a ++ ⟨4, p.op, false⟩ :: b → p.op ≠ 0 → (∀ o ∈ a ++ b, o.id ≠ p.op) → (∀ o ∈ a, o.cls ≠ 4) →
    (∀ o ∈ b, o.cls = 4 → o.done = false) → (∀ q ∈ s.stores.eraseIdx i, q.gid = p.gid → q.op ≠ p.op) → (t.grp p.gid).count 4 + 1 = (s.grp p.gid).count 4)

/-- Performing a store leaves the registers and the program counter of every group alone. -/
def KeepsGroups (s t : State) : Prop := ∀ j, (t.grp j).v = (s.grp j).v ∧ (t.grp j).s = (s.grp j).s ∧ (t.grp j).pc = (s.grp j).pc ∧ (t.grp j).status = (s.grp j).status

/-- The message that carries a byte to a peer's object. -/
def peerWrite (s : State) (b : Loc × Byte) : Output :=
  match b.1 with
  | .peer n off => .toPeer (s.obj n).home (.ofNat 64 n) off [b.2]
  | _ => .toPeer 0 0 0 []

/-- The reductions that RED makes, per active thread (R245). -/
def redPuts (s : State) (f : Fields) : List Put :=
  ((memAccs s 0x1C6 f).zip (s.rows 0x1C6 f)).map (fun e =>
    (⟨e.1.off, [], some (f.ext.num2.toNat % 16, f.ty, e.2.c % 2 ^ (32 * regsOf f.ty)), false⟩ : Put))

/-- The items of an ATOM: each active thread's sources, places and offset. -/
def atomItems (s : State) (f : Fields) (ls : List (Nat × Option (List Loc))) : List (Row × Option (List Loc) × Nat) :=
  ((s.rows 0x1C5 f).zip (ls.zip (memAccs s 0x1C5 f))).map (fun e => (e.1, e.2.1.2, e.2.2.off))

/-- R244, R385: the read-modify-writes of the active threads, in thread order, outside the race filter: each thread gets the old value and writes the
operation's result; a compare that fails and a live meeting object leave the bytes. -/
def rmwAll (f : Fields) (held : Bool) : State → List (Row × Option (List Loc) × Nat) → State × List (Nat × Nat × Bool)
  | s, [] => (s, [])
  | s, (row, none, _) :: l => ((rmwAll f held s l).1, (row.t, 0, false) :: (rmwAll f held s l).2)
  | s, (row, some p, _) :: l =>
    let x := s.g.aopOperand f (f.ext.num2.toNat % 16) (4 * regsOf f.ty) row
    let u := match (if held then none else aopApply (f.ext.num2.toNat % 16) f.ty (s.readNat p) x.1 x.2) with
      | some v => s.writeAll (p.zip (toLE (4 * regsOf f.ty) v))
      | none => s
    ((rmwAll f held u l).1, (row.t, s.readNat p, p.any s.poisonAt) :: (rmwAll f held u l).2)

/-- What an ATOM's read-modify-writes come to: the state and each thread's old value and mark. In a context that keeps a replay log, those on a peer's
object or through an NDATOM capability take their old values from it (R402 to R404). -/
def AtomRuns (r : State) (f : Fields) (sp : Space) (nd checked : Bool) (items : List (Row × Option (List Loc) × Nat)) (u : State)
    (vals : List (Nat × Nat × Bool)) : Prop :=
  let w := 4 * regsOf f.ty
  if (r.isPeer sp || nd) && r.logging r.g.ctx then
    ∃ dry a b x, r.atoms f w sp checked none items = some dry ∧
      (if r.isPeer sp then r.logged 2 w dry.2 = some a else a = (r, dry.2)) ∧ (if nd then a.1.logged 4 w a.2 = some b else b = a) ∧
      b.1.atoms f w sp checked (some (b.2.map (fun v => v.2.1))) items = some (u, x) ∧ vals = b.2
  else r.atoms f w sp checked none items = some (u, vals)

/-! ### Register fragments -/

/-- What an element of a fragment that LDFRAG reads is: its place in the register run from the value read, or the padding value outside the entry's
extents. -/
def fragElem (l : Layout) (q : Frag) (x a b : Nat) (vals : List (Nat × Nat × Bool)) (th p : Nat) : Nat × Bool :=
  if l.inside (fragCoord x q a b th p) then
    let v := (vals.find? (fun v => v.1 == 32 * p + th)).getD (0, 0, false)
    (if q.upper l ((fragCoord x q a b th p).headD 0 % 2 == 1) then v.2.1 / 16 else v.2.1, v.2.2)
  else (l.pad, false)

/-- Register `j` of a fragment's run in a thread: its elements, the first lowest. -/
def fragReg (q : Frag) (elem : Nat → Nat → Nat × Bool) (th j : Nat) : Nat × Bool :=
  let m := Nat.min q.per (32 / q.w)
  (((List.range m).map (fun h => (elem th (j * m + h)).1 % 2 ^ q.w * 2 ^ (q.w * h))).sum, (List.range m).any (fun h => (elem th (j * m + h)).2))

/-- A fragment multiplication: element (i, n) of the result from the runs of A and B and element (i, n) of C. -/
def Multiplies (c : Fields → Instr) (op shape : Nat) (slots : State → Fields → Chk) (xv xs : State → Fields → List Nat)
    (elem : State → Fields → List Nat → List Nat → Nat → Nat → Nat → Nat) : Prop :=
  ∀ f s, Ready op f s → s.g.fragPre (form op f) f (slots s f) (xv s f) (xs s f) = .ok →
    ∃ t, exec (c f) s = .next t ∧ Deferring s (s.reads op f) t f 8 (threads.map (fun th => (th,
      (fragAcc shape).run (fun i n => elem s f ((s.rows op f).map Row.a) ((s.rows op f).map Row.b) i n
        ((fragAcc shape).get ((s.rows op f).map Row.c) i n)) th, false))) false false false

/-- R63, R144: the chunk sum of the products of a row of A and a row of B, added to an element of C with one rounding. -/
def dotElem (shape : Nat) (fa fb : Fmt) (a b : List Nat) (i n c : Nat) : Nat :=
  chunkAdd c ((List.range (fragA shape).cols).map (fun k => (fa.decode ((fragA shape).get a i k)).mul (fb.decode ((fragB shape).get b n k))))

def noSlots (_ : State) (_ : Fields) : Chk := .ok
def noRegs (_ : State) (_ : Fields) : List Nat := []
def isTensor (s : State) (f : Fields) : Bool := slotSkind (s.slot f.ext.fslot) == 3 || slotSkind (s.slot f.ext.fslotb) == 3

/-! ### The tile engine -/

/-- An instruction that appends a command of a kind to its workgroup's ring: it completes, the image stands in the next slot with its kind and SEQ,
WIDX moves on, one operation is counted, and no byte outside the ring changes (R264, R266, R267). -/
def Appends (c : Fields → Instr) (op kind : Nat) (ok : State → Nat → Ring → BitVec 512 → Prop) : Prop :=
  ∀ f s w r, Ready op f s → s.g.wg = some w → (s.wgOf w).ring = some r → ok (s.reads op f) w r (s.g.image f.a) →
    (s.wgOf w).backlog r < r.n → s.g.count 1 < 255 → s.quiet = true →
    ∃ t o, exec (c f) s = .next t ∧ Completed s t f.len ∧ (t.wgOf w).ring = some { r with owners := r.owners ++ [o] } ∧
      o.gid = s.cur ∧ o.index = (s.wgOf w).widx r ∧ o.pc = s.g.pc ∧ o.seq = s.g.seq + 1 ∧
      (t.wgOf w).widx r = ((s.wgOf w).widx r + 1) % 2 ^ 32 ∧
      BitVec.ofNat 512 ((t.wgOf w).peek (r.base + 256 + 64 * ((s.wgOf w).widx r % r.n)) 64) =
        .ofNat 512 ((s.g.image f.a).toNat + kind + 2 ^ 32 * (s.g.seq + 1).toNat) ∧
      t.g.count 1 = s.g.count 1 + 1 ∧ t.g.seq = s.g.seq + 1 ∧
      (∀ pa, t.byteAt (.mem pa) = s.byteAt (.mem pa)) ∧
      (∀ v off, (v ≠ w ∨ off < r.base ∨ r.base + 256 + 64 * r.n ≤ off) → t.byteAt (.vault v off) = s.byteAt (.vault v off))

/-- An engine step acts on the ring of a live workgroup that stands on its core, where the core's engine serves that ring (R276). -/
structure Served (s : State) (w : Nat) (r : Ring) : Prop where
  ring : (s.wgOf w).ring = some r
  live : (s.wgOf w).live = true
  placed : s.parked w = false
  served : (s.core (s.wgOf w).core).served = r.number

/-! ### Conversion -/

/-- A conversion whose slot passes its checks completes with these results, at once or in flight; a result that overflows under OVF 11 traps
CONVOVF instead; with no active thread it only completes. -/
def Converts (c : Fields → Instr) (op : Nat) (pre : State → Fields → Chk) (now : Fields → Bool)
    (fn : State → Group → Fields → List Row → Row → Option Nat) : Prop :=
  (∀ f s, s.g.status = .running → s.g.issue op f (form op f) false = .ok → s.g.active f = [] → pre s f = .ok →
    ∃ t, exec (c f) s = .next t ∧ Passed s (s.reads op f) t f.len) ∧
  ∀ f s, Ready op f s → pre s f = .ok →
    let res := (s.rows op f).map (fun r => (r.t, fn s (s.reads op f).g f (s.rows op f) r))
    (allSome res = none → exec (c f) s = .next (s.trap .convovf f.len)) ∧
    (∀ vals, allSome res = some vals → ∃ t, exec (c f) s = .next t ∧
      (now f = true → Wrote s (s.reads op f) t f (form op f).d.width vals) ∧
      (now f = false → Deferring s (s.reads op f) t f (form op f).d.width (vals.map (fun e => (e.1, e.2, false))) false false false))

/-- Opcodes whose slot, layout entry or convergence is checked before the guard (R50, R77, R139). -/
def checkedFirst : List Nat :=
  [0x0A0, 0x0A1, 0x0A2, 0x0A3, 0x0A4, 0x180, 0x181, 0x182, 0x183, 0x184, 0x185, 0x188, 0x189, 0x18A, 0x1A3, 0x1A4, 0x1C2, 0x1C3]

/-- The bits of one value of a QPACK: the scale in the second byte, the element below it; none where it overflows under OVF 11 (R108, R109). -/
def qpackValue (s : State) (g : Group) (f : Fields) (rows : List Row) (r : Row) : Option Nat :=
  let sw := s.slot f.ext.fslot
  let sc := g.scaleOf f sw rows r
  let dv := if slotSkind sw = 3 then (scaleValue 3 sc.1).mul (g.input fp32 r.b) else scaleValue (slotSkind sw) sc.1
  if sc.2 = true ∧ f.ext.ovf = 3 then none
  else
    match dv, g.valueOf f.ty r.a with
    | .fin _ dm de, .fin xs xm xe =>
      if dm = 0 then some (sc.1 * 256)
      else (convertMag (targetOf (slotFmt sw)) (g.rounding f.rnd) (g.draws (g.rounding f.rnd) r.t 0) f.ext.ovf.toNat xs ⟨xm, dm, xe - de⟩).map
        (fun v => v + sc.1 * 256)
    | _, _ => some (sc.1 * 256)

/-! ### Traps -/

/-- The trapping group is saved at its instruction, in a slot of its own, with its results written and the address where CTXOP `.trapres` may
continue it. -/
structure SavedByTrap (s t : State) (slot : Nat) (cont : Word) : Prop where
  status : t.g.status = .saved slot .handle
  slot : t.g.slot = some slot
  pc : t.g.pc = s.g.pc
  contPc : t.g.contPc = cont
  retired : t.g.retired = s.g.retired
  pending : t.g.pending = []

/-- The crumb of a trap stands in the recorder of the group's core. -/
def trapCrumbed (s : State) (c : Cause) : State :=
  { s.crumb s.g.core s.g.ctx 0x01 (gBody s.g.pc s.g.seq (c.code + 256 * (s.launch s.g.lid).lrec.disposition c)) with trapped := true }

/-! ### Tasks and reducers -/

/-- The view that a reducer, or the log, has in a strand after an update is not in the overflow object, or no page of it there faults (R184, R308). -/
def ViewMapped (r : State) (n : Nat) (ordered : Bool) (v : View) : Prop :=
  (r.growView (r.viewKey n ordered) r.g.core v.size).viewFault (r.viewKey n ordered).same = none

/-- Effect of RACC or RAPP: the instruction completes, the group keeps everything else, the reducer's view is this one and has its space, and no other
view of the strand changes. -/
structure Viewed (s r t : State) (f : Fields) (n : Nat) (v : View) : Prop where
  spaces : t.viewSpaces = (r.growView (r.viewKey n (redKind (s.reducer n) == 2)) r.g.core v.size).viewSpaces
  completed : Completed s t f.len
  bytes : ∀ l, t.byteAt l = s.byteAt l
  view : Cells.get View.missing (t.viewsOf (redKind (s.reducer n) == 2)) n = v
  others : ∀ k, k ≠ n → Cells.get View.missing (t.viewsOf (redKind (s.reducer n) == 2)) k = Cells.get View.missing (s.viewsOf (redKind (s.reducer n) == 2)) k
  rest : t.g = { r.g with pc := t.g.pc, retired := t.g.retired, wait := t.g.wait }

/-- The strand whose views a reducer updates is there: a block with an open strand first, and last. -/
def hasStrand (s : State) : Prop :=
  (∃ n v l, (s.block s.g.block).items = .strand n v :: l) ∧ ∃ n v l, (s.block s.g.block).items.reverse = .strand n v :: l

/-- R371: place `i` of a reduction's contributions after so many steps. -/
def treeNode (fn : Nat → Nat → Nat) (l : List Nat) : Nat → Nat → Option Nat
  | 0, i => l[i]?
  | k + 1, i =>
    match treeNode fn l k i, treeNode fn l k (i + 2 ^ k) with
    | some a, some b => some (fn a b)
    | a, _ => a

/-- R371: a reduced element from the contributions in rank order: subnormal ones are +0, and a NaN result is canonical. -/
def reducedElem (ety rop : Nat) (l : List Nat) : Nat :=
  match etyFmt ety with
  | some f =>
    let flush (x : Nat) : Nat := match f.decode x with | .fin _ m _ => if m ≠ 0 ∧ m < 2 ^ f.mb then 0 else x | _ => x
    let r := (treeNode (collCombine ety rop) (l.map flush) l.length 0).getD 0
    if (f.decode r).isNan then f.cnan else r
  | none => (treeNode (collCombine ety rop) l l.length 0).getD 0

/-- The instance that a COLL or AMERGE joins or opens has this member last. -/
structure Joined (s t : State) (j : Nat) (found : Option Nat) (m : CollMember) (comm : DWord) (nmem : Nat) : Prop where
  joined : ∀ k, found = some k → j = k ∧ (t.coll j).members = (s.coll j).members ++ [m]
  opened : found = none → (t.coll j).members = [m] ∧ (t.coll j).live = true ∧ (t.coll j).comm = comm ∧ (t.coll j).tag = cdTag m.image ∧
    (t.coll j).nmem = nmem ∧ (t.coll j).status = none

/-- A request to a meeting waits at the unit's end of the queue: its group has completed the instruction, and the status register is empty until the
answer. -/
structure Asks (s r t : State) (f : Fields) (m : MeetWait) : Prop where
  only : t = { s.setG t.g with meetQ := s.meetQ ++ [m] }
  bytes : ∀ l, t.byteAt l = s.byteAt l
  completed : Completed s t f.len
  empty : ∀ n, Cells.get false t.g.sEmpty n = (if m.dst < 48 ∧ n = m.dst then true else Cells.get false s.g.sEmpty n)
  rest : t.g = { r.g with sEmpty := t.g.sEmpty, pc := t.g.pc, retired := t.g.retired, wait := t.g.wait }

/-- The request of an instruction of the current group: operation, rank, tag and data, and the window of a record. -/
def askOf (s : State) (f : Fields) (op rank tag : Nat) (data : List Word) (window : Cap) (ofs len : Nat) : MeetWait :=
  { req := ⟨(s.g.kreg f.ext.num1.toNat).name, op, rank, tag, data, s.devnum⟩, cap := s.g.kreg f.ext.num1.toNat, gid := s.cur, dst := if kindOf f.d = .s then opNum f.d else 48, pc := s.g.pc, seq := s.g.seq, copyTo := window, copyOfs := ofs, copyLen := len, packet := none, ctx := s.g.ctx, ret := s.g.retired.toNat, held := false, paused := none, skip := false }

/-- A request in the queue that the unit of this device can act on now (R391, R395). -/
structure Askable (s : State) (i : Nat) (m : MeetWait) : Prop where
  place : s.meetQ[i]? = some m
  notPaused : m.paused = none
  first : m.held = true ∨ (s.meetQ.take i).any (fun x => x.gid == m.gid && !x.held) = false
  allowed : s.portCheck m.ctx m.cap 0 0 false = none
  reachable : s.reachable (s.obj (objKey m.ctx m.req.obj)).home = true
  here : (s.obj (objKey m.ctx m.req.obj)).home = s.devnum
  mapped : s.mtFault (objKey m.ctx m.req.obj) m.req none = none
  plain : s.logging m.ctx = false
  group : (s.grp m.gid).status ≠ .none
  kept : m.skip = false
  steady : s.onHold (s.obj (objKey m.ctx m.req.obj)).home = false

/-- A request has its answer: it has left the queue and its status register holds the word. -/
def Answered (t : State) (m : MeetWait) (w : DWord) : Prop :=
  m ∉ t.meetQ ∧ (m.dst < 48 → (t.grp m.gid).sreg m.dst = w ∧ Cells.get false (t.grp m.gid).sEmpty m.dst = false)

/-! ### Packets -/

/-- The next packet of a queue, of a type, that passes R322 and may start; `s1` is the state with it read and started (R320 to R322). -/
structure Starts (s s1 : State) (ctx q type : Nat) (p : Packet) (d : Queue) : Prop where
  next : ∃ u, s.nextPacket ctx q = some (p, u) ∧ u.canStart p = true ∧ s1 = u.packetStart p
  queue : s.queue ctx q = some d
  type : pktType p.image = type
  ok : pktOk p.image d = true

/-- A MEET packet that starts, with its operation and a checked meeting object. -/
structure Meets (s s1 : State) (ctx q opc : Nat) (p : Packet) (d : Queue) (key : Nat) : Prop where
  starts : Starts s s1 ctx q 6 p d
  operation : mpOpc p.image = opc
  known : opc < 4
  object : ∃ c, s1.queueCap d (imgBytes p.image 10 2) = some c ∧ s1.mpKey ctx c = some key
  steady : s1.onHold (s1.obj key).home = false

/-! ### Contexts -/

/-- A CTXOP of a system context with legal fields, on context `n` in state `st` (R354). -/
structure CtxCall (f : Fields) (s : State) (n slot : Nat) (st : CtxState) : Prop where
  ready : Ready 0x1F9 f s
  fresh : s.g.ctxWait = none
  sys : (s.ctx s.g.ctx).sys = true
  fields : s.g.uval f f.a = n + 2 ^ 16 * slot
  ctx : n < 64
  slot : slot < 2 ^ 32
  state : (s.ctx n).state = st

/-- The instruction has completed with a status code in its destination. -/
def Coded (s t : State) (f : Fields) (code : DWord) : Prop :=
  Completed s t f.len ∧ (kindOf f.d = .s → t.g.sreg (opNum f.d) = code) ∧ (∀ n, ¬ (kindOf f.d = .s ∧ n = opNum f.d) → t.g.sreg n = s.g.sreg n)

/-- The states in which each CTXOP acts (R355). -/
def ctxopTable : List ((Fields → Instr) × List CtxState) :=
  [(.ctxopPreempt, [.running]), (.ctxopResume, [.saved]), (.ctxopKill, [.running, .saving, .saved]), (.ctxopMapdone, [.running, .saved]),
   (.ctxopTlbinv, [.running, .saving, .saved, .killed, .lost]), (.ctxopTrapres, [.running, .saved])]

/-! ### The Harbourmaster and the report protocol -/

/-- The Harbourmaster and the pilot have booted: requests of system software are served (R447, R450). -/
def Up (s : State) : Prop := s.trust.hmUp = true ∧ s.trust.pilotUp = true

/-- A report request of an operation, with a payload of its length, that the device acts on (R453). -/
def Heard (s : State) (h : ReportHdr) (op len : Nat) : Prop :=
  s.trust.powered = true ∧ Up s ∧ h.version = 1 ∧ h.op.toNat = op ∧ h.len.toNat = len ∧ (h.devid = 0 ∨ h.devid = Config.devid)

/-! ### Fetching and the step -/

/-- The fetch checks of R67 pass at the current group's next instruction, and its bytes, of the length its LEN field says, are these. -/
structure CodeAt (t : State) (bs : List Byte) : Prop where
  aligned : t.g.pc.toNat % 4 = 0
  inside : ∃ first : List (Option Nat × Loc),
    t.resolve (.obj (t.g.kreg 0)) ((t.g.kreg 0).start + (t.g.pc.toNat + 2 ^ 32 * t.g.pcHigh.toNat)) 4 false false false = .ok first ∧
    first.all (fun x => !t.poisonAt x.2) = true ∧ bs.length = lenOfCode (t.readNat (first.map Prod.snd) % 4)
  block : ((t.g.kreg 0).start + (t.g.pc.toNat + 2 ^ 32 * t.g.pcHigh.toNat)) % 32 + bs.length ≤ 32
  window : (t.g.pc.toNat + 2 ^ 32 * t.g.pcHigh.toNat) + bs.length ≤ (t.g.kreg 0).length
  bytes : ∃ all : List (Option Nat × Loc),
    t.resolve (.obj (t.g.kreg 0)) ((t.g.kreg 0).start + (t.g.pc.toNat + 2 ^ 32 * t.g.pcHigh.toNat)) bs.length false false false = .ok all ∧
    all.all (fun x => !t.poisonAt x.2) = true ∧ bs = all.map (fun x => t.byteAt x.2)

/-- Lengths in bytes that a class permits (R78). -/
def permitted : LenClass → List Nat
  | .a => [8, 12] | .b => [8] | .c => [12] | .d => [16] | .e => [12, 16] | .f => [8, 12, 16]

/-- The opcodes that rows of R79 assign, by runs. -/
def assignedRuns : List (Nat × Nat) :=
  [(0x001, 0x00B), (0x010, 0x01C), (0x020, 0x023), (0x080, 0x088), (0x090, 0x096), (0x0A0, 0x0A4), (0x100, 0x103), (0x110, 0x115),
   (0x120, 0x122), (0x130, 0x132), (0x140, 0x14A), (0x160, 0x163), (0x180, 0x185), (0x188, 0x18A), (0x1A0, 0x1A7), (0x1C0, 0x1D8),
   (0x1E0, 0x1EC), (0x1F0, 0x1F9)]

/-- Fields with the values that R71 gives unused ones, no guard, and these operands and tail. -/
def wordOf (u : Bool) (d a b c : BitVec 8) (tail : Tail) : Fields :=
  { gneg := false, gnum := 7, u := u, d := d, a := a, b := b, c := c, rnd := .dyn, ty := .i32, hold := 0, he := 0, fex := 0, mod := 0, tail := tail }

end Sys2Proof.Claims

section

open Sys2Proof Sys2Proof.Machine Sys2Proof.Claims

/-! ### Arithmetic -/

/-- R15, R16, R95 to R99: each integer, logic, shift, bit and move instruction that is ready completes, with its result in every active
thread and nothing else changed. That SEL, MOV and MOVI write zeros above a 16-bit value, and that a 64-bit o operand of a uniform form pops two
elements, here and in the statements below, are the model's readings (log 44, 62). -/
def Obligations.IntegerInstructionsComplete : Prop := ∀ e ∈ integerTable, Chains e.1 e.2.1 e.2.2

/-- R96, R97: ADD and SUB complete; without `.cc` the result wraps or saturates; with it each thread adds or subtracts its carry predicate and
writes the carry out of it back. DIVN and REMN complete with the quotient or the remainder in flight; MODE.DZ is to be set where an active
thread's divisor is zero.
A deferred result is computed when its instruction issues, which is the model's choice (log 11). -/
def Obligations.AddSubDivRemComplete : Prop :=
  AddsOrSubs .add 0x001 false ∧ AddsOrSubs .sub 0x002 true ∧ Divides .divn 0x006 Prod.fst ∧ Divides .remn 0x007 Prod.snd

/-- R100 to R105: the floating-point instructions complete with one rounding of the exact result; the transcendental ones complete with their
results in flight. The candidate results of the latter are free values (log 8). -/
def Obligations.FloatInstructionsComplete : Prop :=
  (∀ e ∈ floatTable, Chains e.1 e.2.1 e.2.2) ∧ (∀ e ∈ transcendentalTable, Defers e.1 e.2.1 e.2.2)

/-! ### Predicates, lanes, index registers and allotment -/

/-- R99, R101, R111, R112: comparisons and predicate instructions complete, with one predicate per active thread; p7 and g7 take nothing.
R113: PMOV reads all predicates into a register, or sets p0 to p6 from one. -/
def Obligations.PredicateInstructionsComplete : Prop :=
  (∀ e ∈ predicateTable, Judges e.1 e.2.1 e.2.2) ∧
  (∀ f s, Ready 0x102 f s → ∃ t, exec (.pmov f) s = .next t ∧
    (f.mod = 0 → Wrote s (s.reads 0x102 f) t f (form 0x102 f).d.width ((s.rows 0x102 f).map (fun r =>
      (r.t, ((List.range 8).map (fun n => (if f.u then s.g.gpred n else s.g.pred n r.t).toNat * 2 ^ n)).sum)))) ∧
    (f.mod ≠ 0 → OnlyGroup s t ∧ Completed s t f.len ∧
      (∀ r ∈ s.rows 0x102 f, ∀ n < 7, if f.u then t.g.gpred n = bit r.a n else t.g.pred n r.t = bit r.a n) ∧
      (∀ n th, th < 32 → f.u = true ∨ th ∉ s.g.active f → t.g.pred n th = s.g.pred n th) ∧
      (f.u = false → t.g.g = s.g.g) ∧
      t.g = { (s.reads 0x102 f).g with p := t.g.p, g := t.g.g, miscPoison := t.g.miscPoison, pc := t.g.pc, retired := t.g.retired, wait := t.g.wait }))

/-- R114: VOTE sets a g register from the predicates of the active threads, or sends the mask of those that hold.
R115 to R119, R121: the lane instructions complete with their results in flight; an inactive thread offers no value.
R120: the first active thread's result of an inclusive SCAN is its own value, and each later one is the combination of the result before
it with its own value; an exclusive SCAN gives each thread the inclusive result before it, the identity first.
When a deferred result is computed, and when VOTE writes a g register, are the model's choices (log 11, 15). -/
def Obligations.VotesAndLanesComplete : Prop :=
  (∀ f s, Ready 0x103 f s → ∃ t, exec (.vote f) s = .next t ∧
    (f.mod ≠ 2 → OnlyGroup s t ∧ Completed s t f.len ∧
      (f.d.toNat % 8 ≠ 7 → (t.g.gpred (f.d.toNat % 8) = true ↔
        if f.mod = 0 then ∀ th ∈ s.g.active f, s.g.predField false f.a th = true
        else ∃ th ∈ s.g.active f, s.g.predField false f.a th = true)) ∧
      (∀ n < 8, n ≠ f.d.toNat % 8 → t.g.gpred n = s.g.gpred n) ∧
      t.g = { (s.reads 0x103 f).g with g := t.g.g, miscPoison := t.g.miscPoison, pc := t.g.pc, retired := t.g.retired, wait := t.g.wait }) ∧
    (f.mod = 2 → Deferring s (s.reads 0x103 f) t f (form 0x103 f).d.width
      [(0, threadMask ((s.rows 0x103 f).filter (fun r => s.g.predField false f.a r.t)), false)] false false false)) ∧
  (∀ e ∈ laneTable, Crosses e.1 e.2.1 e.2.2) ∧
  (∀ f s, Ready 0x114 f s → ∃ (t : State) (res : List Nat), exec (.scan f) s = .next t ∧
    Deferring s (s.reads 0x114 f) t f (form 0x114 f).d.width (((s.rows 0x114 f).map Row.t).zip (res.map (fun v => (v, false)))) false false false ∧
    res.length = (s.rows 0x114 f).length ∧
    ∃ incl : List Nat, incl.length = res.length ∧
      (∀ (i : Nat) (r : Row), (s.rows 0x114 f)[i]? = some r →
        incl[i]? = some (match i with | 0 => r.a | j + 1 => (s.reads 0x114 f).g.combine f r.t (incl.getD j 0) r.a)) ∧
      (∀ i < res.length, res[i]? = some (if f.mod = 1 then (match i with | 0 => identityOf f | j + 1 => incl.getD j 0) else incl.getD i 0)))

/-- R122, R123: LDX sets the index of the active threads, STX reads it, XSET sets a base and a bound. -/
def Obligations.IndexInstructionsComplete : Prop :=
  (∀ f s, Ready 0x120 f s → ∃ t, exec (.ldx f) s = .next t ∧ OnlyGroup s t ∧ Completed s t f.len ∧
    (∀ r ∈ s.rows 0x120 f, t.g.index (f.d.toNat % 8) r.t = r.a % 256) ∧
    (∀ n th, th < 32 → ¬ (n = f.d.toNat % 8 ∧ th ∈ s.g.active f) → t.g.index n th = s.g.index n th) ∧
    t.g = { (s.reads 0x120 f).g with x := t.g.x, miscPoison := t.g.miscPoison, pc := t.g.pc, retired := t.g.retired, wait := t.g.wait }) ∧
  (∀ f s, Ready 0x121 f s → Cells.get false s.g.miscPoison (miscKey 2 (f.a.toNat % 8)) = false →
    ∃ t, exec (.stx f) s = .next t ∧
      Wrote s (s.reads 0x121 f) t f (form 0x121 f).d.width ((s.rows 0x121 f).map (fun r => (r.t, s.g.index (f.a.toNat % 8) r.t)))) ∧
  (∀ f s, Ready 0x122 f s → s.g.uval f f.a ≤ 175 → s.g.uval f f.a + s.g.uval f f.b ≤ 176 →
    ∃ t, exec (.xset f) s = .next t ∧ OnlyGroup s t ∧ Completed s t f.len ∧
      (∀ n, Cells.get 0 t.g.xbase n = if n = f.d.toNat % 8 then s.g.uval f f.a else Cells.get 0 s.g.xbase n) ∧
      (∀ n, Cells.get 0 t.g.xbound n = if n = f.d.toNat % 8 then s.g.uval f f.b else Cells.get 0 s.g.xbound n) ∧
      t.g = { (s.reads 0x122 f).g with xbase := t.g.xbase, xbound := t.g.xbound, miscPoison := t.g.miscPoison, pc := t.g.pc, retired := t.g.retired, wait := t.g.wait })

/-- R28 to R30, R124: GROW to `n` grants the registers where no older request of the lane pair waits and enough are free; SHRINK drops the
registers from `n` on, which then read as zero and full; neither changes anything where it asks for no change; ALLOTQ reads the allotment, the
free registers and the uniform count. -/
def Obligations.AllotmentInstructionsComplete : Prop :=
  (∀ f s, Ready 0x130 f s → allotOk (s.g.uval f f.a) = true → s.g.growReq = none →
    ((s.reads 0x130 f).pairGroups s.g.core s.g.berth).all (fun e => e.1 == s.cur || e.2.growReq.isNone) = true →
    s.g.uval f f.a ≤ s.g.allot ∨ s.g.uval f f.a - s.g.allot ≤ (s.reads 0x130 f).freeRegs s.g.core s.g.berth →
    ∃ t, exec (.grow f) s = .next t ∧ Completed s t f.len ∧ (∀ l, t.byteAt l = s.byteAt l) ∧
      t.g.allot = max s.g.allot (s.g.uval f f.a) ∧ (∀ i, i ≠ s.cur → t.grp i = s.grp i) ∧
      t.g = { (s.reads 0x130 f).g with allot := t.g.allot, growReq := none, pc := t.g.pc, retired := t.g.retired, wait := t.g.wait }) ∧
  (∀ f s, Ready 0x131 f s → allotOk (s.g.uval f f.a) = true →
    (s.g.pending.all (fun d => d.quads.all (fun q => q / 8 < s.g.uval f f.a))) = true →
    ∃ t, exec (.shrink f) s = .next t ∧ OnlyGroup s t ∧ Completed s t f.len ∧
      t.g.allot = min s.g.allot (s.g.uval f f.a) ∧
      (∀ n th, th < 32 → s.g.allot ≤ s.g.uval f f.a ∨ n < s.g.uval f f.a → t.g.vreg n th = s.g.vreg n th) ∧
      (∀ n th, th < 32 → s.g.uval f f.a < s.g.allot → s.g.uval f f.a ≤ n →
        t.g.vreg n th = 0 ∧ Cells.get false t.g.vEmpty (8 * n + th / 4) = false ∧ Cells.get false t.g.vPoison (32 * n + th) = false) ∧
      t.g = { s.g with v := t.g.v, vEmpty := t.g.vEmpty, vPoison := t.g.vPoison, latch := t.g.latch, oq := t.g.oq, allot := t.g.allot, pc := t.g.pc, retired := t.g.retired, wait := t.g.wait }) ∧
  (∀ f s, Ready 0x132 f s → ∃ t, exec (.allotq f) s = .next t ∧
    Wrote s (s.reads 0x132 f) t f (form 0x132 f).d.width
      ((s.rows 0x132 f).map (fun r => (r.t, s.g.allot + 256 * (s.freeRegs s.g.core s.g.berth / 2) + 2 ^ 16 * s.g.ucount))))

/-! ### Control flow, mode and system registers -/

/-- R126, R127, R131: a uniform branch, or one that every active thread takes, jumps; one that no thread takes falls through; a divergent one pushes
the threads that go on, under a merge entry where the join is new, and the taken threads jump; CALL writes the return address; BRX and RET jump to
an s register. The high half of a BRX or RET target is kept, by the model's reading (log 22). -/
def Obligations.BranchesComplete : Prop :=
  (∀ f s, s.g.status = .running → s.g.issue 0x140 f (form 0x140 f) false = .ok → s.g.active f = [] →
    ∃ t, exec (.bra f) s = .next t ∧ Jumped s (s.reads 0x140 f) t (s.g.pc + .ofNat 32 f.len) ∧ t.g.cur = s.g.cur ∧ t.g.live = s.g.live ∧
      t.g.stack = s.g.stack) ∧
  (∀ f s, Ready 0x140 f s →
    let taken : Word := .ofNat 32 (threadMask (s.rows 0x140 f))
    let target := s.g.pc + ofs24 f
    let jofs := f.c.toNat * 256 + f.b.toNat
    let j : Option Word := if jofs = 0 then none else some (s.g.pc + .ofInt 32 (4 * toSigned 16 jofs))
    (f.u = true ∨ s.g.cur &&& ~~~taken = 0 → ∃ t, exec (.bra f) s = .next t ∧ Jumped s (s.reads 0x140 f) t target ∧
      t.g.cur = s.g.cur ∧ t.g.live = s.g.live ∧ t.g.stack = s.g.stack) ∧
    (f.u = false → s.g.cur &&& ~~~taken ≠ 0 → s.g.spilled = 0 → s.g.stack.length + 2 ≤ hwEntries →
      ∃ t, exec (.bra f) s = .next t ∧ Jumped s (s.reads 0x140 f) t target ∧ t.g.cur = taken ∧ t.g.live = s.g.live ∧
        t.g.stack = (if some (s.g.pc + 12) ≠ j then [⟨false, s.g.cur &&& ~~~taken, j, s.g.pc + 12⟩] else []) ++
          (if j.isSome ∧ (s.g.stack.head?).bind RsEntry.join ≠ j then [⟨true, s.g.cur, j, 0⟩] else []) ++ s.g.stack)) ∧
  (∀ f s, Ready 0x141 f s → ∃ t, exec (.call f) s = .next t ∧ t.g.pc = s.g.pc + ofs24 f ∧ t.g.retired = s.g.retired + 1 ∧ t.g.wait = .none ∧
    (kindOf f.d = .s → t.g.sreg (opNum f.d) = .ofNat 64 (s.g.pc + 12).toNat) ∧
    (∀ n, ¬ (kindOf f.d = .s ∧ n = opNum f.d) → t.g.sreg n = s.g.sreg n) ∧ (∀ l, t.byteAt l = s.byteAt l) ∧
    (t.core s.g.core).recorder = (s.core s.g.core).recorder.add (s.core s.g.core).cycle s.g.ctx 0x02 (gBody s.g.pc s.g.seq 0)) ∧
  (∀ (ret : Bool) (f : Fields) (s : State), Ready (if ret then 0x144 else 0x142) f s →
    ∃ t, exec (if ret then .ret f else .brx f) s = .next t ∧ t.g.pc = (s.g.sreg (opNum f.a)).setWidth 32 ∧
      t.g.pcHigh = (s.g.sreg (opNum f.a)).extractLsb' 32 32 ∧ t.g.retired = s.g.retired + 1 ∧ t.g.wait = .none ∧
      (∀ n, t.g.sreg n = s.g.sreg n) ∧ (∀ l, t.byteAt l = s.byteAt l) ∧
      (t.core s.g.core).recorder = (s.core s.g.core).recorder.add (s.core s.g.core).cycle s.g.ctx 0x02 (gBody s.g.pc s.g.seq (if ret then 2 else 1)))

/-- R128, R130: a JOIN pops the entries that name it, in order, those in k2's window first.
R129, R168, R297: the threads of an EXIT leave; the others go on, or the stack's entries do; a group whose last thread leaves ends: it is gone, with
one group fewer in its launch. A task with children, or with writes outstanding, stays in the end of its last strand until its implicit SYNC. -/
def Obligations.JoinsAndExitsComplete : Prop :=
  (∀ f s (all : List RsEntry), Ready 0x143 f s → WholeStack (s.reads 0x143 f) all (joinSeen s.g.pc s.g.live all) (some s.g.pc) →
    ∃ t, exec (.join f) s = .next t ∧ Popped s (s.reads 0x143 f) t (joinTo s.g.pc s.g.live s.g.cur all).2.2 (joinTo s.g.pc s.g.live s.g.cur all).1
      s.g.live (joinTo s.g.pc s.g.live s.g.cur all).2.1) ∧
  (∀ f s, Ready 0x145 f s →
    let gone : Word := .ofNat 32 (threadMask (s.rows 0x145 f))
    let live := s.g.live &&& ~~~gone
    (f.u = false → s.g.cur &&& ~~~gone ≠ 0 → ∃ t, exec (.exit f) s = .next t ∧ Jumped s (s.reads 0x145 f) t (s.g.pc + .ofNat 32 f.len) ∧
      t.g.live = live ∧ t.g.cur = s.g.cur &&& ~~~gone ∧ t.g.stack = s.g.stack) ∧
    (f.u = false → s.g.cur &&& ~~~gone = 0 → ∀ all, WholeStack (s.reads 0x145 f) all (exitSeen live all) none →
      ∀ cur l next, exitTo live all = some (cur, l, next) → ∃ t, exec (.exit f) s = .next t ∧ Popped s (s.reads 0x145 f) t next cur live l) ∧
    (f.u = true ∨ (s.g.cur &&& ~~~gone = 0 ∧ ∃ all, WholeStack (s.reads 0x145 f) all (exitSeen live all) none ∧ exitTo live all = none) →
      (s.g.pedDepth = 0 ∨ (s.block s.g.block).live = false ∨ ((s.block s.g.block).noChild = true ∧ s.quiet = true) →
        ∃ t, exec (.exit f) s = .next t ∧ Ended s t) ∧
      (s.g.pedDepth ≠ 0 → (s.block s.g.block).live = true → ¬ ((s.block s.g.block).noChild = true ∧ s.quiet = true) →
        ∃ t, exec (.exit f) s = .next t ∧ t.g.status = .ending ∧ t.g.wait = .sync ∧ t.g.live = 0 ∧ t.g.cur = 0 ∧ t.g.retired = s.g.retired + 1 ∧
          (t.block s.g.block).closing = true ∧ (t.block s.g.block).ending = true ∧ (∀ i, i ≠ s.cur → t.grp i = s.grp i) ∧ ∀ l, t.byteAt l = s.byteAt l)))

/-- R70: an instruction whose guard is false in every thread, or whose uniform guard is false, only completes, whatever it is; those whose slot, layout
entry or convergence is checked before the guard have statements of their own.
R132, R133, R135: NOP only completes; YIELD ends its scheduler's run; SAFEPT only completes where system software has not asked for the
context's groups.
R56, R135, R136: SMODE writes, sets or clears the bits of MODE that exist where the result is legal, and traps ILLEGAL otherwise; GMODE
reads them; RDSYS reads a system register; WRSYS writes a scratch register; each waits for no division in flight to be asked. -/
def Obligations.HintsAndModesComplete : Prop :=
  (∀ i op f s, i.word = some (op, f) → op ∉ checkedFirst → s.g.status = .running → s.g.issue op f (form op f) false = .ok → s.g.active f = [] →
    ∃ t, exec i s = .next t ∧ Passed s (s.reads op f) t f.len) ∧
  ((∀ f s, Ready 0x148 f s → ∃ t, exec (.nop f) s = .next t ∧ Passed s (s.reads 0x148 f) t f.len) ∧
  (∀ f s, Ready 0x147 f s → ∃ t, exec (.yield f) s = .next t ∧ Completed s t f.len ∧ (∀ l, t.byteAt l = s.byteAt l) ∧
    (Cells.get Sched.reset (t.core s.g.core).scheds s.g.sched).run = runLimit ∧
    t.g = { (s.reads 0x147 f).g with pc := t.g.pc, retired := t.g.retired, wait := t.g.wait }) ∧
  (∀ f s, Ready 0x149 f s → s.preempting s.g.ctx = false → ∃ t, exec (.safept f) s = .next t ∧ Passed s (s.reads 0x149 f) t f.len)) ∧
  ((∀ f s, Ready 0x160 f s → s.g.dividing = false → (f.mod = 0 ∨ Cells.get false s.g.miscPoison (miscKey 4 0) = false) →
    let v : Word := .ofNat 32 (s.g.uval f f.a)
    let m := (if f.mod = 0 then v else if f.mod = 1 then s.g.mode ||| v else s.g.mode &&& ~~~v) &&& modeMask
    (modeOk m = true → ∃ t, exec (.smode f) s = .next t ∧ OnlyGroup s t ∧ Completed s t f.len ∧ t.g.mode = m ∧
      t.g = { (s.reads 0x160 f).g with mode := m, miscPoison := t.g.miscPoison, pc := t.g.pc, retired := t.g.retired, wait := t.g.wait }) ∧
    (modeOk m = false → exec (.smode f) s = .next (s.trap .illegal f.len))) ∧
  (∀ f s, Ready 0x161 f s → s.g.dividing = false → Cells.get false s.g.miscPoison (miscKey 4 0) = false →
    ∃ t, exec (.gmode f) s = .next t ∧ Wrote s (s.reads 0x161 f) t f 2 [(0, s.g.mode.toNat)]) ∧
  (∀ f s, Ready 0x162 f s → ∃ t, exec (.rdsys f) s = .next t ∧ Wrote s (s.reads 0x162 f) t f 2 [(0, (s.sysReg f.ext.num1.toNat).toNat)]) ∧
  (∀ f s, Ready 0x163 f s → ∃ t, exec (.wrsys f) s = .next t ∧ OnlyGroup s t ∧ Completed s t f.len ∧
    t.g.gscratch0 = (if f.ext.num1 = 0x10 then s.g.sreg (opNum f.a) else s.g.gscratch0) ∧
    t.g.gscratch1 = (if f.ext.num1 = 0x10 then s.g.gscratch1 else s.g.sreg (opNum f.a)) ∧
    t.g = { (s.reads 0x163 f).g with gscratch0 := t.g.gscratch0, gscratch1 := t.g.gscratch1, pc := t.g.pc, retired := t.g.retired, wait := t.g.wait }))

/-! ### Memory -/

/-- R230 to R240: LD and LDU complete once their checks pass and their bytes can be read: the bytes of each active thread are read, extended, and
in flight to the destination, quad by quad; values of a peer device's object go through the replay log. The full/empty forms have a statement of
their own. Bytes are read when the load issues, by the model's choice (log 2, 11). -/
def Obligations.LoadsComplete : Prop :=
  ∀ (uni : Bool) (f : Fields) (s : State) (sp : Space) (ls : List (Nat × Option (List Loc))) (causes : List Cause) (u : State) (vals : List (Nat × Nat × Bool)),
    let op := if uni then 0x1C4 else 0x1C0
    let w := if uni then 2 else (form op f).d.width
    let n := 2 ^ f.ext.sz
    Ready op f s → (uni = false → f.ext.fe = 0) → memSpace s op f = some sp →
    (s.reads op f).accCheck (some sp) [rRead] n (f.ext.ord != 0) (memAccs s op f) = .ok →
    (s.reads op f).loads sp n false false (memAccs s op f) = .ok ls causes →
    Gets (s.reads op f) sp n (memAccs s op f) (threadVals (s.reads op f) ls) u vals →
    ∃ t, exec (if uni then .ldu f else .ld f) s = .next t ∧
      Loaded s u t f w causes (vals.map (fun v => (v.1, extend f.ext.sx n (if uni then 64 else 32 * w) v.2.1, v.2.2)))

/-- R201, R238: a `.fe` load whose granules are all full and unwritten reads them and completes; `.fec` sets them empty. The bytes are those that
stand there when the load issues, and the granules are emptied then, by the model's choice (log 2). -/
def Obligations.FullEmptyLoadsComplete : Prop :=
  ∀ f s sp ls causes, Ready 0x1C0 f s → f.ext.fe ≠ 0 → memSpace s 0x1C0 f = some sp → s.g.feDone = [] →
    (s.reads 0x1C0 f).accCheck (some sp) [rRead] (2 ^ f.ext.sz) true (memAccs s 0x1C0 f) = .ok →
    (s.reads 0x1C0 f).loads sp 16 false false (memAccs s 0x1C0 f) = .ok ls causes →
    (∀ x ∈ ls, ∀ p, x.2 = some p → (∀ e, granOf p = some e → Cells.get false (s.wgOf e.1).full e.2 = true) ∧
      ∀ q ∈ (s.reads 0x1C0 f).stores, q.gid = s.cur → p.any q.covers = false) →
    ∃ t, exec (.ld f) s = .next t ∧ Completed s t f.len ∧ (∀ l, t.byteAt l = s.byteAt l) ∧
      (f.ext.fe = 2 → ∀ x ∈ ls, ∀ p e, x.2 = some p → granOf p = some e → Cells.get false (t.wgOf e.1).full e.2 = false) ∧
      (f.ext.fe ≠ 2 → ∀ w, t.wgOf w = s.wgOf w) ∧ t.g.traps = s.g.traps ++ causes.map (fun c => ⟨c, s.g.pc, s.g.seq⟩) ∧
      Flies (s.reads 0x1C0 f) t f (form 0x1C0 f).d.width (ls.map (fun x => (x.1, placeVal (s.reads 0x1C0 f) x)))

/-- R232, R237, R239, R240, R242, R245: ST and RED complete once their checks pass and their stores can be issued; no byte changes until a store
is performed. The value of an immediate C in a 64-bit ST, the elements that an o register gives, and that a store's bytes are taken when it issues, are
the model's readings (log 48, 62, 2). -/
def Obligations.StoresComplete : Prop :=
  (∀ f s sp s1, ReadyAs 0x1C1 f (form 0x1C1 f) true s → memSpace s 0x1C1 f = some sp →
    (s.reads 0x1C1 f).accCheck (some sp) [rWrite] (2 ^ f.ext.sz) (f.ext.ord != 0 || f.ext.fe != 0) (memAccs s 0x1C1 f) = .ok →
    (f.ext.ord = 3 ∨ f.ext.fe = 2 → s.quiet = true) →
    (s.reads 0x1C1 f).issueStores sp ⟨false, f.ext.fe == 2, false, s.g.entry⟩ (2 ^ f.ext.sz) false (stPuts s f) = .ok s1 →
    ∃ t, exec (.st f) s = .next t ∧ StoreIssued s (s.reads 0x1C1 f) s1 t f.len) ∧
  (∀ f s sp s1, Ready 0x1C6 f s → memSpace s 0x1C6 f = some sp →
    (s.reads 0x1C6 f).accCheck (some sp) [rWrite] (4 * regsOf f.ty) true (memAccs s 0x1C6 f) = .ok →
    (f.ext.ord = 3 → s.quiet = true) →
    (s.reads 0x1C6 f).issueStores sp ⟨false, false, f.ty != .f32, s.g.entry⟩ (4 * regsOf f.ty) false (redPuts s f) = .ok s1 →
    ∃ t, exec (.red f) s = .next t ∧ StoreIssued s (s.reads 0x1C6 f) s1 t f.len)

/-- R211, R212, R222, R342: what issuing the stores of an instruction leaves pending, behind the older stores: lines with the issuing group's name,
pc and SEQ, the store's mode and the generation of its object. At every place stand the bytes of the puts, in thread order, and the reductions, with
operation, type, operand and places; and nothing else. A byte of an object of this device lies at `VBASE` plus its offset: at its physical place, or,
side-logged, at that virtual address itself; each side-log entry has its page walk. A store to a peer or a remote window counts one operation (R204).
No byte changes yet. -/
def Obligations.IssuedStoresHoldTheirBytes : Prop :=
  ∀ (s : State) sp m n caps (l : List Put) s1, s.issueStores sp m n caps l = .ok s1 →
    let issued := issuedAt s sp n caps [] l
    (∃ new side, s1.stores = s.stores ++ new ∧ s1.sideLog = s.sideLog ++ side ∧
      (∀ p ∈ new ++ side, p.gid = s.cur ∧ p.ctx = s.g.ctx ∧ p.core = s.g.core ∧ p.pc = s.g.pc ∧ p.seq = s.g.seq ∧ p.tag = m.tag ∧
        p.setFull = m.setFull ∧ p.entry = m.entry ∧ p.obj = (match sp with | .obj c => some (objKey s.g.ctx c.name, c.gen) | _ => none)) ∧
      (∀ p ∈ new, p.virtual = false) ∧
      (∀ p ∈ side, p.virtual = true ∧
        ∃ w ∈ s1.walks, w.kind = 2 ∧ w.write = true ∧ w.ctx = s.g.ctx ∧ w.va = p.va ∧ w.gid = s.cur ∧ w.pc = s.g.pc ∧ w.seq = s.g.seq) ∧
      (∀ x, (bytesOf ((new ++ side).flatMap PStore.parts)).filter (fun b => b.1 == x) = (issuedBytes issued).filter (fun b => b.1 == x)) ∧
      (∀ x, (redsOf ((new ++ side).flatMap PStore.parts)).filter (fun r => r.1.headD .drop == x) = (issuedReds issued).filter (fun r => r.1.headD .drop == x)) ∧
      ((∃ p ∈ new, p.kind = .remote) → s1.g.count 4 = s.g.count 4 + 1)) ∧
    (∀ c, sp = .obj c → (s.obj (objKey s.g.ctx c.name)).home = s.devnum → ∀ e ∈ issued, ∀ i v x,
      e.2[i]? = some (v, x) → v = some ((s.obj (objKey s.g.ctx c.name)).vbase + e.1.off + i) ∧
        (x = .drop ∨ (∃ pa, x = .mem pa) ∨ x = .virt s.g.ctx ((s.obj (objKey s.g.ctx c.name)).vbase + e.1.off + i))) ∧
    (∀ l, s1.byteAt l = s.byteAt l)

/-- R190, R201, R204, R211, R222, R226, R240, R244, R245, R249, R265, R304, R385: a pending store that may be performed, whose object still stands,
writes all its granules: each place takes the last byte written to it, a reduction leaves its operation's result, `.fes` fills its granules, held
granules and every other byte stay. One whose object has been freed writes nothing and is reported; one to a live meeting object writes nothing. -/
def Obligations.PerformedStoreWritesItsBytes : Prop :=
  ∀ (s : State) i p, s.stores[i]? = some p → p.kind = .plain → s.storeReady i = true →
    (s.current p = false → ∃ t, exec (.storePerformed i) s = .next t ∧ t.stores = s.stores.eraseIdx i ∧ (∀ l, t.byteAt l = s.byteAt l) ∧
      ((s.grp p.gid).status ≠ .none → (t.grp p.gid).traps = (s.grp p.gid).traps ++ [⟨.capinvalid, p.pc, p.seq⟩])) ∧
    (s.current p = true → allLocal p.parts → s.meetDrops p = true →
      ∃ t, exec (.storePerformed i) s = .next t ∧ t.stores = s.stores.eraseIdx i ∧ (∀ l, t.byteAt l = s.byteAt l)) ∧
    (s.current p = true → allLocal p.parts → s.meetDrops p = false → (∀ q ∈ p.parts, q.shadow = none) → ∃ t, exec (.storePerformed i) s = .next t ∧
      t.stores = s.stores.eraseIdx i ∧ Performed s t p.tag p.setFull p.parts ∧ KeepsGroups s t)

/-- R244, R385: an ATOM whose checks pass completes: each active thread in order reads the old value into flight and writes the operation's result at
once; an access that fails gives zero and is reported. This says it for the object that no race filter checks and that takes no value from a replay
log. In general the read-modify-writes run one after another on what the log and the filter give; a write that the filter passes is made, one that
races is reported. A deferred result is computed when its instruction issues, and an o register may be C of a uniform .cas (log 11, 62). -/
def Obligations.AtomicsComplete : Prop :=
  ∀ f s sp ls causes, Ready 0x1C5 f s → memSpace s 0x1C5 f = some sp →
    let r := s.reads 0x1C5 f
    let w := 4 * regsOf f.ty
    let cap := match sp with | .obj c => c | _ => Cap.null
    let key := objKey s.g.ctx cap.name
    let nd := cap.has rNdatom
    let checked := (r.obj key).checked && !nd && !r.isPeer sp
    let held := match sp with | .obj _ => r.meetHeld key | _ => false
    let items := atomItems s f ls
    r.accCheck (some sp) [rRead, rWrite] w true (memAccs s 0x1C5 f) = .ok →
    (f.ext.ord = 3 ∨ f.ext.ord = 4 → s.quiet = true) → r.loads sp w false true (memAccs s 0x1C5 f) = .ok ls causes →
    (checked = false → (r.isPeer sp = false ∧ nd = false) ∨ r.logging s.g.ctx = false →
      ∃ t, exec (.atom f) s = .next t ∧ Loaded s (rmwAll f held r items).1 t f (form 0x1C5 f).d.width causes (rmwAll f held r items).2) ∧
    (∀ u vals, AtomRuns r f sp nd checked items u vals → u.g.status = .running →
      ∃ t, exec (.atom f) s = .next t ∧ (∀ l, t.byteAt l = u.byteAt l) ∧ t.g.pc = u.g.pc + .ofNat 32 f.len ∧ t.g.retired = u.g.retired + 1 ∧
        vals.map Prod.fst = s.g.active f ∧ Flies u t f (form 0x1C5 f).d.width vals) ∧
    (∀ row p off v u vals, checked = true → held = false → items = [(row, some p, off)] → r.atoms f w sp true none items = some (u, vals) →
      aopApply (f.ext.num2.toNat % 16) f.ty (r.readNat p) (r.g.aopOperand f (f.ext.num2.toNat % 16) w row).1
        (r.g.aopOperand f (f.ext.num2.toNat % 16) w row).2 = some v →
      vals = [(row.t, r.readNat p, p.any r.poisonAt)] ∧
      match r.filterWrite s.cur s.g.ctx s.g.core s.g.entry (shadowKey key off) s.g.pc s.g.seq with
      | .apply x => u = x.writeAll (p.zip (toLE w v))
      | .race x => x.reportRace s.cur s.g.ctx s.g.entry (shadowKey key off) (((x.obj key).vbase + off) / 16 * 16) s.g.pc s.g.seq s.g.core = some u
      | .lost x => u = x)

/-- R246, R247: a FENCE completes once the group has no store in flight (at once where it only acquires); PREF completes. That a releasing FENCE
need not wait for loads in flight rests on the model's choice that a load reads its bytes when it issues (log 2). -/
def Obligations.FencesAndPrefetchesComplete : Prop :=
  (∀ f s, Ready 0x1C7 f s → (f.ext.ord = 2 ∨ s.quiet = true) → ∃ t, exec (.fence f) s = .next t ∧ Passed s (s.reads 0x1C7 f) t f.len) ∧
  (∀ f s, Ready 0x1D6 f s → ∃ t, exec (.pref f) s = .next t ∧ Passed s (s.reads 0x1D6 f) t f.len)

/-! ### Capabilities -/

/-- R241, R252 to R254, R333: CAPLD loads a capability with its tag once no own store is pending there; CAPST stores one; CAPRESTR narrows one,
never adding a right; CAPQ reads its fields.
The order of CAPRESTR's checks is the model's reading (log 22). -/
def Obligations.CapabilityInstructionsComplete : Prop :=
  (∀ f s p, Ready 0x1CB f s →
    let r := s.reads 0x1CB f
    let at_ := r.capAt f rCapLoad
    at_.2.2 = .ok → r.loads (.obj at_.1) 16 true false [⟨0, at_.2.1⟩] = .ok [(0, some p)] [] → r.ownPending [(0, some p)] = false →
    ∃ t, exec (.capld f) s = .next t ∧ OnlyGroup s t ∧ Completed s t f.len ∧
      t.g.kreg f.ext.num2.toNat = ⟨.ofNat 128 (r.readNat p), r.tagAt (p.headD .drop)⟩ ∧
      (∀ n, n ≠ f.ext.num2.toNat → t.g.kreg n = s.g.kreg n) ∧
      t.g = { r.g with k := t.g.k, miscPoison := t.g.miscPoison, pc := t.g.pc, retired := t.g.retired, wait := t.g.wait }) ∧
  (∀ f s s1, Ready 0x1CC f s →
    let r := s.reads 0x1CC f
    let at_ := r.capAt f rCapStore
    let k := s.g.kreg f.ext.num2.toNat
    at_.2.2 = .ok → (f.ext.ord = 3 → s.quiet = true) →
    r.issueStores (.obj at_.1) ⟨k.tag, false, false, s.g.entry⟩ 16 true [⟨at_.2.1, toLE 16 k.image.toNat, none, false⟩] = .ok s1 →
    ∃ t, exec (.capst f) s = .next t ∧ StoreIssued s r s1 t f.len) ∧
  (∀ f s e, Ready 0x1CD f s →
    let c := s.g.kreg f.ext.num1.toNat
    let start := s.g.uval f f.a
    let len := s.g.uval f f.b
    c.tag = true → start % 16 = 0 → len % 16 = 0 → 16 ≤ len → start + len ≤ c.length → windowExp (c.start + start) len = some e →
    ∃ t, exec (.caprestr f) s = .next t ∧ OnlyGroup s t ∧ Completed s t f.len ∧
      (let k := t.g.kreg f.ext.num2.toNat
       k.tag = true ∧ k.name = c.name ∧ k.gen = c.gen ∧ k.start = c.start + start ∧ k.length = len ∧
       (∀ n < 8, k.has n = (c.has n && (n == rCheck || bit (s.g.uval f f.c) n)))) ∧
      (∀ n, n ≠ f.ext.num2.toNat → t.g.kreg n = s.g.kreg n)) ∧
  (∀ f s, Ready 0x1CE f s → ∃ t, exec (.capq f) s = .next t ∧
    let c := s.g.kreg f.ext.num1.toNat
    Wrote s (s.reads 0x1CE f) t f 2 [(0, if f.ext.xsub = 0 then c.name.toNat else if f.ext.xsub = 1 then c.start else if f.ext.xsub = 2 then c.length
      else c.rights + 2 ^ 8 * c.gen + 2 ^ 16 * c.tag.toNat)])

/-! ### Synchronisation -/

/-- R248: BAR.SYNC of the last group to arrive completes and opens the next phase for all; BAR.ARRIVE completes and reads the phase it arrives
in; BAR.WAIT completes once that phase is over; a task is alone at its barrier; a broken barrier traps BARBROKEN. -/
def Obligations.BarriersComplete : Prop :=
  (∀ f s w, Ready 0x1C8 f s → s.quiet = true → s.g.wg = some w → (∀ p, s.g.wait ≠ .barrier p) → (s.wgOf w).broken = false →
    s.cur ∉ (s.wgOf w).arrived → (∀ m ∈ (s.wgOf w).members, m ∈ (s.wgOf w).arrived ∨ m = s.cur) → s.cur ∈ (s.wgOf w).members →
    ∃ t, exec (.barSync f) s = .next t ∧ Completed s t f.len ∧ (t.wgOf w).phase = (s.wgOf w).phase + 1 ∧ (t.wgOf w).arrived = [] ∧
      (∀ l, t.byteAt l = s.byteAt l)) ∧
  (∀ f s w p, Ready 0x1C8 f s → s.g.wg = some w → s.g.wait = .barrier p → phaseDone (s.wgOf w).phase p = true →
    ∃ t, exec (.barSync f) s = .next t ∧ Passed s (s.reads 0x1C8 f) t f.len) ∧
  (∀ f s w, Ready 0x1C8 f s → s.quiet = true → s.g.wg = some w → (s.wgOf w).broken = false → s.cur ∉ (s.wgOf w).arrived →
    ∃ t, exec (.barArrive f) s = .next t ∧ Completed s t f.len ∧ (∀ l, t.byteAt l = s.byteAt l) ∧
      (kindOf f.d = .s → t.g.sreg (opNum f.d) = .ofNat 64 (s.wgOf w).phase.toNat) ∧
      t.wgOf w = ({ s.wgOf w with arrived := (s.wgOf w).arrived ++ [s.cur] } : Workgroup).settle) ∧
  (∀ f s w, Ready 0x1C8 f s → s.g.wg = some w → phaseDone (s.wgOf w).phase ((s.g.sreg (opNum f.a)).setWidth 32) = true →
    ∃ t, exec (.barWait f) s = .next t ∧ Passed s (s.reads 0x1C8 f) t f.len) ∧
  (∀ f s, Ready 0x1C8 f s → s.quiet = true → s.g.wg = none →
    (∃ t, exec (.barSync f) s = .next t ∧ Completed s t f.len ∧ t.g.taskPhase = s.g.taskPhase + 1) ∧
    (∃ t, exec (.barArrive f) s = .next t ∧ Completed s t f.len ∧ t.g.taskPhase = s.g.taskPhase + 1 ∧
      (kindOf f.d = .s → t.g.sreg (opNum f.d) = .ofNat 64 s.g.taskPhase.toNat))) ∧
  (∀ f s w, Ready 0x1C8 f s → s.quiet = true → s.g.wg = some w → (s.wgOf w).broken = true → (∀ p, s.g.wait ≠ .barrier p) →
    exec (.barSync f) s = .next (s.trap .barbroken f.len) ∧ exec (.barArrive f) s = .next (s.trap .barbroken f.len))

/-- R249, R250: ABAR on the own window. INIT makes a live object with its count pending; ARRIVE completes with the phase and takes one from
PENDING, and the last arrival opens the next phase; WAIT completes once its phase is over; SYNC of the last arrival completes; INVAL frees the
object.
Which granules are live objects is a list of the model (log 17). -/
def Obligations.AbarInstructionsComplete : Prop :=
  ∀ f s w off, Ready 0x1C9 f s → s.g.wg = some w → f.mod = 1 → s.g.uval f f.b % 2 ^ 32 = off → off % 16 = 0 → off + 16 ≤ (s.wgOf w).size →
    let word (u : State) (i : Nat) := u.abarWord w off i
    (∀ c, s.g.uval f f.c = c → 1 ≤ c → c < 2 ^ 31 → s.abarLive w off = false →
      ∃ t, exec (.abarInit f) s = .next t ∧ Completed s t f.len ∧ t.abarLive w off = true ∧ t.abarBroken w off = false ∧ word t 1 = c ∧ word t 2 = c ∧
        word t 3 = 0 ∧ (∀ l, (∀ i < 16, l ≠ .vault w (off + i)) → t.byteAt l = s.byteAt l)) ∧
    (s.abarLive w off = true → s.abarBroken w off = false →
      (s.quiet = true → ∃ t, exec (.abarArrive f) s = .next t ∧ Completed s t f.len ∧
        (kindOf f.d = .s → t.g.sreg (opNum f.d) = .ofNat 64 (word s 3)) ∧
        (1 < word s 1 → word t 1 = word s 1 - 1 ∧ word t 3 = word s 3) ∧
        (word s 1 = 1 → word t 1 = word s 2 ∧ word t 3 = (word s 3 + 1) % 2 ^ 32) ∧
        (∀ l, (∀ i < 16, l ≠ .vault w (off + i)) → t.byteAt l = s.byteAt l)) ∧
      (s.g.wait ≠ .broken → phaseDone (s.abarPhase w off) ((s.g.sreg (opNum f.a)).setWidth 32) = true →
        ∃ t, exec (.abarWait f) s = .next t ∧ Passed s (s.reads 0x1C9 f) t f.len) ∧
      (s.quiet = true → s.g.wait = .none → word s 1 = 1 →
        ∃ t, exec (.abarSync f) s = .next t ∧ Completed s t f.len ∧ word t 1 = word s 2 ∧ word t 3 = (word s 3 + 1) % 2 ^ 32) ∧
      (∃ t, exec (.abarInval f) s = .next t ∧ Completed s t f.len ∧ t.abarLive w off = false ∧
        (∀ l, (∀ i < 16, l ≠ .vault w (off + i)) → t.byteAt l = s.byteAt l)))

/-- R203, R204, R251, R258, R259: WAITC completes once its counter has fallen to the limit; a handle instruction completes where the handle is in
the state it leaves, and moves it; BUFACQ.FILL also sets the region and empties its granules; BUFWAIT and BUFSTATE read the handle. -/
def Obligations.CountersAndHandlesComplete : Prop :=
  (∀ f s, Ready 0x1CA f s → s.g.count f.ext.num2.toNat ≤ f.ext.num1.toNat → ∃ t, exec (.waitc f) s = .next t ∧ Passed s (s.reads 0x1CA f) t f.len) ∧
  (∀ f s w, Ready 0x1D2 f s → s.g.wg = some w → f.ext.num1.toNat < (s.wgOf w).nHandles →
    let off := s.g.uval f f.a % 2 ^ 16
    let len := s.g.uval f f.a / 2 ^ 16 % 2 ^ 16
    1 ≤ len → len ≤ 240 → 4096 * (off + len) ≤ (s.wgOf w).size → ((s.wgOf w).handle f.ext.num1.toNat).state = hFree →
    ∃ t, exec (.bufacqFill f) s = .next t ∧ Completed s t f.len ∧ (t.wgOf w).handle f.ext.num1.toNat = ⟨hFilling, off, len⟩ ∧
      (∀ n, 256 * off ≤ n → n < 256 * (off + len) → Cells.get false (t.wgOf w).full n = false) ∧
      (∀ n, ¬ (256 * off ≤ n ∧ n < 256 * (off + len)) → Cells.get false (t.wgOf w).full n = Cells.get false (s.wgOf w).full n) ∧
      (∀ n, n ≠ f.ext.num1.toNat → (t.wgOf w).handle n = (s.wgOf w).handle n) ∧ (∀ l, t.byteAt l = s.byteAt l)) ∧
  (∀ e ∈ [((Instr.bufacqDrain : Fields → Instr), 0x1D2, hFull, hDraining), (.bufrelFill, 0x1D3, hFilling, hFull), (.bufrelDrain, 0x1D3, hDraining, hFree)],
    ∀ f s w, Ready e.2.1 f s → s.g.wg = some w → f.ext.num1.toNat < (s.wgOf w).nHandles → s.quiet = true →
      ((s.wgOf w).handle f.ext.num1.toNat).state = e.2.2.1 →
      ∃ t, exec (e.1 f) s = .next t ∧ Completed s t f.len ∧
        (t.wgOf w).handle f.ext.num1.toNat = { (s.wgOf w).handle f.ext.num1.toNat with state := e.2.2.2 } ∧
        (∀ n, n ≠ f.ext.num1.toNat → (t.wgOf w).handle n = (s.wgOf w).handle n) ∧ (∀ l, t.byteAt l = s.byteAt l)) ∧
  (∀ f s w, Ready 0x1D4 f s → s.g.wg = some w → f.ext.num1.toNat < (s.wgOf w).nHandles →
    ((s.wgOf w).handle f.ext.num1.toNat).state = f.ext.xsub.toNat → ∃ t, exec (.bufwait f) s = .next t ∧ Passed s (s.reads 0x1D4 f) t f.len) ∧
  (∀ f s w, Ready 0x1D5 f s → s.g.wg = some w → f.ext.num1.toNat < (s.wgOf w).nHandles →
    ∃ t, exec (.bufstate f) s = .next t ∧
      let h := (s.wgOf w).handle f.ext.num1.toNat
      Wrote s (s.reads 0x1D5 f) t f 2 [(0, h.state + 2 ^ 8 * h.off + 2 ^ 24 * h.len)])

/-- R260, R261: LLOCK of a line of this device that passes its checks completes and says in a g register whether its owner holds the line: it does
where it held it already, or the line is free, the owner holds fewer than 8 lines and the table has room; a ninth line, or one beyond a full table, is
refused. LUNLK gives a held line up.
Which die's table holds a line is a free value (log 23). -/
def Obligations.LineLocksComplete : Prop :=
  (∀ f s, Ready 0x1D7 f s →
    let r := s.reads 0x1D7 f
    let at_ := r.lockAt f
    let key := lineKey (objKey s.g.ctx at_.1.name) at_.2.1
    let me := lockOwner s.g s.cur
    at_.2.2 = .ok → r.portCheck s.g.ctx at_.1 at_.2.1 1 false = none →
    ∃ t, exec (.llock f) s = .next t ∧ Completed s t f.len ∧ (∀ l, t.byteAt l = s.byteAt l) ∧
      (Cells.get 0 s.locks key = me → Cells.get 0 t.locks key = me ∧ (f.d.toNat % 8 ≠ 7 → t.g.gpred (f.d.toNat % 8) = true)) ∧
      (Cells.get 0 s.locks key ≠ 0 → Cells.get 0 s.locks key ≠ me → t.locks = s.locks ∧ (f.d.toNat % 8 ≠ 7 → t.g.gpred (f.d.toNat % 8) = false)) ∧
      (f.d.toNat % 8 ≠ 7 → (t.g.gpred (f.d.toNat % 8) = true ↔ Cells.get 0 t.locks key = me)) ∧
      (Cells.get 0 s.locks key = 0 → r.isPeer (.obj at_.1) = false → (s.locks.filter (fun e => e.2 == me)).length < lockMax → s.locks.length < lockTable →
        Cells.get 0 t.locks key = me ∧ (f.d.toNat % 8 ≠ 7 → t.g.gpred (f.d.toNat % 8) = true)) ∧
      (let die (k : Nat) : Nat := Config.homeDie (k / 2 ^ 40) (k % 2 ^ 40) % 4
       Cells.get 0 s.locks key = 0 → lockMax ≤ (s.locks.filter (fun e => e.2 == me)).length ∨ (r.isPeer (.obj at_.1) = false ∧
          lockTable ≤ (s.locks.filter (fun e => (s.obj (e.1 / 2 ^ 40)).home == s.devnum && die e.1 == die key)).length) →
        t.locks = s.locks ∧ (f.d.toNat % 8 ≠ 7 → t.g.gpred (f.d.toNat % 8) = false))) ∧
  (∀ f s, Ready 0x1D8 f s →
    let r := s.reads 0x1D8 f
    let at_ := r.lockAt f
    let key := lineKey (objKey s.g.ctx at_.1.name) at_.2.1
    at_.2.2 = .ok → s.quiet = true → r.portCheck s.g.ctx at_.1 at_.2.1 1 false = none →
    ∃ t, exec (.lunlk f) s = .next t ∧ Completed s t f.len ∧ (∀ l, t.byteAt l = s.byteAt l) ∧
      (Cells.get 0 s.locks key = lockOwner s.g s.cur → Cells.get 0 t.locks key = 0) ∧
      (Cells.get 0 s.locks key ≠ lockOwner s.g s.cur → t.locks = s.locks) ∧ (∀ k, k ≠ key → Cells.get 0 t.locks k = Cells.get 0 s.locks k))

/-! ### Engines -/

/-- R205 to R207, R255, R256: STRMSET binds a legal image as a stopped stream with all its elements to come; STRMCTL starts it and counts one
operation of its class, stops it, reads it, or frees it with its queue. -/
def Obligations.StreamInstructionsComplete : Prop :=
  (∀ f s, Ready 0x1CF f s →
    let n := f.ext.num1.toNat
    let i := s.g.image f.a
    s.g.streamOk n i = true → ((s.reads 0x1CF f).layout (imgByte i 39)).isSome = true → (s.g.stream n).bound = false →
    (s.reads 0x1CF f).streamsOn s.g.core < streamRecords →
    ∃ t, exec (.strmset f) s = .next t ∧ OnlyGroup s t ∧ Completed s t f.len ∧
      (let st := t.g.stream n
       st.bound = true ∧ st.image = i ∧ st.active = false ∧ st.done = false ∧ st.pos = 0 ∧ st.remain = st.total) ∧
      (∀ m, m ≠ n → t.g.stream m = s.g.stream m)) ∧
  (∀ f s, Ready 0x1D0 f s →
    let n := f.ext.num1.toNat
    let st := s.g.stream n
    st.bound = true → st.held = false →
    (st.active = false → st.done = false → s.quiet = true → s.g.count 2 < 255 →
      ∃ t, exec (.strmctlStart f) s = .next t ∧ Completed s t f.len ∧ (∀ l, t.byteAt l = s.byteAt l) ∧ (t.g.stream n).active = true ∧
        t.g.count 2 = s.g.count 2 + 1 ∧ (∀ m, m ≠ n → t.g.stream m = s.g.stream m)) ∧
    (∃ t, exec (.strmctlStop f) s = .next t ∧ OnlyGroup s t ∧ Completed s t f.len ∧ t.g.stream n = { st with active := false } ∧
      (∀ m, m ≠ n → t.g.stream m = s.g.stream m)) ∧
    (∃ t, exec (.strmctlQuery f) s = .next t ∧ Wrote s (s.reads 0x1D0 f) t f 2 [(0, 2 ^ 7 * st.done.toNat + 2 ^ 6 * st.runout.toNat +
      2 ^ 5 * st.active.toNat + 2 ^ 4 * st.isIndex.toNat + 2 ^ 8 * (st.remain % 2 ^ 48))]) ∧
    (∃ t, exec (.strmctlFree f) s = .next t ∧ OnlyGroup s t ∧ Completed s t f.len ∧ (t.g.stream n).bound = false ∧
      Cells.get [] t.g.oq (st.queue n) = [] ∧ (∀ m, m ≠ n → t.g.stream m = s.g.stream m)))

/-- R206, R207: the run-ahead engine reads the next element of an active stream into its queue: the padding value outside the layout's extents, or
the element's bytes; the stream moves on by one element. A gather takes its index from its index stream's queue, and with it the index's poison; a
convolution whose fourth coordinate leaves its extent sets RUNOUT.
A stream's bytes are read in one step (log 2); which coordinates a convolution runs over is the model's reading (log 20). -/
def Obligations.StreamReadsComplete : Prop :=
  ∀ (s : State) (gid n : Nat) (l : Layout) (v : Nat) (poison : Bool),
    let u : State := { s with cur := gid }
    let st := (s.grp gid).stream n
    let q := Cells.get [] (s.grp gid).oq (st.queue n)
    let src := 8 + imgByte st.image 42
    let iq := Cells.get [] (s.grp gid).oq src
    let c := st.coordAt st.pos (toSigned 32 (iq.headD (0, false)).1.toNat)
    let bad := poison || (st.mode == 1 && (iq.headD (0, false)).2)
    (s.grp gid).status = .running → st.bound = true → st.active = true → st.held = false → st.done = false → st.fault = none →
    (st.mode = 1 → iq ≠ [] ∧ st.queue n ≠ src) →
    u.layout (imgByte st.image 39) = some l → q.length + (if l.bits = 64 then 2 else 1) ≤ queueDepth →
    (match u.readElem l c with | .val x p => x = v ∧ p = poison | _ => False) →
    ∃ t, exec (.streamReadAhead gid n) s = .next t ∧
      Cells.get [] (t.grp gid).oq (st.queue n) = q ++ (if l.bits = 64 then [(.ofNat 32 v, bad), (.ofNat 32 (v / 2 ^ 32), bad)] else [(.ofNat 32 v, bad)]) ∧
      (st.mode = 1 → Cells.get [] (t.grp gid).oq src = iq.tail) ∧
      (∀ k, k ≠ st.queue n → ¬ (st.mode = 1 ∧ k = src) → Cells.get [] (t.grp gid).oq k = Cells.get [] (s.grp gid).oq k) ∧
      (((t.grp gid).stream n).runout = true ↔ st.runout = true ∨ (st.mode = 2 ∧ ((l.ext.getD 3 0 : Nat) : Int) ≤ c.getD 3 0)) ∧
      ((t.grp gid).stream n).pos = st.pos + 1 ∧ ((t.grp gid).stream n).remain = st.remain - 1 ∧
      (((t.grp gid).stream n).done = true ↔ st.remain ≤ 1) ∧ (∀ l, t.byteAt l = s.byteAt l) ∧ (∀ i, i ≠ gid → t.grp i = s.grp i)

/-- R209, R257: a CPY of a legal packet, whose sides pass their checks, completes: its copy is accepted by the core's copy engine behind the older
ones, one operation is counted, and no byte moves yet. -/
def Obligations.CopiesAreAccepted : Prop :=
  ∀ f s, Ready 0x1D1 f s →
    let i := s.g.image f.a
    let sc := imgBytes i 24 2
    let dc := imgBytes i 26 2
    let vault (n : Nat) : Option Nat := if n = 0x100 then s.g.wg else none
    let nh := match s.g.wg with | some w => (s.wgOf w).nHandles | none => 0
    imgBytes i 0 8 = 0 → copyOk i = true → sideOk sc = true → sideOk dc = true → s.g.copyPoison sc dc = .ok → ((sc = 0x100 ∨ dc = 0x100) → s.g.wg.isSome = true) →
    (s.reads 0x1D1 f).copyCheck (s.g.kreg sc) (vault sc) rRead (copySpan i false) = .ok →
    (s.reads 0x1D1 f).copyCheck (s.g.kreg dc) (vault dc) rWrite (copySpan i true) = .ok →
    (copyHandle i = 0xFFFF ∨ copyHandle i < nh) → s.quiet = true → s.g.count 0 < 255 →
    ∃ t c, exec (.cpy f) s = .next t ∧ Completed s t f.len ∧ (∀ l, t.byteAt l = s.byteAt l) ∧
      (t.core s.g.core).copies = (s.core s.g.core).copies ++ [c] ∧ c.image = i ∧ c.src = s.g.kreg sc ∧ c.dst = s.g.kreg dc ∧ c.gid = s.cur ∧ c.pos = 0 ∧
      t.g.count 0 = s.g.count 0 + 1 ∧ t.g.seq = s.g.seq + 1

/-! ### Register fragments -/

/-- R137 to R145: a multiplication on register fragments of a converged group completes, with every element of the result in flight. -/
def Obligations.FragmentMultiplicationsComplete : Prop :=
  Multiplies .mmaf16x16x16 0x180 0 noSlots noRegs noRegs (fun _ f => dotElem 0 (fmtOfTy f.ty) (fmtOfTy f.ty)) ∧
  Multiplies .mmaf32x8x16 0x181 1 noSlots noRegs noRegs (fun _ f => dotElem 1 (fmtOfTy f.ty) (fmtOfTy f.ty)) ∧
  Multiplies .mmaf8x32x16 0x182 2 noSlots noRegs noRegs (fun _ f => dotElem 2 (fmtOfTy f.ty) (fmtOfTy f.ty)) ∧
  Multiplies .mmaf16x16x32 0x183 3
    (fun s f => (slotCheck (s.slot f.ext.fslot) [3, 4] 0 (slotSkind (s.slot f.ext.fslot) == 0)).and
      (slotCheck (s.slot f.ext.fslotb) [3, 4] 0 (slotSkind (s.slot f.ext.fslotb) == 0))) noRegs noRegs
    (fun s f => dotElem 3 (slotFormat (s.slot f.ext.fslot)) (slotFormat (s.slot f.ext.fslotb))) ∧
  Multiplies .mmaq 0x185 4
    (fun s f => Chk.all [slotCheck (s.slot f.ext.fslot) [5, 6] 0 (slotSkind (s.slot f.ext.fslot) != 0),
      slotCheck (s.slot f.ext.fslotb) [5, 6] 0 (slotSkind (s.slot f.ext.fslotb) != 0), Chk.when (isTensor s f == (f.ext.xsub == 0)) (.trap .illegal)])
    (fun _ f => [f.ext.num1.toNat, f.ext.num2.toNat]) (fun s f => if isTensor s f then [opNum f.ext.xsub] else [])
    (fun s f a b i n c =>
      let t := if isTensor s f then (s.g.sreg (opNum f.ext.xsub)).toNat else 0
      chunkAdd c ((List.range 64).map (fun k =>
        (((slotFormat (s.slot f.ext.fslot)).decode ((fragA 4).get a i k)).mul
          (fragFactor (slotSkind (s.slot f.ext.fslot)) (threads.map (s.g.vreg f.ext.num1.toNat)) (t % 2 ^ 32) i k)).mul
        (((slotFormat (s.slot f.ext.fslotb)).decode ((fragB 4).get b n k)).mul
          (fragFactor (slotSkind (s.slot f.ext.fslotb)) (threads.map (s.g.vreg f.ext.num2.toNat)) (t / 2 ^ 32) n k)))))

/-- R147: MMAI forms each element as the exact sum of C and the 32 signed products, taken modulo 2^32, or clamped to the signed range under
`.sat`; a wrapped or saturated result sets no flag. -/
def Obligations.IntegerFragmentsComplete : Prop :=
  Multiplies .mmai 0x184 3
    (fun s f => (slotCheck (s.slot f.ext.fslot) [7] 0 true).and (slotCheck (s.slot f.ext.fslotb) [7] 0 true)) noRegs noRegs
    (fun _ f a b i n c =>
      let x : Int := (BitVec.ofNat 32 c).toInt +
        ((List.range 32).map (fun k => (BitVec.ofNat 8 ((fragA 3).get a i k)).toInt * (BitVec.ofNat 8 ((fragB 3).get b n k)).toInt)).sum
      if f.mod = 1 then (BitVec.ofInt 32 (max (-2 ^ 31) (min (2 ^ 31 - 1) x))).toNat else (BitVec.ofInt 32 x).toNat)

/-- R142, R148 to R151: FRAGMOV completes with the converted or transposed fragment in flight; LDFRAG with the elements of the fragment inside the
layout's extents, padded outside; STFRAG issues the stores of those elements. A fault that the object table or a cluster finds in an element's access
is precise: LDFRAG writes no destination and STFRAG stores nothing.
Where a 4-bit element lies in its byte, in an entry of wider elements, the width of a fragment row in its address, and the zeros in a register's ignored
bytes are the model's readings (log 27); LDFRAG reads its bytes when it issues, and they arrive as one result (log 2, 60). -/
def Obligations.FragmentMovesComplete : Prop :=
  (∀ f s, Ready 0x18A f s → s.g.fragPre (form 0x18A f) f .ok [] [] = .ok →
    ∃ t, exec (.fragmov f) s = .next t ∧ Deferring s (s.reads 0x18A f) t f (form 0x18A f).d.width (threads.map (fun th => (th,
      (if f.mod = 2 then fragAcc 0 else fragA 0).run (fun r c =>
        let acc := (s.rows 0x18A f).map Row.a
        if f.mod = 0 then (s.reads 0x18A f).g.fragConv f ((fragAcc 0).get acc r c)
        else if f.mod = 1 then (s.reads 0x18A f).g.fragConv f ((fragAcc 0).get acc c r)
        else (fragAcc 0).get acc c r) th, false))) false false false) ∧
  (∀ f s l sp ls causes u vals, Ready 0x188 f s → s.g.fragPre (form 0x188 f) f (s.fragSlot f) [] [] = .ok →
    let r := s.reads 0x188 f
    let x := f.ext.xsub.toNat
    let a := s.g.uval f f.a
    let b := s.g.uval f f.b
    let q := fragOf x (s.slot f.ext.fslot)
    let accs := r.fragAccs l x a b q
    r.layout f.ext.num1.toNat = some l → r.layoutCheck l (r.layoutSpace l) rRead q.bytes false accs = .ok → r.layoutSpace l = some sp →
    (∀ c, r.fragCause sp q.bytes false accs = some c → exec (.ldfrag f) s = .next (s.trap c f.len)) ∧
    (r.fragCause sp q.bytes false accs = none → r.loads sp q.bytes false false accs = .ok ls causes → Gets r sp q.bytes accs (threadVals r ls) u vals →
      ∃ (t : State) (d : Deferred), exec (.ldfrag f) s = .next t ∧ t = { u.setG t.g with tlb := t.tlb } ∧ Completed s t f.len ∧
        (∀ l, t.byteAt l = u.byteAt l) ∧ t.g.traps = u.g.traps ++ causes.map (fun c => ⟨c, u.g.pc, u.g.seq⟩) ∧
        t.g.pending = u.g.pending ++ [d.discard u.g.discard] ∧ d.load = true ∧ d.skip = [] ∧
        (∀ th < 32, ∀ j < (form 0x188 f).d.width, let v := fragReg q (fragElem l q x a b vals) th j
          (32 * (f.d.toNat + j) + th, BitVec.ofNat 32 v.1, v.2) ∈ d.v ∧ 8 * (f.d.toNat + j) + th / 4 ∈ d.quads) ∧
        (∀ y ∈ d.v, ∃ th < 32, ∃ j < (form 0x188 f).d.width, y.1 = 32 * (f.d.toNat + j) + th) ∧
        (∀ n, Cells.get false t.g.vEmpty n = ((d.quads.contains n && !u.g.discard.contains n) || Cells.get false u.g.vEmpty n)) ∧
        t.g = { u.g with traps := t.g.traps, vEmpty := t.g.vEmpty, pending := t.g.pending, pc := t.g.pc, retired := t.g.retired, wait := t.g.wait })) ∧
  (∀ f s l sp s1, ReadyAs 0x189 f (form 0x189 f) true s → s.g.fragPre (form 0x189 f) f (s.fragSlot f) [] [] = .ok →
    let r := s.reads 0x189 f
    let x := f.ext.xsub.toNat
    let a := s.g.uval f f.a
    let b := s.g.uval f f.b
    let q := fragOf x (s.slot f.ext.fslot)
    let accs := r.fragAccs l x a b q
    let puts := accs.map (fun (e : TAcc) =>
      let v := element q.w (e.t / 32) (((s.rows 0x189 f).map Row.c).getD (e.t % 32) 0)
      let poison := Cells.get false s.g.vPoison (32 * (f.c.toNat + e.t / 32 * q.w / 32) + e.t % 32)
      if q.w = 4 then (⟨e.off, [], some (if q.upper l ((fragCoord x q a b (e.t % 32) (e.t / 32)).headD 0 % 2 == 1) then 9 else 8, .n32, v), poison⟩ : Put)
      else ⟨e.off, toLE q.bytes v, none, poison⟩)
    r.layout f.ext.num1.toNat = some l → r.layoutCheck l (r.layoutSpace l) rWrite q.bytes false accs = .ok → r.layoutSpace l = some sp →
    (∀ c, r.fragCause sp q.bytes true accs = some c → exec (.stfrag f) s = .next (s.trap c f.len)) ∧
    (r.fragCause sp q.bytes true accs = none → r.issueStores sp ⟨false, false, false, s.g.entry⟩ q.bytes false puts = .ok s1 →
      ∃ t, exec (.stfrag f) s = .next t ∧ StoreIssued s r s1 t f.len))

/-- R199, R242, R243: LDT and STT complete through a layout entry: each active thread's element is read, extended where SX says so, and in flight; one
outside the entry's extents reads as the padding value and is not stored; a 4-bit element is a half of its byte. From an object of a peer device the
values of all active threads go through the replay log (R403). LDT reads its bytes when it issues, by the model's choice (log 2). -/
def Obligations.LayoutAccessesComplete : Prop :=
  (∀ f s l sp ls causes u vals, let w := if l.bits = 64 then 2 else 1
    let fm : Form := { form 0x1C2 f with d := .dst [.v, .ix, .zero] w }
    ReadyAs 0x1C2 f fm false s → s.layout f.ext.num1.toNat = some l → layoutPre (some l) f.d f f.ext.sx = .ok →
    let r := s.readsAs f fm
    let cs := (s.rowsAs f fm).map (fun x => (x.t, coords x.a (s.g.uval f f.b)))
    let accs := (cs.filter (fun c => l.inside c.2)).map (fun c => (⟨c.1, r.layoutOff l (l.addr c.2)⟩ : TAcc))
    r.layoutCheck l (r.layoutSpace l) rRead l.bytes (f.ext.ord != 0) accs = .ok → r.layoutSpace l = some sp →
    let all := cs.map (fun c => ((threadVals r ls).find? (fun v => v.1 == c.1)).getD (c.1, l.pad % 2 ^ l.bits, false))
    r.loads sp l.bytes false false accs = .ok ls causes → Gets r sp l.bytes accs all u vals →
    ∃ t, exec (.ldt f) s = .next t ∧ Loaded s u t f w causes (cs.map (fun c =>
      let v := (vals.find? (fun v => v.1 == c.1)).getD (c.1, 0, false)
      let raw := if l.bits = 4 ∧ l.inside c.2 = true ∧ (c.2.headD 0).toNat % 2 = 1 then v.2.1 / 16 % 16 else v.2.1 % 2 ^ l.bits
      (c.1, if f.ext.sx then wrap 32 (toSigned l.bits raw) else raw, v.2.2)))) ∧
  (∀ f s l sp s1, let w := if l.bits = 64 then 2 else 1
    let fm : Form := { form 0x1C3 f with c := .gen f w }
    ReadyAs 0x1C3 f fm true s → s.layout f.ext.num1.toNat = some l → layoutPre (some l) f.c f false = .ok → (f.ext.ord = 3 → s.quiet = true) →
    let r := s.readsAs f fm
    let cs := (s.rowsAs f fm).zipIdx.filter (fun e => l.inside (coords e.1.a (s.g.uval f f.b)))
    let offs := cs.map (fun e => r.layoutOff l (l.addr (coords e.1.a (s.g.uval f f.b))))
    let puts := (cs.zip offs).map (fun (e : (Row × Nat) × Nat) =>
      let poison := s.g.dataPoison f fm (s.rowsAs f fm).length e.1.1.t e.1.2
      if l.bits = 4 then
        (⟨e.2, [], some (if ((coords e.1.1.a (s.g.uval f f.b)).headD 0).toNat % 2 = 1 then 9 else 8, .n32, e.1.1.c), poison⟩ : Put)
      else ⟨e.2, toLE l.bytes e.1.1.c, none, poison⟩)
    r.layoutCheck l (r.layoutSpace l) rWrite l.bytes (f.ext.ord != 0) ((cs.zip offs).map (fun e => (⟨e.1.1.t, e.2⟩ : TAcc))) = .ok →
    r.layoutSpace l = some sp → r.issueStores sp ⟨false, false, false, s.g.entry⟩ l.bytes false puts = .ok s1 →
    ∃ t, exec (.stt f) s = .next t ∧ StoreIssued s r s1 t f.len) ∧
  (∀ f s l, s.layout f.ext.num1.toNat = some l → s.g.status = .running → s.g.active f = [] →
    (let fm : Form := { form 0x1C2 f with d := .dst [.v, .ix, .zero] (if l.bits = 64 then 2 else 1) }
     layoutPre (some l) f.d f f.ext.sx = .ok → s.g.issue 0x1C2 f fm false = .ok →
       ∃ t, exec (.ldt f) s = .next t ∧ Passed s (s.readsAs f fm) t f.len) ∧
    (let fm : Form := { form 0x1C3 f with c := .gen f (if l.bits = 64 then 2 else 1) }
     layoutPre (some l) f.c f false = .ok → s.g.issue 0x1C3 f fm true = .ok →
       ∃ t, exec (.stt f) s = .next t ∧ Passed s (s.readsAs f fm) t f.len))

/-! ### The tile engine -/

/-- R264, R267, R270, R279, R281, R282: TMMA, TSCALE and TEPI of a legal image append their command where the ring and the counter have room. -/
def Obligations.TileCommandsAreAppended : Prop :=
  Appends .tmma 0x1A0 1 (fun r w ring i => r.mmaCheck w ring i = .ok) ∧
  Appends .tscale 0x1A2 2 (fun _ _ _ i => imgBytes i 0 8 = 0 ∧ imgBytes i 8 1 < 4 ∧ imgBytes i 9 7 = 0 ∧ imgBytes i 28 4 = 0 ∧ imgBytes i 44 20 = 0) ∧
  Appends .tepi 0x1A5 3 (fun r w ring i => r.epiCheck w ring i = .ok)

/-- R263, R283 to R285: TCFG.RING claims a ring and tiles where the core has them, and says so in a g register; TCFG.FREE gives an empty ring up;
TACCRD and TACCWR read and write a 16 by 16 part of a tile that no unretired command names; TSTAT reads the ring; TDRAIN.WAIT completes at an
empty ring, TDRAIN.ABORT leaves one.
The least free ring number is the model's choice (log 29); the mirror of the sequencer state in the ring header, and that TDRAIN.ABORT acts at once, are
its readings (log 26). -/
def Obligations.TileInstructionsComplete : Prop :=
  (∀ f s w, Ready 0x1A1 f s → s.g.wg = some w →
    let a := s.g.uval f f.a
    let off := a % 2 ^ 32
    let n := bits a 47 32
    let tiles := bits a 50 48
    let used := (s.reads 0x1A1 f).ringsOn (s.wgOf w).core
    let num := leastFree (used.map (fun e => e.2.number))
    a / 2 ^ 51 = 0 → tiles ≤ 4 → 16 ≤ n → n ≤ 1024 → n = 2 ^ Nat.log2 n → off % 4096 = 0 → off + 256 + 64 * n ≤ (s.wgOf w).size →
    ∃ t, exec (.tcfgRing f) s = .next t ∧ Completed s t f.len ∧
      ((s.wgOf w).ring = none ∧ num < maxRings ∧ (used.map (fun e => e.2.tiles)).sum + tiles ≤ maxTiles →
        (f.d.toNat % 8 ≠ 7 → t.g.gpred (f.d.toNat % 8) = true) ∧
        (∃ r, (t.wgOf w).ring = some r ∧ r.number = num ∧ r.base = off ∧ r.n = n ∧ r.tiles = tiles ∧ r.run = none ∧ r.owners = [] ∧
          (t.wgOf w).backlog r = 0) ∧ (t.wgOf w).acc = []) ∧
      (¬ ((s.wgOf w).ring = none ∧ num < maxRings ∧ (used.map (fun e => e.2.tiles)).sum + tiles ≤ maxTiles) →
        (f.d.toNat % 8 ≠ 7 → t.g.gpred (f.d.toNat % 8) = false) ∧ t.wgOf w = s.wgOf w)) ∧
  (∀ f s w, Ready 0x1A1 f s → s.g.wg = some w → (∀ r, (s.wgOf w).ring = some r → (s.wgOf w).backlog r = 0) →
    ∃ t, exec (.tcfgFree f) s = .next t ∧ Completed s t f.len ∧ (t.wgOf w).ring = none ∧ (∀ l, t.byteAt l = s.byteAt l)) ∧
  (∀ f s w r, s.g.wg = some w → (s.wgOf w).ring = some r →
    let col := s.g.uval f f.a % 2 ^ 32
    let row := s.g.uval f f.a / 2 ^ 32
    let tile := f.ext.num1.toNat
    col % 16 = 0 → col ≤ 112 → row % 16 = 0 → row ≤ 112 → tile < r.tiles → (s.wgOf w).tileBusy r tile = false →
    (Ready 0x1A3 f s → s.g.fragPre (form 0x1A3 f) f .ok [] [] = .ok →
      ∃ t d, exec (.taccrd f) s = .next t ∧ OnlyGroup s t ∧ Completed s t f.len ∧ t.g.pending = s.g.pending ++ [d] ∧
        (∀ th < 32, ∀ p < 8, (32 * (f.d.toNat + p) + th,
          (s.wgOf w).accAt tile (row + (fragAcc 0).row th) (col + (fragAcc 0).col th p),
          (s.wgOf w).accBad tile (row + (fragAcc 0).row th) (col + (fragAcc 0).col th p)) ∈ d.v)) ∧
    (Ready 0x1A4 f s → s.g.fragPre (form 0x1A4 f) f .ok [] [] = .ok →
      ∃ t, exec (.taccwr f) s = .next t ∧ Completed s t f.len ∧ (∀ l, t.byteAt l = s.byteAt l) ∧
        (∀ th < 32, ∀ p < 8, (t.wgOf w).accAt tile (row + (fragAcc 0).row th) (col + (fragAcc 0).col th p) =
          .ofNat 32 (element 32 p (((s.rows 0x1A4 f).map Row.c).getD th 0))))) ∧
  (∀ f s w, Ready 0x1A6 f s → s.g.wg = some w → ∃ t, exec (.tstat f) s = .next t ∧
    Wrote s (s.reads 0x1A6 f) t f 2 [(0, match (s.wgOf w).ring with
      | none => 0
      | some r => (s.wgOf w).backlog r % 2 ^ 16 + 2 ^ 16 * (s.wgOf w).peek (r.base + 8) 1 + 2 ^ 24 * r.tiles + 2 ^ 27 +
          2 ^ 28 * (s.core (s.wgOf w).core).scaleOff.toNat + 2 ^ 32 * (s.wgOf w).peek (r.base + 12) 4)]) ∧
  (∀ f s w, Ready 0x1A7 f s → s.g.wg = some w →
    ((∀ r, (s.wgOf w).ring = some r → (s.wgOf w).backlog r = 0) → ∃ t, exec (.tdrainWait f) s = .next t ∧ Passed s (s.reads 0x1A7 f) t f.len) ∧
    (∃ t, exec (.tdrainAbort f) s = .next t ∧ Completed s t f.len ∧
      (∀ r, (s.wgOf w).ring = some r → ∃ r', (t.wgOf w).ring = some r' ∧ r'.base = r.base ∧ r'.n = r.n ∧ r'.run = none ∧ (t.wgOf w).backlog r' = 0) ∧
      (∀ pa, t.byteAt (.mem pa) = s.byteAt (.mem pa))))

/-- The next chunk of a command: after an error status nothing is multiplied; else the tile with it added, or a status. None at a page fault. -/
def chunkStep (s : State) (w : Nat) (r : Ring) (i : BitVec 512) (c : RunCmd) (kc : Nat) : Option (Workgroup × RunCmd) :=
  if c.status ≠ 0 then some (s.wgOf w, c)
  else match s.mmaChunk w r i c kc with
    | .ok wg => some (wg, c)
    | .bad wg st => some (wg, { c with status := st })
    | .page _ => none

/-- The next `n` chunks of the command that a workgroup's ring runs. -/
def chunksRun (w : Nat) (i : BitVec 512) (kc : Nat) : Nat → State → Option State
  | 0, s => some s
  | n + 1, s =>
    match (s.wgOf w).ring with
    | none => none
    | some r => r.run.bind (fun c => (chunkStep s w r i c kc).bind (fun x =>
        chunksRun w i kc n (s.setWg w (x.1.setRing { r with run := some { x.2 with chdone := x.2.chdone + 1 } }))))

/-- A chunk number at which a command may be left: the end of a 64th k-step, or of an operand slot (R276). -/
def leaves (i : BitVec 512) (kc n : Nat) : Prop := n % (aDesc i).ksl = 0 ∨ n * kc % 64 = 0

/-- R271, R274, R276, R277: the engine starts the oldest command of the ring it serves; with both operand handles FULL, or its slot's handles held, it
runs chunks up to the next interruption point; at the end of an operand slot the handles return to FREE, and after the last slot the command's last
effect is done; at an interruption point the engine keeps its ring, or turns to the next ready one. That SCALEOFF, set while a command runs, acts at its
next operand slot is the model's reading (log 26). -/
def Obligations.MmaStepsComplete : Prop :=
  (∀ s w r, Served s w r → r.run = none → (s.wgOf w).backlog r ≠ 0 → cmdKind ((s.wgOf w).command r 0) = 1 →
    ∃ t c, exec (.mmaCommandStart w) s = .next t ∧ (t.wgOf w).ring = some { r with run := some c } ∧ c.oslot = 0 ∧ c.chdone = 0 ∧ c.finished = false ∧
      (c.status = if s.needsCache (s.wgOf w) ((s.wgOf w).command r 0) then 2 else 0) ∧ (t.wgOf w).acc = (s.wgOf w).acc) ∧
  (∀ s w r c n v r2 c2, Served s w r → r.run = some c → c.finished = false → c.paused = none →
    let i := (s.wgOf w).command r 0
    let h := slotHandles i c.oslot
    let kc := pairChunk (s.slotIn (s.wgOf w).lid (cmdSlotA i)) (s.slotIn (s.wgOf w).lid (cmdSlotB i))
    let wg := if c.holdA then s.wgOf w else (s.wgOf w).moveBoth h hDraining
    let c1 : RunCmd := { c with holdA := true, holdB := true, status := if c.status = 0 ∧ s.needsCache wg i = true then 2 else c.status }
    cmdKind i = 1 → (c.holdA = true ∨ (s.wgOf w).bothIn h hFull = true) →
    1 ≤ n → n ≤ 64 / kc → leaves i kc (c.chdone + n) → (∀ m, 1 ≤ m → m < n → ¬ leaves i kc (c.chdone + m)) →
    chunksRun w i kc n (s.setWg w (wg.setRing { r with run := some c1 })) = some v → (v.wgOf w).ring = some r2 → r2.run = some c2 →
    ∃ t r', exec (.mmaOperandSlot w) s = .next t ∧ (t.wgOf w).acc = (v.wgOf w).acc ∧ (t.wgOf w).ring = some r' ∧ c2.chdone = c.chdone + n ∧
      (t.core (s.wgOf w).core).served = r.number + 16 ∧
      (c2.chdone ≠ (c.oslot + 1) * (aDesc i).ksl → r' = r2) ∧
      (c2.chdone = (c.oslot + 1) * (aDesc i).ksl →
        r'.run = some { c2 with oslot := c.oslot + 1, holdA := false, holdB := false, finished := c2.chdone == cmdKch i } ∧
        ((t.wgOf w).handle h.1).state = hFree ∧ ((t.wgOf w).handle h.2).state = hFree ∧
        (c2.chdone = cmdKch i → r'.a = r.a.advance (s.slotIn (s.wgOf w).lid (cmdSlotA i)) (cmdKch i * kc) ∧
          r'.b = r.b.advance (s.slotIn (s.wgOf w).lid (cmdSlotB i)) (cmdKch i * kc)))) ∧
  (∀ (s : State) core,
    let served := (s.core core).served
    let ready := s.readyRings core
    (served < 16 → served ∈ ready → exec (.interruptionPoint core) s = .next s) ∧
    (¬ (served < 16 ∧ served ∈ ready) → ∀ n, (ringOrder served).find? ready.contains = some n →
      ∃ t, exec (.interruptionPoint core) s = .next t ∧ t = s.setCore core { s.core core with served := n } ∧ n ∈ ready) ∧
    (ready = [] → exec (.interruptionPoint core) s = .next s))

/-- R64, R266, R279 to R281: an EPI command applies band factors and stores, a SCALE command sets scale registers; a command whose last effect is done
retires: RIDX moves on, its operation is over, and a status other than 0 stands in the header and is reported to the group that appended it.
Where the spec leaves an edge open the model's choices are in log 26. -/
def Obligations.OtherCommandsComplete : Prop :=
  (∀ s w r, Served s w r → r.run = none → (s.wgOf w).canStart r = true → cmdKind ((s.wgOf w).command r 0) = 3 →
    let i := (s.wgOf w).command r 0
    let u := s.setWg w (s.epiApply w i)
    ∃ t r', exec (.epiCommand w) s = .next t ∧ (t.wgOf w).acc = (s.epiApply w i).acc ∧ (t.wgOf w).ring = some r' ∧
      r'.run = some ⟨0, 0, false, false, if cmdStore i then (u.epiStore w i).1 else 0, true, none⟩) ∧
  (∀ s w r, Served s w r → r.run = none → (s.wgOf w).canStart r = true → cmdKind ((s.wgOf w).command r 0) = 2 →
    let i := (s.wgOf w).command r 0
    ∃ t r', exec (.scaleCommand w) s = .next t ∧ (t.wgOf w).ring = some r' ∧
      r'.a = (if bit (imgBytes i 8 1) 0 then scaleRegsOf i 16 else r.a) ∧ r'.b = (if bit (imgBytes i 8 1) 1 then scaleRegsOf i 32 else r.b) ∧
      r'.run = some ⟨0, 0, false, false, 0, true, none⟩ ∧ (t.wgOf w).acc = (s.wgOf w).acc) ∧
  (∀ s w r c, (s.wgOf w).ring = some r → r.run = some c → c.finished = true → s.parked w = false →
    ∃ t r', exec (.tileCommandRetire w) s = .next t ∧ (t.wgOf w).ring = some r' ∧ r'.run = none ∧ r'.base = r.base ∧
      (t.wgOf w).ridx r' = ((s.wgOf w).ridx r + 1) % 2 ^ 32 ∧ (t.wgOf w).widx r' = (s.wgOf w).widx r ∧
      (c.status ≠ 0 → (t.wgOf w).peek (r.base + 8) 4 = c.status % 2 ^ 32 ∧
        (t.wgOf w).peek (r.base + 12) 4 = (cmdSeq ((s.wgOf w).command r 0)).toNat) ∧
      (∀ cause, statusCause c.status = some cause → (s.grp (r.owner (s.wgOf w)).gid).status ≠ .none →
        ⟨cause, (r.owner (s.wgOf w)).pc, (r.owner (s.wgOf w)).seq⟩ ∈ (t.grp (r.owner (s.wgOf w)).gid).traps) ∧
      (∀ pa, t.byteAt (.mem pa) = s.byteAt (.mem pa)))

/-! ### Conversion -/

/-- R49 to R51, R59, R60, R106 to R110: CVT, CVTPK, QPACK, SCALEGEN and QUNPK complete where their slots pass their checks; a result that
overflows under OVF 11 traps CONVOVF instead. -/
def Obligations.ConversionsComplete : Prop :=
  Converts .cvt 0x0A0 (fun s f => if f.mod = 0 then .ok else
      slotCheck (s.slot f.ext.fslot) cvtFmts f.ext.ovf.toNat (f.ext.xsub.toNat % 8 < perReg (slotFmt (s.slot f.ext.fslot))))
    (fun f => f.ext.ovf != 3)
    (fun s g f _ r =>
      let fmt := slotFmt (s.slot f.ext.fslot)
      let h := f.ext.xsub.toNat % 8
      let w := g.draws (g.rounding f.rnd) r.t 0
      let t := targetOfTy ((cvtTarget f).getD f.ty)
      if f.mod = 0 then (g.convert t (g.rounding f.rnd) w f.ext.ovf.toNat (g.valueOf f.ty r.a)).map (g.flushTarget t)
      else if f.mod = 1 then (g.convert (targetOf fmt) (g.rounding f.rnd) w f.ext.ovf.toNat (g.valueOf f.ty r.a)).map (putElement (fmtBits fmt) h r.c)
      else (g.convert (targetOfTy f.ty) .rne 0 0 (elemValue fmt (element (fmtBits fmt) h r.a))).map (g.flushTarget (targetOfTy f.ty))) ∧
  Converts .cvtpk 0x0A1 (fun s f => if f.mod = 0 then .ok else
      slotCheck (s.slot f.ext.fslot) cvtFmts f.ext.ovf.toNat (2 * (f.ext.xsub.toNat % 4) < perReg (slotFmt (s.slot f.ext.fslot))))
    (fun f => f.ext.ovf != 3)
    (fun s g f _ r =>
      let fmt := slotFmt (s.slot f.ext.fslot)
      let h := f.ext.xsub.toNat % 4
      let t := if f.mod = 0 then Target.fp (if f.ext.num2 = 7 then bf16 else fp16) else targetOf fmt
      let n := if f.mod = 0 then 16 else fmtBits fmt
      match g.convert t (g.rounding f.rnd) (g.draws (g.rounding f.rnd) r.t 0) f.ext.ovf.toNat (g.valueOf f.ty r.a),
          g.convert t (g.rounding f.rnd) (g.draws (g.rounding f.rnd) r.t 1) f.ext.ovf.toNat (g.valueOf f.ty r.b) with
      | some x, some y => some (if f.mod = 0 then x + 2 ^ 16 * y else putElement n (2 * h + 1) (putElement n (2 * h) r.c x) y)
      | _, _ => none) ∧
  Converts .qpack 0x0A2 (fun s f => packCheck (s.slot f.ext.fslot) f) (fun _ => false) qpackValue ∧
  Converts .scalegen 0x0A4 (fun s f => packCheck (s.slot f.ext.fslot) f) (fun _ => false)
    (fun s g f rows r => if (g.scaleOf f (s.slot f.ext.fslot) rows r).2 = true ∧ f.ext.ovf = 3 then none
      else some ((g.scaleOf f (s.slot f.ext.fslot) rows r).1 * 256)) ∧
  Converts .qunpk 0x0A3 (fun s f => slotCheck (s.slot f.ext.fslot) packFmts 0 (slotSkind (s.slot f.ext.fslot) != 0 &&
      f.ext.xsub.toNat % 8 < perReg (slotFmt (s.slot f.ext.fslot)) && (slotSkind (s.slot f.ext.fslot) == 3 || f.c == 0xF3)))
    (fun _ => false)
    (fun s g f _ r =>
      let fmt := slotFmt (s.slot f.ext.fslot)
      let k := slotSkind (s.slot f.ext.fslot)
      let x := elemValue fmt (element (fmtBits fmt) (f.ext.xsub.toNat % 8) r.a)
      let sc := scaleValue k (r.b / 256 % 256)
      let tv := g.input fp32 r.c
      some (g.result fp32 (g.rounding f.rnd) (g.draws (g.rounding f.rnd) r.t 0) (if k = 3 then [x, sc, tv] else [x, sc])
        (if k = 3 then (x.mul sc).mul tv else x.mul sc)))

/-! ### Traps -/

/-- R77, R80, R130, R134, R168 to R170, R325, R343, R352: BKPT, TRAP and a word that is no instruction take their traps. A trap under HANDLE with a
free save slot and room in the fault ring writes a record and saves the group at its instruction; under KILLGROUP the group is gone, and with it its
workgroup's, those that wait at a barrier raising BARBROKEN first; under FATAL the recorder is frozen and the context is KILLED.
Save slots are the model's state (log 14); that the members of a killed workgroup end in the same step, and an o register as A of a uniform TRAP,
are its readings (log 51, 62). -/
def Obligations.TrapsAreTaken : Prop :=
  (∀ f s, Ready 0x146 f s → exec (.bkpt f) s = .next (s.trap .bkpt f.len)) ∧
  (∀ f s, Ready 0x14A f s →
    let code := ((s.rows 0x14A f).headD ⟨0, 0, 0, 0⟩).a % 2 ^ 16
    let mask : Word := if f.u then s.g.cur else maskOf (s.g.active f)
    exec (.trap f) s = .next (s.takeTrap .softtrap s.g.pc s.g.pc (s.g.pc + .ofNat 32 f.len) s.g.seq (toLE 2 code ++ [0, 0] ++ toLE 4 mask.toNat))) ∧
  (∀ (w0 : Word) s, s.g.status = .running → exec (.unassignedOpcode w0) s = .next (s.trap .illegal (lenOfCode (w0.toNat % 4)))) ∧
  (∀ (s : State) c cont detail, s.recorderFull s.g.core = true → s.takeTrap c s.g.pc s.g.pc cont s.g.seq detail = s.stall .recorder) ∧
  (∀ (s : State) c cont detail, s.g.status = .running → s.recorderFull s.g.core = false →
    let d := (s.launch s.g.lid).lrec.disposition c
    let t := s.takeTrap c s.g.pc s.g.pc cont s.g.seq detail
    (d = 0 → c ≠ .race → ∀ slot s1, s.slotOf s.cur = some slot → s.meetQ.all (fun m => m.gid != s.cur) = true →
      (trapCrumbed s c).faultRecord s.g.ctx ⟨4, c.code, slot, s.g.seq, s.g.pc, 0, detail⟩ = .written s1 →
      s1.pinGone s.g.ctx (s1.ctx s.g.ctx).save (coreImage * (s1.partCores s.g.ctx).length + 32768 * slot) true = false →
      SavedByTrap s t slot cont ∧ (∀ l, t.byteAt l = s1.byteAt l) ∧ ∀ i, i ≠ s.cur → t.grp i = s.grp i) ∧
    (d = 1 → (t.grp s.cur).status = .none ∧ (∀ w, s.g.wg = some w → ∀ m ∈ (s.wgOf w).members, (t.grp m).status = .none)) ∧
    (2 ≤ d → (t.grp s.cur).status = .none ∧ (t.ctx s.g.ctx).state = .killed ∧ (t.core s.g.core).recorder.frozen = true))

/-! ### Tasks, pedigrees and keyed allocation -/

/-- R171 to R178, R188, R292 to R298: SPAWN with a free record and room in the hardware deque completes, writes the child's record and pushes its
descriptor, whose entry of the task table is the child's strand; SYNC of a block with no child, or whose children are merged, completes and opens the
next block; TEXIT ends the task.
Task names are the lowest free, by the model's choice (log 29). -/
def Obligations.TasksComplete : Prop :=
  (∀ f s n l, Ready 0x1E0 f s → s.g.pedIdx ≠ 65535 → s.g.pedDepth < 63 → (s.g.pc + ofs24 f).toNat < (s.g.kreg 0).length →
    (s.core s.g.core).deque.length < dequeSize → s.freeRecord s.g.ctx = some n → s.quiet = true → s.ownRecordGone = false →
    s.objRun (s.ctx s.g.ctx).trec (recordSize * n) recordSize true = some l →
    ∃ t d, exec (.spawn f) s = .next t ∧ Completed s t f.len ∧ t.g.pedIdx = s.g.pedIdx + 1 ∧
      (t.core s.g.core).deque = (s.core s.g.core).deque ++ [d] ∧ descEntry d = s.g.pc + ofs24 f ∧
      descElem d = .ofNat 32 (2 ^ 16 * s.g.pedBlk + (s.g.pedIdx + 1)) ∧ descDepth d = s.g.pedDepth + 1 ∧
      descKey d = (s.launch s.g.lid).lrec.childKey s.g.pedKey (s.g.pedDepth + 1) (descElem d).toNat ∧
      (s.g.lid < 2 ^ 64 → s.g.uval f f.a < 2 ^ 64 →
        descLaunch d = s.g.lid ∧ descArg0 d = .ofNat 64 (s.g.uval f f.a) ∧ descArg1 d = .ofNat 64 (s.g.uval f f.b)) ∧
      descAllot d = 8 * (f.c.toNat % 32) ∧ descUcount d = 8 * (f.c.toNat / 32 + 1) ∧ descRecord d = n % 2 ^ 24 ∧ descSblk d = s.g.block % 2 ^ 32 ∧
      (s.g.entry = 0 ∨ (s.task s.g.entry).state ≠ 0 → descCidx d ≠ 0 → bits d.toNat 127 116 = (s.task (descCidx d)).gen % 2 ^ 12 ∧
        t.task (descCidx d) = { s.task (descCidx d) with selem := strandElem 0 0, state := 1, ctx := s.g.ctx, fwd := 0, record := n, lid := s.g.lid }) ∧
      (l.Nodup → (∀ x ∈ l, ∃ pa, x = .mem pa) →
        let field (off k : Nat) : Nat := t.readNat ((l.drop off).take k)
        field 0 8 = s.g.root.toNat ∧ field 8 1 = s.g.pedDepth + 1 ∧ field 12 4 = s.g.recNo % 2 ^ 32 ∧ field 16 8 = descKey d ∧
        field 24 8 = s.g.lid % 2 ^ 64 ∧ ∀ i < 72, field (32 + 4 * i) 4 = ((s.spawnPath s.g ++ [descElem d]).getD i 0).toNat) ∧
      Cells.get 0 (t.ctx s.g.ctx).recs n = s.g.lid + 1 ∧
      (t.block s.g.block).items = (s.block s.g.block).items ++ [.child n false [], .strand (s.g.pedIdx + 1) []] ∧
      (∀ i, i ≠ s.cur → t.grp i = s.grp i)) ∧
  (∀ f s, Ready 0x1E1 f s → s.g.pedBlk ≠ 32767 →
    (if (s.block s.g.block).closing = true then (s.block s.g.block).items = [] else (s.block s.g.block).noChild = true) →
    ∃ t, exec (.sync f) s = .next t ∧ Completed s t f.len ∧ t.g.pedBlk = s.g.pedBlk + 1 ∧ t.g.pedIdx = 0 ∧ (∀ l, t.byteAt l = s.byteAt l) ∧
      (t.block s.g.block).closing = false ∧ (∃ v, (t.block s.g.block).items = [.strand 0 v]) ∧
      t.g = { (s.reads 0x1E1 f).g with pedBlk := t.g.pedBlk, pedIdx := t.g.pedIdx, entry := t.g.entry, pc := t.g.pc, retired := t.g.retired, wait := t.g.wait }) ∧
  (∀ f s, Ready 0x1E2 f s → ∃ t, exec (.texit f) s = .next t ∧ Ended s t ∧
    (s.g.wg = none → (∀ i, i ≠ s.cur → t.grp i = s.grp i) ∧ ∀ l, t.byteAt l = s.byteAt l))

/-- R172 to R175, R299 to R302, R305, R310: PEDRD reads the key, the position, an element of the path or the root; PEDCMP orders two elements; RNG
mixes the key with a counter; LOGW appends an entry to the strand's log; RDECL reads a declaration. -/
def Obligations.PedigreesComplete : Prop :=
  (∀ f s, Ready 0x1E3 f s →
    let d := s.g.uval f f.a % 2 ^ 7
    let row := (s.ctx s.g.ctx).trec
    (f.mod = 0 → ∃ t, exec (.pedrd f) s = .next t ∧ Wrote s (s.reads 0x1E3 f) t f 2 [(0, s.g.pedKey)]) ∧
    (f.mod = 1 → ∃ t, exec (.pedrd f) s = .next t ∧ Wrote s (s.reads 0x1E3 f) t f 2 [(0, s.g.pedIdx + 2 ^ 16 * s.g.pedBlk + 2 ^ 32 * s.g.pedDepth)]) ∧
    (f.mod = 2 → (d < 1 ∨ s.g.pedDepth < d) → ∃ t, exec (.pedrd f) s = .next t ∧
      Deferring s (s.reads 0x1E3 f) t f 2 [(0, if d = s.g.pedDepth + 1 then s.g.strand.toNat else 0, false)] true false false) ∧
    (f.mod = 2 → 1 ≤ d → d ≤ s.g.pedDepth → ∀ l, s.objRun row (recordSize * s.g.recNo + (32 + 4 * (d - 1))) 4 = some l →
      ∃ t, exec (.pedrd f) s = .next t ∧ Deferring s (s.reads 0x1E3 f) t f 2 [(0, s.readNat l, l.any s.poisonAt)] true false false) ∧
    (f.mod = 3 → s.g.pedDepth = 0 → ∃ t, exec (.pedrd f) s = .next t ∧ Wrote s (s.reads 0x1E3 f) t f 2 [(0, s.g.root.toNat)]) ∧
    (f.mod = 3 → s.g.pedDepth ≠ 0 → ∀ l, s.objRun row (recordSize * s.g.recNo + 0) 8 = some l →
      ∃ t, exec (.pedrd f) s = .next t ∧ Deferring s (s.reads 0x1E3 f) t f 2 [(0, s.readNat l, l.any s.poisonAt)] true false false)) ∧
  Chains .pedcmp 0x1E4 (fun _ _ r => pedcmp (.ofNat 32 r.a) (.ofNat 32 r.b)) ∧
  Defers .rng 0x1E5 (fun f g r => if f.mod = 0 then (rngMixed g.pedKey r.a r.t).toNat else (g.pedKey + r.a) % Config.p) ∧
  (∀ f s, Ready 0x1E8 f s → hasStrand s →
    let v : View := .log ((match Cells.get View.missing (s.viewsOf true) logKey with | .log l => l | _ => []) ++
        [logEntry s.g.root.toNat (f.ext.num1.toNat * 256 + f.ext.num2.toNat) (s.g.uval f f.a) (s.spawnPath s.g ++ [s.g.strand])])
    ViewMapped (s.reads 0x1E8 f) logKey true v → ∃ t, exec (.logw f) s = .next t ∧ Completed s t f.len ∧ (∀ l, t.byteAt l = s.byteAt l) ∧
    Cells.get View.missing (t.viewsOf true) logKey = v ∧
    t.g = { (s.reads 0x1E8 f).g with pc := t.g.pc, retired := t.g.retired, wait := t.g.wait }) ∧
  (∀ f s, Ready 0x1E9 f s → ∃ t, exec (.rdecl f) s = .next t ∧
    Wrote s (s.reads 0x1E9 f) t f 2 [(0, (s.reducer f.ext.num1.toNat).toNat % 2 ^ 64)])

/-- R303, R304, R336: ALLOCO creates a live, zeroed object under the keyed name and gives a capability to it, or clears its predicate where the heap
has no place; FREEO ends an object, whose generation rises, and clears the capability's tag.
Which free place an object takes is the model's choice (log 25). -/
def Obligations.KeyedAllocationComplete : Prop :=
  (∀ f s, Ready 0x1E6 f s →
    let size := s.g.uval f f.a
    let len := (roundLength size).1
    let k := f.d.toNat % 16
    let p := f.c.toNat % 8
    let name : DWord := .ofNat 64 ((s.g.pedKey + (s.launch s.g.lid).lrec.delta * (s.g.allocs + 1)) % Config.p)
    let key := objKey s.g.ctx name
    size % 16 = 0 → 16 ≤ size → size ≤ 2 ^ 40 → (s.obj key).live = false → (s.obj key).retired = false →
    (s.heapPlace s.g.ctx len = none → ∃ t, exec (.alloco f) s = .next t ∧ OnlyGroup s t ∧ Completed s t f.len ∧ t.g.allocs = s.g.allocs + 1 ∧
      (t.g.kreg k).tag = false ∧ (p ≠ 7 → t.g.gpred p = false) ∧ (∀ n, n ≠ k → t.g.kreg n = s.g.kreg n)) ∧
    (∀ va s1, s.heapPlace s.g.ctx len = some va → (s.reads 0x1E6 f).zeroVirt s.g.ctx (len / 65536 + 1) va len = .ok s1 →
      ∃ t, exec (.alloco f) s = .next t ∧ Completed s t f.len ∧ t.g.allocs = s.g.allocs + 1 ∧ (∀ l, t.byteAt l = s1.byteAt l) ∧
        (t.obj key).live = true ∧ (t.obj key).vbase = va ∧ (t.obj key).extent = len ∧ (t.obj key).gen = (s.obj key).gen ∧
        t.g.kreg k = Cap.make name (s.obj key).gen (allocRights f.mod.toNat) (roundLength size).2 0 (len / 2 ^ (4 + (roundLength size).2) - 1) ∧
        (t.g.kreg k).tag = true ∧ (p ≠ 7 → t.g.gpred p = true) ∧ (∀ n, n ≠ k → t.g.kreg n = s.g.kreg n) ∧ (∀ j, j ≠ key → t.obj j = s.obj j))) ∧
  (∀ f s, Ready 0x1E7 f s →
    let k := f.d.toNat % 16
    let c := s.g.kreg k
    let key := objKey s.g.ctx c.name
    Cells.get false s.g.miscPoison (miscKey 3 k) = false → c.tag = true → c.has rWrite = true → c.name.toNat < 2 ^ 61 → (s.obj key).live = true →
    (s.obj key).gen = c.gen → s.quiet = true →
    ∃ t, exec (.freeo f) s = .next t ∧ Completed s t f.len ∧ (t.obj key).live = false ∧ (t.obj key).gen = (c.gen + 1) % 256 ∧
      ((t.obj key).retired = true ↔ (s.obj key).retired = true ∨ c.gen = 255) ∧ t.g.kreg k = { c with tag := false } ∧
      (∀ n, n ≠ k → t.g.kreg n = s.g.kreg n) ∧ (∀ j, j ≠ key → t.obj j = s.obj j) ∧ (∀ l, t.byteAt l = s.byteAt l))

/-- R183 to R185, R307 to R311: RVIEW reads an element of a view; RACC and RAPP update the strand's view, thread by thread; a step of a merge combines
the first member of a closing block into its views and gives that member's space back. An update of a view whose page in the overflow object is not
mapped holds the group. Where a view's space lies is the model's choice (log 55). -/
def Obligations.ReducersComplete : Prop :=
  (∀ f s v, Ready 0x1EA f s →
    let d := s.reducer f.ext.num1.toNat
    let i := s.g.uval f f.b % 2 ^ 32
    redKind d ≠ 0 → (s.viewOf f.ext.num1.toNat d).read d (f.ext.xsub.toNat % 8) i (rndCode s.g.rred) = some v → i < redCount d →
    (s.reads 0x1EA f).viewFault ((s.reads 0x1EA f).viewKey f.ext.num1.toNat (redKind d == 2)).same = none →
    ∃ t, exec (.rview f) s = .next t ∧ Deferring s (s.reads 0x1EA f) t f 2 [(0, v, false)] false false false) ∧
  (∀ f s, Ready 0x1EB f s → hasStrand s →
    let n := f.ext.num1.toNat
    let d := s.reducer n
    redKind d ≠ 0 → isAppend d = false → f.ty = redTy d → (redKind d = 2 ∨ f.c = 0xF3) → (∀ r ∈ s.rows 0x1EB f, r.b < redCount d) →
    let v := (s.rows 0x1EB f).foldl (fun v r => v.update d r.b (r.a % 2 ^ bitsOf f.ty) r.c) (s.viewOf n d)
    (ViewMapped (s.reads 0x1EB f) n (redKind d == 2) v → ∃ t, exec (.racc f) s = .next t ∧ Viewed s (s.reads 0x1EB f) t f n v) ∧
    (∀ va, ((s.reads 0x1EB f).growView ((s.reads 0x1EB f).viewKey n (redKind d == 2)) s.g.core v.size).viewFault
        ((s.reads 0x1EB f).viewKey n (redKind d == 2)).same = some va → exec (.racc f) s = .next (s.holdFault va true))) ∧
  (∀ f s, Ready 0x1EC f s → hasStrand s → isAppend (s.reducer f.ext.num1.toNat) = true →
    let v := (s.rows 0x1EC f).foldl (fun v r => v.update (s.reducer f.ext.num1.toNat) 0 r.a 0) (s.viewOf f.ext.num1.toNat (s.reducer f.ext.num1.toNat))
    ViewMapped (s.reads 0x1EC f) f.ext.num1.toNat true v →
    ∃ t, exec (.rapp f) s = .next t ∧ Viewed s (s.reads 0x1EC f) t f f.ext.num1.toNat v) ∧
  (∀ (s : State) id m l, (s.block id).live = true → (s.block id).closing = true → (s.block id).items = m :: l →
    (match m with | .strand _ _ => True | .child _ ended _ => ended = true) →
    let b := s.block id
    let b' : Block := { b with items := l, acc := combineViews (s.launch b.lid).lrec.reds b.acc (match m with | .strand _ v => v | .child _ _ v => v) }
    let core := if (s.grp b.gid).status = .none then b.core else (s.grp b.gid).core
    ((s.viewCrumbs core (m.owns b)).growAll b' core).viewFault
      (fun v => m.owns b v || (v.lid == b.lid && v.recNo == b.recNo && v.strand == 0)) = none →
    ∃ t, exec (.viewMerge id) s = .next t ∧ t.block id = b' ∧ (∀ v ∈ t.viewSpaces, m.owns b v = true → v.recNo = b.recNo ∧ v.strand = 0) ∧
      (∀ j, j ≠ id → t.block j = s.block j) ∧ (∀ j, t.grp j = s.grp j) ∧ (∀ l, t.byteAt l = s.byteAt l))

/-! ### Collectives -/

/-- R367 to R376, R384: COLL and AMERGE of the first group of a workgroup to arrive complete, count one operation and add a member to their
instance; COLLQ reads the progress of the workgroup's last collective; the start of an instance whose ranks have all arrived reads their sources;
the completion of a member writes its reduced elements, each over the fixed tree, and its status granule.
Which members an instance holds, and elements that change meanwhile, rest on the model's readings (log 32). -/
def Obligations.CollectivesComplete : Prop :=
  (∀ (am : Bool) f s w l m, let op := if am then 0x1F2 else 0x1F0
    Ready op f s → s.g.wg = some w →
    let r := s.reads op f
    let i := s.g.image f.a
    let c := s.g.kreg (cdCcap i)
    let nmem := leNat ((l.take 4).map (fun x => (r.ownByte x).1))
    r.collCheck am i = .ok → r.loads (.obj c) 64 false false [⟨0, 0⟩] = .ok [(0, some l)] [] →
    r.loads (.obj c) 4 false false [⟨0, 64 + 4 * cdRank i⟩] = .ok [(0, some m)] [] → (∀ x ∈ l, (r.ownByte x).2 = false) →
    cdRank i < nmem → r.collRunCheck am i nmem ((r.loadNat m).1 % 256) = .ok → s.quiet = true → s.g.count 3 < 255 → s.g.collShare = [] →
    (∀ e ∈ s.colls, e.2.live = true → ∀ x ∈ e.2.members, x.wg = some w → x.done = true) →
    ∃ t j o, exec (if am then .amerge f else .coll f) s = .next t ∧ Completed s t f.len ∧ (∀ l, t.byteAt l = s.byteAt l) ∧
      t.g.count 3 = s.g.count 3 + 1 ∧
      Joined s t j (s.findColl c.name (cdTag i) (cdRank i)) ({ rank := cdRank i, amerge := am, image := i, ctx := s.g.ctx, wg := some w, packet := none, lid := s.g.lid, gids := [(s.cur, o)], data := Cap.null, mismatch := false, source := none, poison := [], done := false, paused := none, pc := s.g.pc, seq := s.g.seq } : CollMember) c.name nmem) ∧
  (∀ f s, Ready 0x1F1 f s → ∃ t, exec (.collq f) s = .next t ∧
    Wrote s (s.reads 0x1F1 f) t f 2 [(0, match s.g.wg with | some w => s.collProgress w (s.g.uval f f.a) | none => 0)]) ∧
  (∀ (s : State) i remote, let c : CollInst := { s.coll i with remote := remote }
    c.live = true → c.status = none → s.collRuns c = true → (∀ m ∈ c.members, s.collArrived m = true) →
    (∀ r < c.nmem, s.reachable (s.rankDevice c.comm r) = true) →
    (∀ x ∈ remote, x.killed = false ∧ x.rank < c.nmem ∧ s.rankDevice c.comm x.rank ≠ s.devnum) →
    c.members.length + remote.length = c.nmem →
    (startStatus c false ≠ 0 → ∃ t : State, exec (.collInstanceStart i remote) s = .next t ∧ (t.coll i).status = some (startStatus c false) ∧
      (t.coll i).members = c.members ∧ (∀ j, t.grp j = s.grp j) ∧ ∀ l, t.byteAt l = s.byteAt l) ∧
    (startStatus c false = 0 → (∀ m ∈ c.members, m.source = none ∧ m.attached = false ∧ ∃ m', s.collSource c.nmem m = .ok m') →
      ∃ t : State, exec (.collInstanceStart i remote) s = .next t ∧ (t.coll i).status = some 0 ∧ (t.coll i).members.length = c.members.length ∧
        (∀ (k : Nat) (m m' : CollMember), c.members[k]? = some m → s.collSource c.nmem m = .ok m' → (t.coll i).members[k]? = some m') ∧
        (∀ j, t.grp j = s.grp j) ∧ ∀ l, t.byteAt l = s.byteAt l)) ∧
  (∀ (s : State) i k m w cs l s1, let c := s.coll i
    c.live = true → c.status = some 0 → c.members[k]? = some m → m.done = false → m.wg = some w → m.packet = none → s.collRuns c = true →
    s.collArrived m = true → (∀ x ∈ c.members, x.source.isSome = true) → c.contribs = some cs → (∀ x ∈ cs, x.poison = []) →
    (∀ x ∈ c.remote, s.reachable (s.rankDevice c.comm x.rank) = true) → (s.wgOf w).live = true → (s.wgOf w).killed = false →
    (s.wgOf w).members ≠ [] → (∀ j < 16, (s.wgOf w).held (cdAbofs m.image + 16 + j) = false) → s.collDst m c.nmem = .ok l → s.collWrite m c l = some s1 →
    ∃ t : State, exec (.collInstanceComplete i k) s = .next t ∧
      (∀ j < 16, t.byteAt (.vault w (cdAbofs m.image + 16 + j)) =
        (toLE 16 (2 ^ 8 * c.epred.toNat + 2 ^ 9 * (c.mnan m).toNat + 2 ^ 32 * (cdTag m.image).toNat)).getD j 0) ∧
      ((t.coll i).live = false ∨ (t.coll i).members[k]? = some { m with done := true }) ∧ (∀ pa, t.byteAt (.mem pa) = s1.byteAt (.mem pa)) ∧
      (m.amerge = false → cdKind m.image ≤ 1 → ∀ e < cdCount m.image, ∀ j < etyBytes (cdEty m.image),
        let b := etyBytes (cdEty m.image)
        let at_ := ((s.launch m.lid).lrec.tileAt (cdTile m.image)).1 + cdDofs m.image + b * e + j
        let place := (if cdKind m.image = 1 then cdRank m.image * cdCount m.image else 0) + e
        (s.wgOf w).held at_ = false → at_ < cdAbofs m.image ∨ cdAbofs m.image + 32 ≤ at_ →
        t.byteAt (.vault w at_) = (toLE b (reducedElem (cdEty m.image) (cdRop m.image) (cs.map (fun x => elemOf x.bytes b place)))).getD j 0))

/-! ### Meetings -/

/-- R385 to R396: QMEET reads its words and queues a contribution; QROUND `.poll` and `.wait` queue a question, QRESYNC a resync; the unit acts on a
request that it can serve and answers it, and keeps a `.wait` for a round that is still open; requests of other devices, INIT and FINI among them,
are answered to them.
What a request with an ALLOCO name reaches, answers of peers, and the lag of a LAGDROP rest on the model's choices (log 9, 24, 31, 68). -/
def Obligations.MeetingsComplete : Prop :=
  (∀ f s (places : List (List Loc)), Ready 0x1F3 f s → s.quiet = true →
    let r := s.reads 0x1F3 f
    let b := s.g.uval f f.b
    let n := s.g.uval f f.c
    let src := s.g.kreg f.ext.num2.toNat
    r.replayRoom s.g.ctx = true → (s.g.kreg f.ext.num1.toNat).check [rRead, rWrite] = .ok → src.check [rRead] = .ok → 1 ≤ n → n ≤ 65536 → b % 4 = 0 → src.covers b (4 * n) = true →
    (List.range ((4 * n + 65535) / 65536)).map (fun k => r.loads (.obj src) (Nat.min 65536 (4 * n - 65536 * k)) false false [⟨0, b + 65536 * k⟩]) =
      places.map (fun l => .ok [(0, some l)] []) → (∀ x ∈ places.flatten, (r.ownByte x).2 = false) →
    ∃ t, exec (.qmeet f) s = .next t ∧ Asks s r t f (askOf s f 0 (bits (s.g.uval f f.a) 47 32) (s.g.uval f f.a % 2 ^ 32)
      ((List.range n).map (fun i => .ofNat 32 (elemOf (places.flatten.map (fun x => (r.ownByte x).1)) 4 i))) Cap.null 0 0)) ∧
  (∀ (block : Bool) f s, Ready 0x1F4 f s →
    let b := s.g.uval f f.b
    let n := s.g.uval f f.c
    let dst := s.g.kreg f.ext.num2.toNat
    (s.reads 0x1F4 f).replayRoom s.g.ctx = true → (s.g.kreg f.ext.num1.toNat).check [rRead, rWrite] = .ok → dst.check [rWrite] = .ok → 96 ≤ n → n % 16 = 0 → b % 16 = 0 → dst.covers b n = true →
    ∃ t, exec (if block then .qroundWait f else .qroundPoll f) s = .next t ∧
      Asks s (s.reads 0x1F4 f) t f (askOf s f (if block then 3 else 2) 0 (s.g.uval f f.a % 2 ^ 32) [] dst b n)) ∧
  (∀ f s, Ready 0x1F5 f s → (s.reads 0x1F5 f).replayRoom s.g.ctx = true → (s.g.kreg f.ext.num1.toNat).check [rRead, rWrite] = .ok →
    ∃ t, exec (.qresync f) s = .next t ∧ Asks s (s.reads 0x1F5 f) t f (askOf s f 1 (s.g.uval f f.a % 2 ^ 16) 0 [] Cap.null 0 0)) ∧
  (∀ s i m, Askable s i m →
    let key := objKey m.ctx m.req.obj
    (m.req.op = 0 → ∀ s1 w, s.contribute key m.req.rank m.req.tag m.req.dev m.req.data none = some (s1, w) →
      (s1.grp m.gid).status ≠ .none → s1.logging m.ctx = false →
      ∃ t, exec (.meetContribution (.queued i)) s = .next t ∧ Answered t m w ∧ ∀ l, t.byteAt l = s1.byteAt l) ∧
    (m.req.op = 1 → ((s.resync key m.req.rank m.req.dev).1.grp m.gid).status ≠ .none → (s.resync key m.req.rank m.req.dev).1.logging m.ctx = false →
      ∃ t, exec (.meetContribution (.queued i)) s = .next t ∧ Answered t m (s.resync key m.req.rank m.req.dev).2 ∧
      ∀ l, t.byteAt l = (s.resync key m.req.rank m.req.dev).1.byteAt l) ∧
    (2 ≤ m.req.op → s.roundCode key m.req.tag ≠ 0 → (s.roundCode key m.req.tag = 6 → m.req.op ≠ 3) →
      ∃ t, exec (.meetContribution (.queued i)) s = .next t ∧ Answered t m (meetWord (s.roundCode key m.req.tag) 0 false (s.mtCur key)) ∧
        ∀ l, t.byteAt l = s.byteAt l) ∧
    (2 ≤ m.req.op → s.roundCode key m.req.tag = 0 → ∀ l u,
      s.engineRun m.ctx m.copyTo none true ((s.roundBytes key m.req.tag m.copyLen).length / 65536 + 1) m.copyOfs (s.roundBytes key m.req.tag m.copyLen).length = .ok l →
      s.engineWrite m.copyTo l (s.roundBytes key m.req.tag m.copyLen) (s.grp m.gid).entry m.gid m.ctx (s.grp m.gid).lid (s.grp m.gid).core m.pc m.seq = some u →
      l.any (fun x => s.held x.2) = false → (u.grp m.gid).status ≠ .none → u.logging m.ctx = false →
      ∃ t, exec (.meetContribution (.queued i)) s = .next t ∧ Answered t m (meetWord 0 0 false (s.mtCur key)) ∧ ∀ l, t.byteAt l = u.byteAt l) ∧
    (m.req.op = 3 → s.roundCode key m.req.tag = 6 → ∃ t : State, exec (.meetContribution (.queued i)) s = .next t ∧
      t = { s with meetQ := s.meetQ.map (fun x => if x == m then { m with held := true } else x) })) ∧
  (∀ s (r : MeetReq), let key := s.meetKey r.obj
    r.dev ≠ s.devnum → s.reachable r.dev = true → (s.obj key).live = true → (s.obj key).home = s.devnum →
    (r.op = 4 → (∀ d, s.meetInit key = .bad d → exec (.meetContribution (.remote r)) s =
        .next (s.send (.meetStatus r.dev (.ofNat 64 (stBadPacket + 2 ^ 8 * d)) []))) ∧
      ∀ u, s.meetInit key = .ok u → exec (.meetContribution (.remote r)) s = .next (u.send (.meetStatus r.dev 0 []))) ∧
    (r.op = 5 → s.mtGone key 56 1 = none → exec (.meetContribution (.remote r)) s = .next ((s.meetFini key).send (.meetStatus r.dev 0 []))) ∧
    (s.mtFault key r none = none → s.logging (s.obj key).ctx = false →
    (r.op = 0 → ∀ s1 w, s.contribute key r.rank r.tag r.dev r.data none = some (s1, w) → s1.logging (s1.obj key).ctx = false →
      exec (.meetContribution (.remote r)) s = .next (s1.send (.meetStatus r.dev w []))) ∧
    (r.op = 1 → (let s1 := (s.resync key r.rank r.dev).1; s1.logging (s1.obj key).ctx = false) → exec (.meetContribution (.remote r)) s =
      .next ((s.resync key r.rank r.dev).1.send (.meetStatus r.dev (s.resync key r.rank r.dev).2 []))) ∧
    (2 ≤ r.op → r.op ≤ 3 → (s.roundCode key r.tag = 6 → r.op ≠ 3) → exec (.meetContribution (.remote r)) s =
      .next (s.send (.meetStatus r.dev (meetWord (s.roundCode key r.tag) 0 false (s.mtCur key))
        (if s.roundCode key r.tag = 0 then s.roundBytes key r.tag (slotBytes (s.mtCount key)) else []))))))

/-! ### Placement -/

/-- A saved group is berthed on a core again, with its registers and program counter as they were; a pending GROW is met, and an instruction that a
fault held issues again (R32, R349, R350). -/
structure Restored (s t : State) (core gid : Nat) : Prop where
  status : (t.grp gid).status = if (s.grp gid).live = 0 then .ending else .running
  core : (t.grp gid).core = core
  pc : (t.grp gid).pc = (s.grp gid).pc
  v : (t.grp gid).v = (s.grp gid).v
  sregs : (t.grp gid).s = (s.grp gid).s
  wait : (t.grp gid).wait = match (s.grp gid).grown.wait with | .hold _ => .none | w => w
  allot : (t.grp gid).allot = (s.grp gid).grown.allot

/-- A task of this descriptor runs on a core, with its launch, entry, key and arguments (R178, R295). -/
def TaskStarted (t : State) (core : Nat) (d : BitVec 512) : Prop :=
  ∃ gid, let g := t.grp gid
    g.status = .running ∧ g.core = core ∧ g.lid = descLaunch d ∧ g.pc = descEntry d ∧ g.allot = descAllot d ∧ g.pedKey = descKey d ∧
    g.pedDepth = descDepth d ∧ g.recNo = descRecord d ∧ g.sreg 0 = g.root ∧ g.sreg 1 = descArg0 d ∧ g.sreg 2 = descArg1 d ∧
    (t.block g.block).parent = some (descSblk d)

/-- The group of a core that an eviction takes: for register growth first, then for a candidate that waits (R32, R163). -/
def evictee (s : State) (core : Nat) : Option Nat :=
  (List.range pairCount).findSome? (s.growVictim core) <|> if s.starved core then s.pickVictim false (s.waiters core) else none

/-! ### Launches, packets and placement -/

/-- R327, R331, R332, R427: LAUNCH of a queue of this device publishes its packet and reads the index into flight, or all ones where the ring is full;
POSTRES issues its reduction; EVMARK writes its two crumbs; a launch whose work is over writes its reducers and log and completes.
When a launch counts as complete rests on the model's reading (log 35). -/
def Obligations.LaunchesComplete : Prop :=
  (∀ f s l, Ready 0x1F6 f s →
    let r := s.reads 0x1F6 f
    let img := s.g.image f.a
    let c := s.g.kreg f.ext.num1.toNat
    imgBytes img 4 4 = 0 → r.accCheck (some (.obj c)) [rRead, rWrite] 64 false [⟨0, c.start⟩] = .ok → s.quiet = true →
    r.loads (.obj c) 64 false true [⟨0, c.start⟩] = .ok [(0, some l)] [] → r.ownPending [(0, some l)] = false →
    (∀ x ∈ l, r.poisonAt x = false) → r.isPeer (.obj c) = false →
    let d := Queue.ofImage (.ofNat 512 (r.readNat l))
    (d.slots ≤ d.widx - d.ridx → ∃ t, exec (.launch f) s = .next t ∧ Deferring s r t f 2 [(0, 2 ^ 64 - 1, false)] false false false) ∧
    (d.widx - d.ridx < d.slots → (r.obj d.ring.toNat).live = true → 64 * d.slots ≤ (r.obj d.ring.toNat).extent →
      ∀ s1, r.publish c c.start l d img = some s1 → s1.g.status = .running →
      ∃ t e, exec (.launch f) s = .next t ∧ Completed s1 t f.len ∧ (∀ l, t.byteAt l = s1.byteAt l) ∧ t.g.pending = s1.g.pending ++ [e] ∧
        (kindOf f.d = .s → e.s = some (opNum f.d, .ofNat 64 d.widx, false)))) ∧
  (∀ f s s1, Ready 0x1F7 f s →
    let r := s.reads 0x1F7 f
    let l := s.launch s.g.lid
    let c := l.caps.getD l.lrec.rescap Cap.null
    l.lrec.rescap ≠ 255 → r.accCheck (some (.obj c)) [rWrite] 8 true [⟨0, l.lrec.resofs⟩] = .ok → s.quiet = true →
    r.issueStores (.obj c) ⟨false, false, true, s.g.entry⟩ 8 false
      [⟨l.lrec.resofs, [], some (if f.mod = 0 then 2 else if f.mod = 1 then 4 else 0, .n64, s.g.uval f f.a), false⟩] = .ok s1 →
    ∃ t, exec (.postres f) s = .next t ∧ StoreIssued s r s1 t f.len) ∧
  (∀ f s, Ready 0x1F8 f s → s.recorderFull s.g.core = true → exec (.evmark f) s = .next (s.stall .recorder)) ∧
  (∀ f s, Ready 0x1F8 f s → s.recorderFull s.g.core = false → ∃ t, exec (.evmark f) s = .next t ∧ Completed s t f.len ∧ (∀ l, t.byteAt l = s.byteAt l) ∧
    t.g = { (s.reads 0x1F8 f).g with pc := t.g.pc, retired := t.g.retired, wait := t.g.wait } ∧
    (t.core s.g.core).recorder =
      ((s.core s.g.core).recorder.add (s.core s.g.core).cycle s.g.ctx 0x06 (gBody s.g.pc s.g.seq (s.g.uval f f.b % 2 ^ 16))).add
        (s.core s.g.core).cycle s.g.ctx 0x07 (if kindOf f.a = .imm then immOperand f 2 else s.g.uval f f.a)) ∧
  (∀ (s : State) lid, let l := s.launch lid
    l.live = true → s.launchBusy lid = false → s.attachedBusy lid = false →
    (l.killed = false → l.nWg ≤ l.nextWg → (s.ctx l.ctx).state = .running → ∀ s1 s2 t, s.writeReducers l l.views (List.range 16) = some s1 →
      s1.appendLog l.ctx (match Cells.get View.missing l.views logKey with | .log x => x | _ => []) = some s2 →
      (s2.freeLaunch lid).launchStatus l lid stOk = some t → exec (.launchComplete lid) s = .next t ∧ (t.launch lid).live = false) ∧
    (l.killed = true → ∀ t, (s.freeLaunch lid).launchStatus l lid stKilled = some t →
      exec (.launchComplete lid) s = .next t ∧ (t.launch lid).live = false))

/-- R320 to R330, R378, R391: each packet that passes R322 and may start does what its type says: NOP and a record that is rejected complete, a
record that passes starts a launch, COPY gives a copy to a core of the queue's die, DEPEND waits and completes once its dependences have, GRAPH
starts a graph whose steps follow its nodes, COLL adds a member, and the MEET operations act on their object; a restarted queue is no longer halted.
When a packet's memory is read rests on the model's reading (log 33, 35). -/
def Obligations.PacketsComplete : Prop :=
  (∀ s s1 ctx q p d t, Starts s s1 ctx q 0 p d → s1.packetDone ctx q p.index 0 0 = some t → exec (.nopPacket ctx q) s = .next t) ∧
  (∀ s s1 ctx q p d, Starts s s1 ctx q 1 p d → imgBytes p.image 8 8 % 64 = 0 →
    let start := s1.startTurn ctx q p.index false d (imgBytes p.image 16 2) (imgBytes p.image 8 8)
    (∀ lid t, start = .started lid t → exec (.launchPacket ctx q) s = .next t ∧ (t.launch lid).live = true ∧ (t.launch lid).ctx = ctx ∧
      (t.launch lid).queue = q ∧ (t.launch lid).index = p.index) ∧
    (∀ st det t, start = .reject st det → s1.packetDone ctx q p.index st det = some t → exec (.launchPacket ctx q) s = .next t)) ∧
  (∀ s s1 ctx q p d sc dc core, Starts s s1 ctx q 2 p d → copyHandle p.image = 0xFFFF → imgBytes p.image 52 4 = 0 → imgBytes p.image 48 2 < 16 →
    imgBytes p.image 44 4 < 2 ^ 16 → copyOk p.image = true → s1.queueCap d (imgBytes p.image 24 2) = some sc → s1.queueCap d (imgBytes p.image 26 2) = some dc →
    s1.copyCheck sc none rRead (copySpan p.image false) = .ok → s1.copyCheck dc none rWrite (copySpan p.image true) = .ok →
    s1.dieCores d.die = [core] →
    ∃ t c, exec (.copyPacket ctx q) s = .next t ∧ (t.core core).copies = (s1.core core).copies ++ [c] ∧ c.image = p.image ∧ c.src = sc ∧ c.dst = dc ∧
      c.queue = some (q, p.index) ∧ c.pos = 0 ∧ ∀ l, t.byteAt l = s1.byteAt l) ∧
  (∀ s s1 ctx q p d, Starts s s1 ctx q 3 p d → imgBytes p.image 8 1 ≤ 6 → exec (.depend ctx q) s = .next s1) ∧
  (∀ (s : State) ctx q p t, (s.packetsOf ctx q).find? (fun p => pktType p.image == 3 && p.started && p.done.isNone) = some p →
    (s.ctx ctx).state = .running → (∀ x ∈ deps p.image, ∃ e, s.queue ctx x.1 = some e ∧ x.2 < e.cidx) →
    let bad := (deps p.image).any (fun x => s.failed.contains (ctx, x.1, x.2))
    s.packetDone ctx q p.index (if bad then 13 else 0) 0 = some t →
    exec (.dependComplete ctx q) s = .next (if bad && pktStop p.image then { t with halted := (ctx, q) :: t.halted } else t)) ∧
  (∀ s s1 ctx q p d c, Starts s s1 ctx q 4 p d → imgBytes p.image 8 8 % 64 = 0 → imgBytes p.image 20 4 ≠ 0 →
    s1.queueCap d (imgBytes p.image 16 2) = some c →
    ∃ t r, exec (.graph ctx q) s = .next t ∧ t = { s1 with graphs := s1.graphs ++ [r] } ∧ r.ctx = ctx ∧ r.queue = q ∧ r.index = p.index ∧ r.gcap = c ∧
      r.gofs = imgBytes p.image 8 8 ∧ r.node = imgBytes p.image 18 2 ∧ r.steps = 0 ∧ r.lid = 0 ∧ r.result = none) ∧
  (∀ (s : State) ctx q r b d, (s.graphs.filter (fun r => r.ctx == ctx && r.queue == q)).head? = some r → (s.ctx ctx).state = .running →
    s.graphNode r = .ok b → s.queue ctx q = some d →
    (∀ x, r.result = some x → x % 256 = 0 → nextNode b (x / 256) ≠ 0xFFFF →
      exec (.graphStep ctx q) s = .next (s.graphPut r (some { r with node := nextNode b (x / 256), lid := 0, result := none }))) ∧
    (∀ x t, r.result = some x → x % 256 = 0 → nextNode b (x / 256) = 0xFFFF → s.graphEnd r 0 0 = some t → exec (.graphStep ctx q) s = .next t) ∧
    (r.result = none → r.lid = 0 → r.steps ≠ r.maxsteps → recField b 0 8 % 64 = 0 → ∀ lid t,
      s.startTurn ctx q r.index true d (recField b 8 2) (recField b 0 8) = .started lid t →
      exec (.graphStep ctx q) s = .next (t.graphPut r (some { r with steps := r.steps + 1, lid := lid }))) ∧
    (∀ x t, r.result = some x → x % 256 ≠ 0 → s.graphEnd r (x % 256) 0 = some t → exec (.graphStep ctx q) s = .next t) ∧
    (∀ t, r.result = none → r.lid = 0 → r.steps = r.maxsteps → s.graphEnd r 14 0 = some t → exec (.graphStep ctx q) s = .next t)) ∧
  (∀ s s1 ctx q p d c b comm data n, Starts s s1 ctx q 5 p d → s1.queueCap d (imgBytes p.image 16 2) = some c →
    s1.pilotRead ctx c (imgBytes p.image 8 8) 64 = .ok b →
    let i : BitVec 512 := .ofNat 512 (leNat b)
    s1.queueCap d (cdCcap i) = some comm → s1.queueCap d (cdDcap i) = some data → (s1.ctx ctx).colln ≠ 0 → collFieldsOk i 1 = true →
    s.commWait ctx comm (cdRank i) (accessId 0 q p.index) = none → s1.collDesc ctx i comm data = some n →
    exec (.collPacket ctx q) s = .next (s1.collMember ctx 0 (some (q, p.index)) i comm data n).2) ∧
  (∀ s s1 ctx q p d key, Meets s s1 ctx q 0 p d key → (s1.obj key).home = s1.devnum → s1.mtGone key 0 1024 = none →
    (∀ off t, s1.initCheck key = some off → s1.packetDone ctx q p.index 1 off = some t → exec (.meetInit ctx q) s = .next t) ∧
    (s1.initCheck key = none → (s1.obj key).extent < 1024 + 64 * s1.mtNmem key * s1.mtCount key + slotBytes (s1.mtCount key) * s1.mtRn key →
      ∀ t, s1.packetDone ctx q p.index 1 0xFFFFFF = some t → exec (.meetInit ctx q) s = .next t) ∧
    (s1.initCheck key = none → 1024 + 64 * s1.mtNmem key * s1.mtCount key + slotBytes (s1.mtCount key) * s1.mtRn key ≤ (s1.obj key).extent →
      let slots := (List.range (s1.mtRn key)).map (fun i => 1024 + 64 * s1.mtNmem key * s1.mtCount key + slotBytes (s1.mtCount key) * i + 4)
      (∀ o ∈ slots, s1.mtGone key o 4 = none) →
      let v := slots.foldl (fun s o => s.mtPut key o 4 0) (s1.mtPut key 48 8 0)
      let u := v.mtPut key 56 1 (v.mt key 56 1 / 2 * 2 + 1)
      ∀ t, (u.setMeeting key { Meeting.blank with live := true }).packetDone ctx q p.index 0 0 = some t →
        exec (.meetInit ctx q) s = .next t ∧ (t.meeting key).live = true)) ∧
  (∀ s s1 ctx q p d key, Meets s s1 ctx q 1 p d key → (s1.obj key).home = s1.devnum → s1.mtGone key 56 1 = none → ∀ t,
    ((s1.mtPut key 56 1 (s1.mt key 56 1 / 2 * 2)).setMeeting key Meeting.blank).packetDone ctx q p.index 0 0 = some t →
    exec (.meetFini ctx q) s = .next t ∧ (t.meeting key).live = false) ∧
  (∀ s s1 ctx q p d key c, Meets s s1 ctx q 2 p d key → (s1.obj key).home = s1.devnum → s1.mtLive key = true →
    s1.mtHead key = none → s1.logging (s1.obj key).ctx = false → s1.queueCap d (imgBytes p.image 12 2) = some c → imgBytes p.image 24 8 % 4 = 0 →
    let n := s1.mtCount key
    ∀ blocks : List (List Byte), (List.range ((4 * n + 65535) / 65536)).map (fun k => s1.pilotRead ctx c (imgBytes p.image 24 8 + 65536 * k) (Nat.min 65536 (4 * n - 65536 * k))) =
      blocks.map PilotRead.ok →
      let data : List Word := (List.range n).map (fun k => .ofNat 32 (elemOf blocks.flatten 4 k))
      s1.mtFault key ⟨.ofNat 64 key, 0, imgBytes p.image 14 2, imgBytes p.image 16 4, data, s1.devnum⟩ none = none → ∀ s2 w t,
      s1.contribute key (imgBytes p.image 14 2) (imgBytes p.image 16 4) s1.devnum data none = some (s2, w) →
      s2.logging (s2.obj key).ctx = false → s2.packetDone ctx q p.index 0 (wordDetail w) = some t → exec (.meetContrib ctx q) s = .next t) ∧
  (∀ s s1 ctx q p d key t, Meets s s1 ctx q 3 p d key → (s1.obj key).home = s1.devnum → s1.mtHead key = none →
    (let s2 := (s1.resync key (imgBytes p.image 14 2) s1.devnum).1; s2.logging (s2.obj key).ctx = false) →
    (s1.resync key (imgBytes p.image 14 2) s1.devnum).1.packetDone ctx q p.index 0 (wordDetail (s1.resync key (imgBytes p.image 14 2) s1.devnum).2) = some t →
    exec (.meetResync ctx q) s = .next t) ∧
  (∀ (s : State) ctx q, ∃ t, exec (.queueRestart ctx q) s = .next t ∧ t = { s with halted := t.halted } ∧
    ∀ x, x ∈ t.halted ↔ x ∈ s.halted ∧ x ≠ (ctx, q))

/-- R154 to R158, R163, R177 to R182, R209, R210, R350, R399, R401: the distributor places the workgroup that is next, its groups running in the berths
chosen; a core that has room restores a saved group, an image or a workgroup, with the registers as they were, or starts the task that a pop of its
deque takes; without room it evicts the group that R163 names; a thief starts the task that it takes; a copy that has moved every chunk ends, its
handle FULL, and leaves its engine, but for one that writes a host object and waits once more.
Places in a core, and which of two equal candidates goes first, are the model's choice (log 29, 69). -/
def Obligations.PlacementComplete : Prop :=
  (∀ (s : State) lid p t, s.dispatchable lid = some p → s.placeWg lid p = some t →
    let l := (s.launch lid).lrec
    let wg := t.wgOf s.nextId
    exec (.workgroupDispatch lid) s = .next t ∧ ((t.ctx (s.launch lid).ctx).state = .running →
    wg.live = true ∧ wg.lid = lid ∧ wg.core = p.core ∧ wg.id = p.id ∧ wg.size = l.window ∧ wg.nHandles = l.handles ∧
    wg.members.length = p.berths.length ∧
    (0 ∉ wg.members → ∀ (i gid berth : Nat), wg.members[i]? = some gid → p.berths[i]? = some berth →
      let g := t.grp gid
      g.status = .running ∧ g.wg = some s.nextId ∧ g.lid = lid ∧ g.core = p.core ∧ g.berth = berth ∧ g.pc = .ofNat 32 l.entry ∧ g.live = 0xFFFFFFFF ∧
      g.root = .ofNat 64 (p.id * 2 ^ (5 + l.w1) + 32 * i) ∧ g.sreg 0 = g.root))) ∧
  (∀ (s : State) core, core < s.liveCores.length → s.restorable core ≠ [] →
    ∃ t, ∃ e ∈ s.restorable core, exec (.berthFill core) s = .next t ∧ Restored s t core e.1 ∧ (t.grp e.1).berth = e.2 ∧ (t.grp e.1).slot = none ∧
      (∀ i, i ≠ e.1 → t.grp i = { s.grp i with rank := (t.grp i).rank }) ∧ ∀ l, t.byteAt l = s.byteAt l) ∧
  (∀ (s : State) core t, core < s.liveCores.length → s.restorable core = [] → (s.runningOn core).findSome? (s.restoreImage core) = some t →
    exec (.berthFill core) s = .next t ∧ ∃ ctx ∈ s.runningOn core, (s.ctx ctx).det = true ∧ ∀ gid slot how, (s.grp gid).status = .saved slot how →
      how ≠ .evict → how ≠ .handle → (s.grp gid).ctx = ctx → (s.grp gid).core = core → Restored s t core gid ∧ (t.grp gid).sched = (s.grp gid).sched) ∧
  (∀ (s : State) core t, core < s.liveCores.length → s.restorable core = [] → (s.runningOn core).findSome? (s.restoreImage core) = none →
    s.wgs.findSome? (fun e => s.restoreWg core e.1) = some t →
    exec (.berthFill core) s = .next t ∧ ∃ w, (s.wgOf w).core = noCore ∧ (t.wgOf w).core = core ∧ ∀ gid ∈ s.returning w, Restored s t core gid) ∧
  (∀ (s : State) core t, core < s.liveCores.length → s.fill core = some t → exec (.berthFill core) s = .next t ∧
    (s.restorable core = [] → (s.runningOn core).findSome? (s.restoreImage core) = none → s.wgs.findSome? (fun e => s.restoreWg core e.1) = none →
      ∀ u d, s.filled core = some u → u.bottom core = some d → u.taskFits core d = true → u.killedAbove 65 (descSblk d) = false → TaskStarted t core d)) ∧
  (∀ (s : State) core, core < s.liveCores.length → s.fill core = none →
    (∀ t, s.evictOne core = some t → exec (.berthFill core) s = .next t) ∧
    (s.evictOne core = none → exec (.berthFill core) s = .next (s.popFault core)) ∧
    (∀ gid slot, evictee s core = some gid → s.slotOf gid = some slot → s.meetQ.all (fun m => m.gid != gid) = true →
      (let n := (s.grp gid).ctx
       s.pinGone n (s.ctx n).save (coreImage * (s.partCores n).length + 32768 * slot) true = false) →
      ∃ t, exec (.berthFill core) s = .next t ∧ (t.grp gid).status = .saved slot .evict ∧ (t.grp gid).slot = some slot ∧
        (t.grp gid).pc = (s.grp gid).pc ∧ (t.grp gid).pending = [] ∧ (∀ i, i ≠ gid → t.grp i = s.grp i) ∧ ∀ l, t.byteAt l = s.byteAt l)) ∧
  (∀ (s : State) thief victim x, 0 < s.freeBerths thief → s.fill thief = none → (∀ e ∈ s.launches, s.placesAt e.1 thief = false) →
    (s.runningOn thief).find? (fun x => (s.openCores x).contains thief && s.mayRob x thief victim) = some x →
    (∀ t, s.stealTask x thief victim = some t → exec (.stealRequest thief victim) s = .next (t.tried x thief true) ∧
      ∀ d, (if 0 < (s.over x victim).count then s.ringEntry x victim (s.over x victim).top
          else ((s.core victim).deque.find? (fun d => s.descCtx d == x)).map (fun d => (d, false))) = some (d, false) →
        s.killedAbove 65 (descSblk d) = false → TaskStarted (t.tried x thief true) thief d) ∧
    (s.stealTask x thief victim = none → exec (.stealRequest thief victim) s = .next ((s.stealFault x thief victim).tried x thief false))) ∧
  (∀ (s : State) core c s1, (s.core core).copies.find? (fun c => c.paused.isNone && !c.held s) = some c →
    s.moveChunks core c (c.chunks - c.pos) c.pos = .done s1 →
    let c1 : Copy := { c with pos := c.chunks }
    let put (c' : Copy) : State := s1.setCore core { s1.core core with copies := (s1.core core).copies.map (fun x => if x == c then c' else x) }
    (c.toHost s = true → c.sent = false → exec (.copyComplete core) s = .next (put { c1 with sent := true })) ∧
    ((c.toHost s = false ∨ c.sent = true) →
      (∀ t, (put c1).copyEnd core c1 none = some t → exec (.copyComplete core) s = .next t) ∧
      (c.queue = none → (∀ w, c.wg = some w → copyHandle c.image ≠ 0xFFFF → (s1.wgOf w).live = true → (s1.wgOf w).killed = false →
          ((s1.wgOf w).handle (copyHandle c.image)).state = hFilling) →
        ∃ t, exec (.copyComplete core) s = .next t ∧ (t.core core).copies = ((put c1).core core).copies.erase c1 ∧
          (∀ w, c.wg = some w → copyHandle c.image ≠ 0xFFFF → (s1.wgOf w).live = true → (s1.wgOf w).killed = false → (s1.wgOf w).members ≠ [] →
            ((t.wgOf w).handle (copyHandle c.image)).state = hFull) ∧
          ∀ pa, t.byteAt (.mem pa) = s1.byteAt (.mem pa))))

/-! ### Contexts -/

/-- R350 to R355: CTXOP on a free context answers 1, in a state that its operation does not act in 2; else it answers 0: pre-emption starts SAVING,
resumption of a SAVED context that nothing blocks makes it RUNNING, a kill leaves it KILLED with no group and completes once no launch of it is left,
a mapped page ends the holds on it and performs the stores of the side log that wait for it, an
invalidation drops the cached translations, and completes once the range's older stores are performed, a handled trap is retried, continued or killed; `.flags` and `.state` answer the state word.
Some answers rest on the model's readings (log 36). -/
def Obligations.ContextOperationsComplete : Prop :=
  (∀ e ∈ ctxopTable, ∀ f s n st, CtxCall f s n 0 st →
    (st = .free → ∃ t, exec (e.1 f) s = .next t ∧ Wrote s (s.reads 0x1F9 f) t f 2 [(0, 1)]) ∧
    (st ≠ .free → st ∉ e.2 → ∃ t, exec (e.1 f) s = .next t ∧ Wrote s (s.reads 0x1F9 f) t f 2 [(0, 2)])) ∧
  (∀ f s n, CtxCall f s n 0 .running → ∃ t, exec (.ctxopPreempt f) s = .next t ∧ Coded s t f 0 ∧ (t.ctx n).state = .saving ∧
    (∀ m, m ≠ n → t.ctx m = s.ctx m) ∧ ∀ l, t.byteAt l = s.byteAt l) ∧
  (∀ f s n, CtxCall f s n 0 .saved → (s.reads 0x1F9 f).blocked n = false →
    ∃ t, exec (.ctxopResume f) s = .next t ∧ Coded s t f 0 ∧ (t.ctx n).state = .running ∧ (t.ctx n).image = []) ∧
  (∀ f s n st, CtxCall f s n 0 st → st = .running ∨ st = .saving ∨ st = .saved → ∃ t, exec (.ctxopKill f) s = .next t ∧ (t.ctx n).state = .killed ∧
    (∀ i, (s.grp i).ctx = n → (s.grp i).status ≠ .none → (t.grp i).status = .none) ∧
    (n ≠ s.g.ctx → (∀ i w, (s.grp i).ctx = n → (s.grp i).wg = some w → s.cur ∉ (s.wgOf w).members) →
      (s.ending n = false → Coded s t f 0) ∧ (s.ending n = true → t.stalled = true ∧ t.g.ctxWait = some n))) ∧
  (∀ f s n, Ready 0x1F9 f s → (s.ctx s.g.ctx).sys = true → s.g.uval f f.a = n → n < 64 → s.g.ctxWait = some n → s.ending n = false →
    ∃ t, exec (.ctxopKill f) s = .next t ∧ Coded s t f 0 ∧ t.g.ctxWait = none) ∧
  (∀ f s n st, CtxCall f s n 0 st → st = .running ∨ st = .saved → s.sideLog = [] →
    let p := (s.reads 0x1F9 f).pageAt n (s.g.uval f f.b)
    ∃ t, exec (.ctxopMapdone f) s = .next t ∧ Coded s t f 0 ∧ (∀ l, t.byteAt l = s.byteAt l) ∧
      ∀ i va, i ≠ s.cur → (s.grp i).ctx = n → (s.grp i).wait = .hold va → (t.grp i).wait = if p.1 ≤ va ∧ va < p.2 then .none else .hold va) ∧
  (∀ f s n st q parts, CtxCall f s n 0 st → st = .running ∨ st = .saved → s.sideLog = [q] → q.ctx = n →
    let p := (s.reads 0x1F9 f).pageAt n (s.g.uval f f.b)
    p.1 ≤ q.va → q.va < p.2 → s.current q = true → s.meetDrops q = false → (∀ x ∈ q.parts, x.shadow = none) →
    allMapped (q.parts.map s.mapPart) = some parts → s.stores.any (fun x => s.orders x q && ({ q with parts := parts } : PStore).meets x) = false →
    ∃ t, exec (.ctxopMapdone f) s = .next t ∧ Coded s t f 0 ∧ t.sideLog = [] ∧ Performed s t q.tag q.setFull parts) ∧
  (∀ f s n st, CtxCall f s n 0 st → st ≠ .free → ∃ t, exec (.ctxopTlbinv f) s = .next t ∧
    (s.rangeOwed n (s.g.uval f f.b) (s.g.uval f f.b + s.g.uval f f.c) = false → Coded s t f 0) ∧
    (s.rangeOwed n (s.g.uval f f.b) (s.g.uval f f.b + s.g.uval f f.c) = true → t.stalled = true) ∧
    (∀ e, e ∈ t.tlb ↔ e ∈ s.tlb ∧ ¬ (e.ctx = n ∧ e.va < s.g.uval f f.b + s.g.uval f f.c ∧ s.g.uval f f.b < e.va + e.size)) ∧
    ∀ l, t.byteAt l = s.byteAt l) ∧
  (∀ f s n slot st gid, CtxCall f s n slot st → st = .running ∨ st = .saved → (s.reads 0x1F9 f).handledIn n slot = some gid →
    (s.grp gid).status = .saved slot .handle →
    let g := s.grp gid
    (s.g.uval f f.b = 0 → ∃ t, exec (.ctxopTrapres f) s = .next t ∧ Coded s t f 0 ∧ t.grp gid = { g with status := .saved slot .soft }) ∧
    (s.g.uval f f.b = 1 → ∃ t, exec (.ctxopTrapres f) s = .next t ∧ Coded s t f 0 ∧ (t.grp gid).status = .saved slot .soft ∧ (t.grp gid).pc = g.contPc) ∧
    (s.g.uval f f.b = 2 → ∃ t, exec (.ctxopTrapres f) s = .next t ∧ (t.grp gid).status = .none)) ∧
  (∀ f s n st, CtxCall f s n 0 st →
    (∃ t, exec (.ctxopState f) s = .next t ∧ Wrote s (s.reads 0x1F9 f) t f 2 [(0, (s.reads 0x1F9 f).stateWord n)]) ∧
    (∃ t, exec (.ctxopFlags f) s = .next t ∧ Coded s t f (.ofNat 64 ((s.reads 0x1F9 f).stateWord n)) ∧ (st ≠ .free →
      t.ctx n = { s.ctx n with degraded := (s.ctx n).degraded && !bit (s.g.uval f f.b) 8, marked := (s.ctx n).marked && !bit (s.g.uval f f.b) 9, hard := (s.ctx n).hard && !bit (s.g.uval f f.b) 10,
                               replayUsed := if bit (s.g.uval f f.b) 9 then [] else (s.ctx n).replayUsed })))

/-! ### Results, walks, asynchronous traps and hard pre-emption -/

/-- R33, R165, R190 to R192, R197, R204, R236, R240, R339 to R343, R362: a result in flight of a berthed group is written and leaves the flight; a walk
that finds its page ends the hold, or performs the side-logged store, that it was made for; an asynchronous trap is taken with the group between
instructions; a CHECKED store goes through the race filter granule by granule; a store to a remote window writes it, and one to a peer sends its bytes
and marks there, and the REMOTE count falls with the last line; a group that pre-emption has waited for long enough is saved hard.
The order of walks, of results and of an asynchronous trap are the model's choices (log 14, 36, 60). -/
def Obligations.ResultsAndTrapsComplete : Prop :=
  (∀ (load : Bool) (s : State) gid i d, (s.grp gid).pending[i]? = some d → d.load = load → (s.grp gid).resident = true → (s.grp gid).quadBefore i d = false →
    ∃ t, exec (if load then .loadResultArrive gid i else .deferredResultWrite gid i) s = .next t ∧
      t.grp gid = ({ s.grp gid with pending := (s.grp gid).pending.eraseIdx i } : Group).arrive d ∧ (∀ j, j ≠ gid → t.grp j = s.grp j) ∧
      (∀ q, Cells.get false (t.grp gid).vEmpty q = if q ∈ d.quads then false else Cells.get false (s.grp gid).vEmpty q) ∧
      ((d.v.map Prod.fst).Nodup → ∀ e ∈ d.v, Cells.get 0 (t.grp gid).v e.1 = e.2.1 ∧ Cells.get false (t.grp gid).vPoison e.1 = e.2.2) ∧
      (∀ k, k ∉ d.v.map Prod.fst → Cells.get 0 (t.grp gid).v k = Cells.get 0 (s.grp gid).v k) ∧
      (∀ n v p, d.s = some (n, v, p) → (t.grp gid).sreg n = v ∧ Cells.get false (t.grp gid).sEmpty n = false) ∧
      (∀ n, d.s.map Prod.fst ≠ some n → (t.grp gid).sreg n = (s.grp gid).sreg n) ∧ (t.grp gid).pc = (s.grp gid).pc ∧
      ∀ l, t.byteAt l = s.byteAt l) ∧
  (∀ (s : State) die w l p, s.walkOrder die = w :: l → s.walk w.ctx w.va = some p → (w.write = true → p.write = true) →
    (w.kind ≠ 2 → ∃ t, exec (.pageWalk die) s = .next t ∧ t.walks = s.walks.erase w ∧ t.sideLog = s.sideLog ∧
      (w.kind = 1 → (s.grp w.gid).ctx = w.ctx → (s.grp w.gid).wait = .hold w.va → (t.grp w.gid).wait = .none) ∧
      (∀ j, j ≠ w.gid ∨ w.kind ≠ 1 → t.grp j = s.grp j) ∧ ∀ l, t.byteAt l = s.byteAt l) ∧
    (w.kind = 2 → ∀ i q parts, let r := ({ s with walks := s.walks.erase w } : State).cachePage w.ctx w.va
      s.sideLog.findIdx? (fun x => x.ctx == w.ctx && x.va == w.va && x.gid == w.gid && x.pc == w.pc && x.seq == w.seq) = some i → s.sideLog[i]? = some q →
      (∀ x ∈ s.sideLog.take i, x.core = q.core ∨ s.orders x q = true → q.meets x = false) → s.current q = true → s.meetDrops q = false →
      (∀ x ∈ q.parts, x.shadow = none) → allMapped (q.parts.map r.mapPart) = some parts →
      s.stores.any (fun x => s.orders x q && ({ q with parts := parts } : PStore).meets x) = false →
      ∃ t, exec (.pageWalk die) s = .next t ∧ t.walks = s.walks.erase w ∧ t.sideLog = s.sideLog.eraseIdx i ∧ Performed s t q.tag q.setFull parts)) ∧
  (∀ (s : State) die w l t, s.walkOrder die = w :: l → s.walk w.ctx w.va = none → ({ s with walks := s.walks.erase w } : State).walkFails w = some t →
    exec (.pageWalk die) s = .next t) ∧
  (∀ (s : State) gid a l, (s.grp gid).traps = a :: l → (s.grp gid).status = .running → (s.grp gid).feDone = [] → s.saveWaits gid a.cause = false →
    let g := s.grp gid
    let r := (({ s with cur := gid } : State).setGrp gid { g with traps := l }).takeTrap a.cause a.pc g.pc g.pc a.seq []
    r.stalled = false → exec (.asyncTrapDeliver gid) s = .next { r with cur := s.cur }) ∧
  (∀ (s : State) i p, s.stores[i]? = some p → p.kind = .checked → s.storeReady i = true → s.current p = true → allLocal p.parts → s.meetDrops p = false →
    let u : State := { s with stores := s.stores.eraseIdx i }
    (passes p u p.parts → ∃ t, exec (.raceFilterCheck i) s = .next t ∧ t.stores = s.stores.eraseIdx i ∧ Performed s t p.tag p.setFull p.parts ∧
      KeepsGroups s t) ∧
    (p.op = 0 → ∀ t, Filtering p u p.parts t → exec (.raceFilterCheck i) s = .next t)) ∧
  (∀ (s : State) i p, s.stores[i]? = some p → p.kind = .remote → s.storeReady i = true →
    (s.current p = false ∨ s.windowGone p = true → ∃ t, exec (.remoteWritePerformed i) s = .next t ∧ t.stores = s.stores.eraseIdx i ∧
      (∀ l, t.byteAt l = s.byteAt l) ∧ RemoteCounted s t i p ∧ t.outbox = s.outbox ∧
      ((s.grp p.gid).status ≠ .none → (t.grp p.gid).traps = (s.grp p.gid).traps ++ [⟨.capinvalid, p.pc, p.seq⟩])) ∧
    (s.current p = true → s.windowGone p = false →
      (allLocal p.parts → s.meetDrops p = false → (∀ q ∈ p.parts, q.shadow = none) → ∃ t, exec (.remoteWritePerformed i) s = .next t ∧
        t.stores = s.stores.eraseIdx i ∧ Performed s t p.tag p.setFull p.parts ∧ RemoteCounted s t i p ∧ KeepsGroups s t) ∧
      ((∃ b ∈ bytesOf p.parts, s.cutOff b.1 = true) → ∃ t, exec (.remoteWritePerformed i) s = .next t ∧ t.stores = s.stores.eraseIdx i ∧
        (∀ l, t.byteAt l = s.byteAt l) ∧ RemoteCounted s t i p ∧ t.outbox = s.outbox ∧
        ((s.grp p.gid).status ≠ .none → (t.grp p.gid).traps = (s.grp p.gid).traps ++ [⟨.poison, p.pc, p.seq⟩])) ∧
      (s.meetDrops p = false → (∀ q ∈ p.parts, q.red = [] ∧ q.shadow = none) →
        (∀ b ∈ bytesOf p.parts, ∃ n off, b.1 = .peer n off ∧ s.cutOff b.1 = false) → ∃ t, exec (.remoteWritePerformed i) s = .next t ∧
        t.stores = s.stores.eraseIdx i ∧ (∀ l, t.byteAt l = s.byteAt l) ∧ RemoteCounted s t i p ∧ KeepsGroups s t ∧
        (p.tag = false → (∀ q ∈ p.parts, q.poison = false) → t.outbox = (bytesOf p.parts).reverse.map (peerWrite s) ++ s.outbox) ∧
        (∀ b ∈ bytesOf p.parts, peerWrite s b ∈ t.outbox) ∧
        (∀ q ∈ p.parts, q.poison = true → ∀ b ∈ q.bytes, ∀ n off, b.1 = .peer n off →
          .poisonPeer (s.obj n).home (.ofNat 64 n) (off / 16 * 16) ∈ t.outbox)) ∧
      (∀ q r, s.meetDrops p = false → p.parts = [q] → q.bytes = [] → q.red = [r] → q.shadow = none → q.poison = false →
        (∀ x ∈ r.1, ∃ n off, x = .peer n off ∧ s.cutOff x = false) → ∃ t, exec (.remoteWritePerformed i) s = .next t ∧
        t.stores = s.stores.eraseIdx i ∧ (∀ l, t.byteAt l = s.byteAt l) ∧ RemoteCounted s t i p ∧ KeepsGroups s t ∧
        t.outbox = (match aopApply r.2.1 r.2.2.1 (s.readNat r.1) r.2.2.2 0 with
          | some v => (r.1.zip (toLE r.1.length v)).reverse.map (peerWrite s)
          | none => []) ++ s.outbox))) ∧
  (∀ (s : State) gid, let g := s.grp gid
    g.status = .running → (s.ctx g.ctx).state = .saving → s.mustFinish gid = false → s.recorderFull g.core = false → s.meetQ.all (fun m => m.gid != gid) = true → ∀ slot, s.slotOf gid = some slot →
    s.pinGone g.ctx (s.ctx g.ctx).save (coreImage * (s.partCores g.ctx).length + 32768 * slot) true = false →
    let saved (t : State) : Prop := (t.grp gid).status = .saved slot .hard ∧ (t.grp gid).pc = g.pc ∧ (t.grp gid).pending = [] ∧ (t.ctx g.ctx).hard = true
    (hardCount ≤ g.issuedSince → ∃ t, exec (.hardPreemptCount gid) s = .next t ∧ saved t) ∧
    ((s.ctx g.ctx).det = false → g.wait.fixed = true → hardWait ≤ (s.core g.core).cycle - g.lastIssue →
      ∃ t, exec (.hardPreemptWait gid) s = .next t ∧ saved t))

/-! ### Debug requests and the recorder -/

/-- R414, R416, R419 to R424, R428 to R433: a debug request with its capability asks the groups it names to stop or resume, which they do when the step
ends and the recorder has room, reads or writes a register of a stopped group and discards the results on their way to it, or sets a sample ring; a tag
whose results are written ends a window of samples; a TICK crumb marks bit 29 of the cycle count; a freeze message freezes a core; the capsule of the
first 8 origins, with what was noted at the freeze, is stored once every core is frozen, and the cores record again.
Register codes, and when the results of a tagged instruction count as written, rest on the model's readings (log 42). -/
def Obligations.DebugAndRecorderComplete : Prop :=
  (∀ (s : State) r slot, Up s → s.debugOk r = true →
    (∃ t, exec (.stop r slot) s = .next t ∧ (∀ l, t.byteAt l = s.byteAt l) ∧
      ∀ gid, t.grp gid = if gid ∈ s.debugGroups r.ctx slot then { s.grp gid with stopReq := !(s.grp gid).stopped } else s.grp gid) ∧
    (∃ t, exec (.resume r slot) s = .next t ∧ (∀ l, t.byteAt l = s.byteAt l) ∧
      ∀ gid, t.grp gid = if gid ∈ s.debugGroups r.ctx slot then { s.grp gid with stopReq := (s.grp gid).stopped } else s.grp gid)) ∧
  (∀ (s : State) gid, let g := s.grp gid
    g.stopReq = true → s.recorderFull g.core = false →
    (g.stopped = true → (s.stopGroup gid).grp gid = { g with stopped := false, stopReq := false }) ∧
    (g.stopped = false → g.status = .running → g.feDone = [] → s.mustFinish gid = false →
      (s.stopGroup gid).grp gid = { g with stopped := true, stopReq := false })) ∧
  (∀ (s : State) r gid reg, Up s → s.debugOk r = true → s.stoppedGroup r gid = true →
    (∀ l, s.regValues (s.grp gid) reg = some l → exec (.readreg r gid reg) s = .next ((s.send (.register l)).send (.answer true))) ∧
    (∀ v u, s.regPut gid reg v = some u → ∃ t, exec (.writereg r gid reg v) s = .next t ∧ t.outbox = .answer true :: u.outbox ∧
      (∀ l, t.byteAt l = u.byteAt l) ∧ (t.grp gid).pending = (s.grp gid).pending.map (fun d => d.discard (regMarks reg)) ∧
      (t.grp gid).discard = (s.grp gid).discard ++ u.heldMarks gid reg ∧
      t.meetQ = s.meetQ.map (fun m => if m.writes gid reg then { m with skip := true } else m) ∧
      (∀ n x, reg = .s n → v = [x] → (t.grp gid).sreg n = x) ∧
      (∀ n th, reg = .v n → th < 32 → (t.grp gid).vreg n th = (v.getD th 0).toNat % 2 ^ 32))) ∧
  (∀ (s : State) r ring, Up s → s.debugOk r = true →
    (∃ t, exec (.sampcfg r ring none) s = .next t ∧ (t.ctx r.ctx).sampN = 0) ∧
    (∀ k, 10 ≤ k → k ≤ 24 → (s.obj ring.toNat).live = true → (s.obj ring.toNat).ctx = r.ctx →
      ∃ t, exec (.sampcfg r ring (some k)) s = .next t ∧ (t.ctx r.ctx).sampN = k ∧ (t.ctx r.ctx).sampRing = ring)) ∧
  (∀ (s : State) core sched i, let d := Cells.get Sched.reset (s.core core).scheds sched
    d.ins = some i → s.tagDue d = true → (s.obj (s.ctx i.ctx).sampRing.toNat).checked = false →
    ∃ t, exec (.sampleTag core sched) s = .next t ∧ (Cells.get Sched.reset (t.core core).scheds sched).issues = 0 ∧
      (Cells.get Sched.reset (t.core core).scheds sched).ins = none ∧ (∀ j, t.grp j = s.grp j) ∧
      ((s.ctx i.ctx).sampN = 0 → ∀ l, t.byteAt l = s.byteAt l)) ∧
  (∀ (s : State) core, let c := s.core core
    bit c.cycle 29 ≠ c.recorder.tick → ∃ t, exec (.tick core) s = .next t ∧
      (t.core core).recorder = { c.recorder.add c.cycle 0 0x3D c.cycle with tick := bit c.cycle 29 } ∧ ∀ k, k ≠ core → t.core k = s.core k) ∧
  (∀ (s : State) core o l, core ∈ s.freezing → s.origins = o :: l → (s.core core).recorder.frozen = false →
    ∃ t, exec (.freezeMessage core) s = .next t ∧ core ∉ t.freezing ∧ (t.core core).recorder.frozen = true ∧
      (t.core core).recorder.fcycle = (s.core core).cycle ∧ ∀ k, k ≠ core → t.core k = s.core k) ∧
  (∀ (s : State), s.origins ≠ [] → (∀ c < s.liveCores.length, (s.core c).recorder.frozen = true) →
    ∃ t c, exec .capsuleCollect s = .next t ∧ t.capno = s.capno + 1 ∧ c.no = s.capno + 1 ∧ t.capsules.getLast? = some c ∧
      t.flashCapsules.getLast? = some c ∧ t.origins = [] ∧ t.freezing = [] ∧ (∀ o, o ∈ c.origins ↔ o ∈ s.origins.take 8) ∧
      (∀ n, s.frozenNote = some n → c.meas = n.meas ∧ c.lcs = n.lcs ∧ c.resets = n.resets ∧ c.insts = n.insts) ∧
      ∀ k < s.liveCores.length, (t.core k).recorder.frozen = false)

/-! ### The fabric and the host ports -/

/-- R358 to R366: a flit that the device forms has its fields and a good CRC; a flit in sequence is accepted and frees the replay buffer, a
link-control flit has the rest sent again, and another is refused with a link-control flit that asks for the one expected; a port retrains after 16
failed replays, received or sent, and is down after 3 failed retrainings, until system software retrains it; numbers and routes are set; a host's WRITE, READ and atomics act on the
registered window, and a request outside the subset puts its queue pair into error.
The counts that lead to retraining, and the RoCE codes, rest on the model's readings (log 38). -/
def Obligations.FabricComplete : Prop :=
  (∀ seq ack kind payload, seq < 4096 → ack < 4096 → kind < 256 → let x := mkFlit seq ack kind payload
    flitOk x = true ∧ flitSeq x = seq ∧ flitAck x = ack ∧ flitKind x = kind) ∧
  (∀ (s : State) port flit, s.portLive port = true → (s.port port).down = false →
    (flitOk flit = true → flitSeq flit = (s.port port).expect → ∃ t, exec (.flitReceive port flit) s = .next t ∧
      (t.port port).expect = ((s.port port).expect + 1) % 4096 ∧ (t.port port).failed = 0 ∧ (t.port port).asking = false ∧ (∀ p, p ≠ port → t.port p = s.port p) ∧
      ((s.port port).replay.length ≤ replayFlits → (t.port port).replay.length ≤ replayFlits) ∧
      (flitKind flit = 4 → ∀ x ∈ ((s.port port).acked (flitAck flit)).replay, .flit port x ∈ t.outbox)) ∧
    (flitOk flit = false ∨ flitSeq flit ≠ (s.port port).expect → ∃ t, exec (.flitReceive port flit) s = .next t ∧
      (t.port port).expect = (s.port port).expect ∧ (t.port port).asking = true ∧
      (t.port port).failed = (s.port port).failed + (if (s.port port).asking = true ∧ flitOk flit = false then 1 else 0) ∧
      (flitOk flit = false ∨ (s.port port).asking = false → (s.port port).replay.length < replayFlits →
        .flit port (mkFlit (s.port port).next (s.port port).expect 4 0) ∈ t.outbox))) ∧
  (∀ (s : State) port, s.portLive port = true →
    ((s.port port).down = false → 16 ≤ (s.port port).failed ∨ 16 ≤ (s.port port).again →
      (∃ t, exec (.portRetrain port true) s = .next t ∧ (t.port port).failed = 0 ∧ (t.port port).again = 0 ∧ (t.port port).retrains = 0) ∧
      (∃ t, exec (.portRetrain port false) s = .next t ∧ (t.port port).retrains = (s.port port).retrains + 1)) ∧
    ((s.port port).down = false → 3 ≤ (s.port port).retrains → ∃ t, exec (.portDown port) s = .next t ∧ (t.port port).down = true ∧
      t.replaceReq = true) ∧
    (∃ t, exec (.retrainRequest port) s = .next t ∧ (t.port port).down = false ∧ (t.port port).failed = 0 ∧ (t.port port).retrains = 0)) ∧
  (∀ (s : State) n, n < 256 → exec (.deviceNumberSet n) s = .next { s with devnum := n }) ∧
  (∀ (s : State) dev w, dev < 256 → dev = s.devnum ∨ s.unanswered dev = false → ∃ t, exec (.routeTableWrite dev w) s = .next t ∧
    t = { s with routes := t.routes } ∧ ∀ d, Cells.get 0 t.routes d = if d = dev then w &&& 0x1FFFFFF else Cells.get 0 s.routes d) ∧
  (∀ (s : State) port qp rkey addr, s.qpServes port qp = true →
    (∀ data l, s.hostRun rkey addr data.length [rWrite] true = .ok l → ∃ t, exec (.rdmaWrite port qp rkey addr data) s = .next t ∧
      ∀ x, t.byteAt x = ((s.hostMark rkey addr data.length).store (l.zip data) false).byteAt x) ∧
    (∀ data, s.hostRun rkey addr data.length [rWrite] true = .nak → exec (.rdmaWrite port qp rkey addr data) s = .next (s.send (.nak port qp true))) ∧
    (∀ len l, Cells.get [] s.capViews rkey.toNat = [] → s.hostRun rkey addr len [rRead] false = .ok l →
      exec (.rdmaRead port qp rkey addr len) s = .next (s.send (.rdmaData port qp (l.map s.byteAt)))) ∧
    (∀ len, Cells.get [] s.capViews rkey.toNat ≠ [] → addr + len ≤ (Cells.get [] s.capViews rkey.toNat).length →
      exec (.rdmaRead port qp rkey addr len) s = .next (s.send (.rdmaData port qp (((Cells.get [] s.capViews rkey.toNat).drop addr).take len)))) ∧
    (∀ l, addr % 8 = 0 → s.hostRun rkey addr 8 [rRead, rWrite] true = .ok l →
      let old := s.readNat l
      (∀ v : DWord, exec (.atomicFetchAdd port qp rkey addr v) s =
        .next (((s.hostMark rkey addr 8).hostStore l (toLE 8 ((old + v.toNat) % 2 ^ 64))).send (.atomicOld port qp (.ofNat 64 old)))) ∧
      (∀ cmp swp : DWord, exec (.atomicCompareSwap port qp rkey addr cmp swp) s =
        .next ((if old = cmp.toNat then (s.hostMark rkey addr 8).hostStore l (toLE 8 swp.toNat) else s).send (.atomicOld port qp (.ofNat 64 old))))) ∧
    (∀ op : Byte, op.toNat ∉ roceOpcodes → ∃ t, exec (.invalidRequestNak port qp op) s = .next t ∧ (t.qpOf port qp).error = true ∧
      t.outbox = .nak port qp false :: s.outbox) ∧
    (∃ t, exec (.congestionNotificationPacket port qp) s = .next t ∧ t = { s with qps := t.qps } ∧ (t.qpOf port qp).error = false)) ∧
  (∀ (s : State) port prio quanta, port < 2 → prio < 8 → quanta < 2 ^ 16 → ∃ t, exec (.priorityFlowControlFrame port prio quanta) s = .next t ∧
    t = { s with paused := t.paused } ∧ ∀ k, Cells.get 0 t.paused k = if k = 8 * port + prio then quanta else Cells.get 0 s.paused k)

/-! ### The report protocol and the Harbourmaster -/

/-- R423 to R426, R451 to R455: ATTEST and a CAPSULE-READ with its value take a leaf of the identity key and answer; a challenge is kept until the
next UNLOCK; an UNLOCK with a good token wipes every tenant key, opens the debug port and counts.
Signatures, keys and random bytes are free values (log 10, 40). -/
def Obligations.ReportsComplete : Prop :=
  (∀ (s : State) h nonce, Heard s h 1 32 → s.trust.identity = true → s.trust.leaf < 2 ^ 25 →
    ∃ t, exec (.attest h nonce) s = .next t ∧ t.trust = { s.trust with leaf := s.trust.leaf + 1 } ∧
      (let b := (s.setTrust t.trust).attestation s.trust.leaf nonce
       t = (s.setTrust t.trust).respond h 1 0 (b ++ toLE 4 3124 ++ signature s.trust.leaf b))) ∧
  (∀ (s : State) h capno (cap : BitVec 128) c v, Heard s h 2 24 → s.trust.identity = true → s.trust.leaf < 2 ^ 25 → s.findCapsule capno = some c →
    c.insts.find? (fun e => e.2 == cap.toNat / 2 ^ 64) = some v → c.holds v.1 = true →
    (∃ e ∈ s.capReads, e.1 = cap.toNat / 2 ^ 64 ∧ e.2.toNat = cap.toNat % 2 ^ 64) →
    ∃ t, exec (.capsuleRead h capno cap) s = .next t ∧ t.trust = { s.trust with leaf := s.trust.leaf + 1 } ∧
      (let view := c.view v.1 s.resets
       Cells.get [] t.capViews (s.setTrust t.trust).freeRkey = view ++ toLE 4 3124 ++ signature s.trust.leaf view)) ∧
  (∀ (s : State) h, Heard s h 3 0 → ∃ t c, exec (.unlockChallenge h) s = .next t ∧ t.trust = { s.trust with challenge := some c } ∧
    t = (s.setTrust t.trust).respond h 3 0 (toLE 32 c.toNat)) ∧
  (∀ (s : State) h tok, Heard s h 4 (52 + tok.sig.length) → s.trust.lifecycle = .deployed → s.trust.unlocks < 64 → tokenOk tok s.trust.challenge = true →
    ∃ t, exec (.unlock h tok) s = .next t ∧ t.trust.lifecycle = .debugUnlocked ∧ t.trust.portOpen = true ∧ t.trust.wipe = false ∧
      t.regs = [] ∧ t.hostObjs = [] ∧ t.commKeys = [] ∧ t.capReads = [] ∧ t.capsules = [] ∧ t.flashCapsules = [])

/-- R334 to R348, R353, R365, R366, R430, R439 to R448, R452: the Harbourmaster's requests with legal arguments have their effects and are answered.
What an answer holds where the spec does not say rests on the model's choices (log 39). -/
def Obligations.HarbourmasterComplete : Prop :=
  ∀ s : State, s.trust.hmUp = true →
  (∀ dev, dev < 256 → dev ≠ s.devnum →
    (s.trust.seed = true → s.trust.identity = true →
      exec (.keyExchangeQuery dev) s = .next (s.send (.keys dev (Config.kemKey 0 ++ Config.kemKey 1 ++ Config.kemKey 2)))) ∧
    (s.trust.seed = false ∨ s.trust.identity = false → exec (.keyExchangeQuery dev) s = .next s)) ∧
  (∀ dev name gen ct wrapped k, s.trust.seed = true → dev < 256 → dev ≠ s.devnum → gen < 256 → ct ≠ [] → Config.kemUnwrap ct wrapped (keyBind name gen) = some k →
    exec (.keyInstall dev name gen ct wrapped) s =
      .next (({ s with commKeys := Cells.put s.commKeys (keyIndex name gen) k } : State).send (.answer true))) ∧
  (s.trust.pilotUp = true →
    (∀ ctx arr granule image u, let c : Cap := ⟨image, true⟩
      s.placeOk ctx arr granule c = true → c.rights &&& (s.obj (objKey ctx c.name)).held = c.rights → s.placeCap ctx arr granule c = some u →
      exec (.placecap ctx arr granule image) s = .next (u.send (.answer true))) ∧
    (∀ r, objectOk r = true → (s.obj r.name.toNat).live = false → (s.obj r.name.toNat).retired = false → ∃ t, exec (.objectCreate r) s = .next t ∧
      t.obj r.name.toNat = { s.obj r.name.toNat with live := true, vbase := r.vbase, extent := r.extent, pin := r.pin, caparr := r.caparr, checked := r.checked, home := r.home, ctx := r.ctx, shofs := r.shofs } ∧
      (∀ k, k ≠ r.name.toNat → t.obj k = s.obj k) ∧ t.outbox = .answer true :: s.outbox) ∧
    (∀ ctx name, (s.obj (objKey ctx name)).live = true → (s.obj (objKey ctx name)).ctx = ctx → ∃ t, exec (.objectRevoke ctx name) s = .next t ∧
      (t.obj (objKey ctx name)).live = false ∧ (t.obj (objKey ctx name)).gen = ((s.obj (objKey ctx name)).gen + 1) % 256) ∧
    (∀ n desc arr granule debugName u, s.creatable n desc = true →
      let a := s.setCtx n { describedCtx desc with inst := s.ctxInst + 1 }
      let b := a.setCtx n { a.ctx n with state := if a.blocked n then .saved else .running }
      b.debugObject n debugName arr granule = some u → ∃ t, exec (.contextCreate n desc arr granule debugName) s = .next t ∧
        (t.ctx n).state = (if a.blocked n then .saved else .running) ∧ (t.ctx n).inst = s.ctxInst + 1 ∧ (t.ctx n).root = descNat desc 0 8 ∧
        (t.ctx n).debugObj = debugName ∧ t.ctxInst = s.ctxInst + 1 ∧ t.outbox.head? = some (.answer true)) ∧
    (∀ ctx, ctx < 64 → (s.ctx ctx).state ≠ .free → ∃ t, exec (.contextDestroy ctx) s = .next t ∧ (t.ctx ctx).state = .free ∧
      t.outbox.head? = some (.answer true)) ∧
    (∀ type phys, s.unitLive type phys = true → (type = 1 → 0 < s.coresLeft phys) → (type = 4 → ∀ e ∈ s.ctxs, e.2.state = .free) →
      ∃ t, exec (.retire type phys) s = .next t ∧ (type, phys) ∈ t.retirePending ∧ t.retiredUnits = s.retiredUnits) ∧
    (∀ p core, s.logicalCore p = some core → s.mmaRuns core = false → ∃ t, exec (.scaleon p) s = .next t ∧
      ((t.core core).scaleOff = false ∧ t.outbox = .answer true :: s.outbox ∨ t = s.send (.answer false))) ∧
    (∀ ctx u, let key := (s.ctx ctx).debugObj.toNat
      ctx < 64 → (s.ctx ctx).state ≠ .free → (s.obj key).gen ≠ 255 →
      (s.setObj key { s.obj key with gen := (s.obj key).gen + 1 }).placeDebug ctx (s.ctx ctx).debugObj (s.ctx ctx).debugArr (s.ctx ctx).debugGranule = some u →
      exec (.revokeDebug ctx) s = .next (u.send (.answer true))) ∧
    (∀ ctx comm answers acks switchKeys flags devs wrapped, let o := s.obj comm.toNat
      s.objNat comm 4 4 = some flags → s.memberDevices comm = some devs → systemName comm = true → o.live = true → o.ctx = ctx → bit flags 1 = true →
      switchKeys.length ≤ 16 → wrapAll (Config.random s.freeCount) (keyBind comm o.gen) answers devs = some wrapped → (∀ d ∈ devs, d ∈ acks) →
      (s.objRun comm 4 4 true).isSome = true →
      ∃ t, exec (.commkey ctx comm answers acks switchKeys) s = .next t ∧
        t.commKeys = Cells.put s.commKeys (keyIndex comm o.gen) (Config.random s.freeCount) ∧ t.outbox.head? = some (.answer true)) ∧
    (∀ stevedore image, imageOk image (if stevedore then s.trust.stFuse else s.trust.hmFuse) = true →
      exec (.svnRaise stevedore image) s =
        .next ((s.setTrust (if stevedore then { s.trust with stFuse := image.svn.toNat } else { s.trust with hmFuse := image.svn.toNat })).send (.answer true))) ∧
    (s.trust.lifecycle = .provisioned → exec .deploy s = .next ((s.setTrust { s.trust with lifecycle := .deployed }).send (.answer true))) ∧
    (∀ sig, s.trust.lifecycle = .deployed → Config.hssVerify 2 deviceBytes sig = true → ∃ t, exec (.returnToken sig) s = .next t ∧
      t.trust.lifecycle = .returned ∧ t.regs = [] ∧ t.commKeys = [] ∧ t.capReads = []) ∧
    (∀ sig, s.trust.lifecycle = .returned → Config.hssVerify 3 deviceBytes sig = true → exec (.decommission sig) s =
      .next ((s.setTrust { s.trust with lifecycle := .decommissioned, seed := false, identity := false }).send (.answer true))) ∧
    (∀ type phys n, s.unitExists type phys = true → ∃ t, exec (.thresholdSet type phys n) s = .next t ∧
      t.healthOf type phys = { s.healthOf type phys with threshold := n }) ∧
    (∀ mw, 2000000 ≤ mw → mw ≤ 4500000 → exec (.powerCapSet mw) s = .next (({ s with powerCap := mw } : State).send (.answer true))) ∧
    (∀ name, systemName name = true → (s.obj name.toNat).live = true →
      exec (.errorRingSetup name) s = .next (({ s with errRing := some name } : State).send (.answer true))) ∧
    (∀ (rkey : Word) ctx image, image ≠ 0 → ctx < 64 → s.regs.length < 65536 → ∃ t, exec (.registrationWrite rkey ctx image) s = .next t ∧
      Cells.get RegEntry.none t.regs rkey.toNat = ⟨true, ctx, ⟨image, true⟩⟩) ∧
    (∀ i (name : DWord) port qp rkey addr len, i < 4096 → name.toNat / 2 ^ 62 = 3 → port < 2 → qp < 2 ^ 14 →
      ∃ t, exec (.hostObjectWrite i name port qp rkey addr len) s = .next t ∧
        Cells.get HostObj.none t.hostObjs i = ⟨true, name, port, qp, rkey, addr, len⟩) ∧
    exec .enumerationRead s = .next (s.send (.enumeration s.enumTable)))

/-! ### Errors, limits, time slices and resets -/

/-- R346, R434, R438 to R446, R449, R450: an error that ECC does not correct marks its register or granule; a window of the health records ends; the
clocks follow power and heat; the pilot switches time slices; a reset with good images boots both images, and a warm one loses the contexts that were
running; a loss of power leaves nothing but fuses and flash; provisioning makes the identity key.
What a reset keeps and how a limit moves the clock rest on the model's choices (log 37, 41). -/
def Obligations.HealthAndResetsComplete : Prop :=
  (∀ site corrected (s : State), ∃ t, exec (.errorDetect site corrected) s = .next t) ∧
  (∀ (s : State) gid reg th, (s.grp gid).resident = true → reg < 176 → th < 32 → (∀ r, s.errRing = some r → (s.obj r.toNat).checked = false) →
    let p := s.physCore (s.grp gid).core
    (∃ t, exec (.errorDetect (.vreg gid reg th) false) s = .next t ∧ Cells.get false (t.grp gid).vPoison (32 * reg + th) = true ∧
      (t.healthOf 1 p).uncorrectable = (s.healthOf 1 p).uncorrectable + 1) ∧
    (∃ t, exec (.errorDetect (.vreg gid reg th) true) s = .next t ∧ (∀ i, t.grp i = s.grp i) ∧
      (t.healthOf 1 p).corrected = (s.healthOf 1 p).corrected + 1)) ∧
  (∀ (s : State), (s.health.map Prod.fst).Nodup → ∃ t, exec .healthWindowExpire s = .next t ∧
    ∀ type phys, t.healthOf type phys = (s.healthOf type phys).expire) ∧
  (∀ (s : State) mw, ∃ t, exec (.powerLimit mw) s = .next t ∧ t.power = mw ∧ ∀ d < 4, t.clock d =
    if s.powerCap ≤ mw then (if d ∈ s.tripped then 1200 else max 1200 (s.clock d - 100))
    else if 100 < Cells.get 0 s.temps d then s.clock d else if d ∈ s.tripped then 1200 else min 3600 (s.clock d + 100)) ∧
  (∀ (s : State) d celsius, d < 4 → ∃ t, exec (.thermalThrottle d celsius) s = .next t ∧ Cells.get 0 t.temps d = celsius ∧
    (t.clock d = if 100 < celsius then (if d ∈ s.tripped then 1200 else max 1200 (s.clock d - 100))
      else if s.powerCap ≤ s.power then s.clock d else if d ∈ s.tripped then 1200 else min 3600 (s.clock d + 100)) ∧
    ∀ e, e ≠ d → t.clock e = s.clock e) ∧
  (∀ (s : State) d, d < 4 → d ∉ s.tripped → ∃ t, exec (.thermalTrip d) s = .next t ∧ d ∈ t.tripped ∧ t.clock d = 1200 ∧ t.replaceReq = true ∧
    .thermtrip ∈ t.outbox) ∧
  (∀ (s : State) a b, a ≠ b → s.meets a b = true → (s.ctx b).state = .saved →
    ((s.ctx a).state = .running → ∃ t, exec (.timeSliceSwitch (.switchTo b) a) s = .next t ∧ (t.ctx a).state = .saving) ∧
    ((s.ctx a).state ≠ .running → s.blocked b = false → ∃ t, exec (.timeSliceSwitch (.switchTo b) a) s = .next t ∧ (t.ctx b).state = .running)) ∧
  (∀ (s : State) hm st pass1 pass2, imageOk hm s.trust.hmFuse = true → imageOk st s.trust.stFuse = true →
    ∃ t, exec (.coldReset hm st pass1 pass2) s = .next t ∧ t.trust.hmUp = true ∧ t.trust.pilotUp = true ∧ t.trust.powered = true ∧
      t.trust.mr0 = extendMr 0 hm.bytes ∧ t.trust.mr1 = extendMr 0 st.bytes ∧
      t.trust.lifecycle = (if s.trust.lifecycle = .debugUnlocked then .deployed else s.trust.lifecycle) ∧ t.groups = [] ∧ t.stores = []) ∧
  (∀ (s : State) hm st pass1 pass2, s.trust.powered = true → imageOk hm s.warmState.trust.hmFuse = true → imageOk st s.warmState.trust.stFuse = true →
    s.warmState.trust.wipe = false → ∃ t, exec (.warmReset hm st pass1 pass2) s = .next t ∧ t.trust.hmUp = true ∧ t.trust.pilotUp = true ∧
      t.trust.mr0 = extendMr 0 hm.bytes ∧ t.trust.mr1 = extendMr 0 st.bytes ∧ t.stores = [] ∧ t.tlb = [] ∧
      ∀ n, (s.ctx n).state = .running → (t.ctx n).state = .lost) ∧
  (∀ (s : State), ∃ t, exec .powerLoss s = .next t ∧ t.trust.powered = false ∧ t.trust.hmUp = false ∧ t.trust.pilotUp = false ∧ t.groups = [] ∧
    t.retiredUnits = s.retiredUnits ∧ t.trust.lifecycle = s.trust.lifecycle) ∧
  (∀ (s : State), s.trust.hmUp = true → s.trust.lifecycle = .manufacture → exec .vendorProvisioning s =
    .next (s.setTrust { s.trust with lifecycle := .provisioned, seed := true, identity := true, leaf := s.trust.leaf + 1 }))

/-! ### Encoding, fetching, the step and reset -/

/-- Decoding is right: the words that the worked examples after R77, R134, R153, R241, R311 and R355 write out decode to the
instructions they stand for. -/
def Obligations.DecodeWords : Prop :=
  decode [0x0D, 0x5A, 0x04, 0x01, 0x02, 0xFF, 0x22, 0x00, 0x00, 0x00, 0x80, 0x3F] =
    .ok (.ffma { wordOf false 0x04 0x01 0x02 0xFF (.imm32 0x3F800000) with gneg := true, gnum := 3, rnd := .rtz, ty := .f32 }, 12) ∧
  decode [0x20, 0x3D, 0xF3, 0xF3, 0xF3, 0xF3, 0x00, 0x00] = .ok (.nop (wordOf false 0xF3 0xF3 0xF3 0xF3 .none), 8) ∧
  decode [0x01, 0x15, 0xF3, 0xF3, 0x0F, 0x00, 0x00, 0x00, 0x08, 0x00, 0x00, 0x00] =
    .ok (.bra { wordOf false 0xF3 0xF3 0x0F 0x00 (.ext ⟨0, 0, 0, 0, 0, 8⟩) with gnum := 2 }, 12) ∧
  decode [0x15, 0x3E, 0x10, 0x00, 0x04, 0x10, 0x00, 0x00, 0x00, 0x4C, 0x09, 0x08] =
    .ok (.mmaq (wordOf false 0x10 0x00 0x04 0x10 (.ext ⟨8, 9, 2, 3, 0, 0⟩)), 12) ∧
  decode [0x01, 0x3F, 0x04, 0x01, 0xB6, 0xF3, 0x00, 0x00, 0x4E, 0x00, 0x02, 0x03] =
    .ok (.ld (wordOf false 0x04 0x01 0xB6 0xF3 (.ext ⟨3, 2, 0, 0, 0, 0x4E⟩)), 12) ∧
  decode [0x81, 0xBF, 0xF3, 0xB4, 0xB5, 0x02, 0x00, 0x00, 0x30, 0x00, 0x00, 0x00] =
    .ok (.spawn (wordOf true 0xF3 0xB4 0xB5 0x02 (.ext ⟨0, 0, 0, 0, 0, 0x30⟩)), 12) ∧
  decode [0xE5, 0xBF, 0xB4, 0xB5, 0xF3, 0xF3, 0x00, 0x00, 0x00, 0x00, 0x00, 0x00] =
    .ok (.ctxopPreempt (wordOf true 0xB4 0xB5 0xF3 0xF3 (.ext ⟨0, 0, 0, 0, 0, 0⟩)), 12)

/-- R67, R77, R160: where the fetch checks pass and the bytes at the program counter decode to an instruction, the group's attempt is `exec` of it,
and any other bytes trap ILLEGAL; the step is one of the things that can happen; and where that group's attempt is the only one and the
instruction goes on, the step is `exec` of it, then what its scheduler counts, then what ends every step. (Which of several things happens is free,
log 3.) -/
def Obligations.StepRunsDecodedInstruction : Prop :=
  (∀ (s : State) (gid : Nat) (bs : List Byte) (i : Instr) (n : Nat), CodeAt (s.turn gid) bs → decode bs = .ok (i, n) →
    (s.turn gid).fetch = .ok i n ∧ s.attempt gid = exec i (s.turn gid)) ∧
  (∀ (s : State) (gid : Nat) (bs : List Byte) (r : Reject), CodeAt (s.turn gid) bs → decode bs = .error r →
    s.attempt gid = .next ((s.turn gid).trap .illegal bs.length)) ∧
  (∀ s : State, s.ready.actions ≠ [] → ∃ a ∈ s.ready.actions, step s = finishOut a) ∧
  (∀ (s r : State) (core sched gid : Nat) (i : Instr) (n : Nat), s.inputs = [] → s.ready.internal.filterMap s.ready.fire = [] →
    s.ready.activeScheds = [(core, sched)] → s.ready.schedGroups core sched = [gid] →
    s.ready.tagDue (Cells.get Sched.reset (s.core core).scheds sched) = false → s.ready.unrecorded gid = false →
    (s.ready.turn gid).fetch = .ok i n → exec i (s.ready.turn gid) = .next r → r.stalled = false →
    step s = .next (s.ready.account r gid).endStep)

/-- R66, R69, R73, R75, R76: the bytes of every well-formed instruction word, whatever follows them, decode to that instruction, with every
operand at every value the encoding admits. -/
def Obligations.DecodeEncodeRoundTrip : Prop :=
  ∀ (i : Instr) (rest : List Byte), i.wf = true → i.word.isSome = true →
    decode (encode i ++ rest) = .ok (i, (encode i).length)

/-- R78: an instruction of an assigned opcode has a length that the opcode's class permits; any other length is ILLEGAL. -/
def Obligations.LengthsFollowTheClass : Prop :=
  (∀ (bs : List Byte) (i : Instr) (n op : Nat) (f : Fields), decode bs = .ok (i, n) → i.word = some (op, f) →
    op = leNat bs / 4 % 512 ∧ n = lenOfCode (leNat bs % 4) ∧ ∃ k, lenClass op = some k ∧ n ∈ permitted k) ∧
  (∀ (s : State) (gid : Nat) (bs : List Byte) (k : LenClass), CodeAt (s.turn gid) bs → leNat bs % 4 ≠ 3 →
    lenClass (leNat bs / 4 % 512) = some k → lenOfCode (leNat bs % 4) ∉ permitted k →
    s.attempt gid = .next ((s.turn gid).trap .illegal bs.length))

/-- R80: a running group whose next word has an opcode that no row of R79 assigns raises ILLEGAL, and so does a 64-bit word of zeros. -/
def Obligations.UnassignedOpcodesRaiseIllegal : Prop :=
  (∀ (s : State) (gid : Nat) (bs : List Byte), (s.grp gid).status = .running → CodeAt (s.turn gid) bs →
    (∀ e ∈ assignedRuns, leNat bs / 4 % 512 < e.1 ∨ e.2 < leNat bs / 4 % 512) →
    s.attempt gid = .next ((s.turn gid).trap .illegal (lenOfCode (leNat bs % 4)))) ∧
  (∀ (s : State) (gid : Nat), (s.grp gid).status = .running → CodeAt (s.turn gid) (List.replicate 8 0) →
    s.attempt gid = .next ((s.turn gid).trap .illegal 8))

/-- No step of the machine stops it: every instruction word that a running group reaches, every step of the device and every event from outside
has a next state. -/
def Obligations.EveryStepGoesOn : Prop := ∀ s : State, ∃ t, step s = .next t

/-- Every step keeps the canonical form of memory. -/
def Obligations.MemoryCanonicalKept : Prop :=
  ∀ s t : State, Memory.wf s.mem = true → step s = .next t → Memory.wf t.mem = true

/-- R413, R441, R444, R449, R450: right after reset no core has written a crumb, every health record has the default threshold and no count, no
replacement is asked for, the live cores have dense logical numbers in rising order, no group runs, and the measurement registers hold the
extensions of the boot over zero. The images, the fused-off cores and the lifecycle state are the model's choice (log 5). -/
def Obligations.ResetState : Prop :=
  (∀ c, (State.reset.core c).recorder.cseq = 0 ∧ (State.reset.core c).recorder.crumbs = []) ∧
  (∀ u, (Cells.get Health.reset State.reset.health u).threshold = 1024 ∧ (Cells.get Health.reset State.reset.health u).corrected = 0 ∧
    (Cells.get Health.reset State.reset.health u).uncorrectable = 0) ∧
  State.reset.replaceReq = false ∧
  (∀ n, n < 288 → State.reset.logicalCore (State.reset.physCore n) = some n) ∧
  (∀ m n, m < n → n < 288 → State.reset.physCore m < State.reset.physCore n) ∧
  (∀ i, (State.reset.grp i).status = .none) ∧
  State.reset.trust.mr0 = extendMr 0 Config.hmImage ∧ State.reset.trust.mr1 = extendMr 0 Config.stImage ∧
  State.reset.trust.mr2 = extendMr 0 (bootState 2 State.reset.grade State.reset.trust.unlocks) ∧ State.reset.trust.mr3 = extendMr 0 [0]

/-- Memory at reset has the canonical form, with nothing listed; a byte that nothing has written reads as 0 (the model's choice, log 4). -/
def Obligations.MemoryCanonicalAtReset : Prop :=
  Memory.wf State.reset.mem = true ∧ ∀ pa, State.reset.byteAt (.mem pa) = 0

end
end

