-- ==== Sys2Proof/Laws/Cells.lean ====
section
/-! SUPPORT. Laws of sparse maps: a read after a write, writes leave other keys alone, and the canonical form is kept. -/

namespace Sys2Proof.Machine

@[simp] theorem Cells.get_nil {α : Type} (d : α) (k : Nat) : Cells.get d [] k = d := rfl

theorem Cells.get_put {α : Type} (d v : α) (m : Cells α) (k j : Nat) :
    Cells.get d (Cells.put m k v) j = if j = k then v else Cells.get d m j := by
  induction m with
  | nil => simp [Cells.put, Cells.get]
  | cons e m ih =>
    obtain ⟨i, w⟩ := e
    simp only [Cells.put]
    split
    · subst_vars; simp only [Cells.get]; split <;> rfl
    · split
      · simp only [Cells.get]
      · simp only [Cells.get, ih]; split
        · subst_vars; rw [if_neg (fun h => absurd h.symm ‹_›)]
        · rfl

theorem Cells.get_del {α : Type} (d : α) (m : Cells α) (k j : Nat) :
    Cells.get d (Cells.del m k) j = if j = k then d else Cells.get d m j := by
  induction m with
  | nil => simp [Cells.del]
  | cons e m ih =>
    obtain ⟨i, w⟩ := e
    simp only [Cells.del, List.filter_cons] at ih ⊢
    by_cases h : i = k
    · subst h; simp only [bne_self_eq_false, Bool.false_eq_true, if_false, ih, Cells.get]; split <;> simp_all
    · have : (i != k) = true := by simp [h]
      simp only [this, if_true, Cells.get, ih]; split
      · subst_vars; simp [h]
      · rfl

/-- What a key reads as after a write. -/
theorem Cells.get_set {α : Type} [DecidableEq α] (d v : α) (m : Cells α) (k j : Nat) :
    Cells.get d (Cells.set d m k v) j = if j = k then v else Cells.get d m j := by
  unfold Cells.set; split
  · subst_vars; exact Cells.get_del ..
  · exact Cells.get_put ..

@[simp] theorem Cells.get_set_self {α : Type} [DecidableEq α] (d v : α) (m : Cells α) (k : Nat) :
    Cells.get d (Cells.set d m k v) k = v := by simp [Cells.get_set]

theorem Cells.get_set_ne {α : Type} [DecidableEq α] (d v : α) (m : Cells α) {k j : Nat} (h : j ≠ k) :
    Cells.get d (Cells.set d m k v) j = Cells.get d m j := by simp [Cells.get_set, h]

/-- A key that no write of a list names keeps its value. -/
theorem Cells.get_setAll_ne {α : Type} [DecidableEq α] (d : α) (l : List (Nat × α)) (m : Cells α) (j : Nat) (h : ∀ e ∈ l, e.1 ≠ j) :
    Cells.get d (Cells.setAll d m l) j = Cells.get d m j := by
  induction l generalizing m with
  | nil => rfl
  | cons e l ih =>
    obtain ⟨k, v⟩ := e
    have h1 : k ≠ j := h (k, v) (by simp)
    rw [Cells.setAll, ih _ (fun e he => h e (by simp [he])), Cells.get_set_ne _ _ _ (Ne.symm h1)]

/-- A write of a list with distinct keys is read back. -/
theorem Cells.get_setAll_mem {α : Type} [DecidableEq α] (d : α) (l : List (Nat × α)) (m : Cells α) (hn : (l.map Prod.fst).Nodup)
    {k : Nat} {v : α} (h : (k, v) ∈ l) : Cells.get d (Cells.setAll d m l) k = v := by
  induction l generalizing m with
  | nil => simp at h
  | cons e l ih =>
    obtain ⟨j, w⟩ := e
    simp only [List.map_cons, List.nodup_cons] at hn
    rcases List.mem_cons.1 h with h | h
    · cases h
      rw [Cells.setAll, Cells.get_setAll_ne, Cells.get_set_self]
      intro e he hk; exact hn.1 (by rw [← hk]; exact List.mem_map_of_mem he)
    · exact ih _ hn.2 h

/-! ### The canonical form -/

theorem Cells.okFrom_mono {α : Type} [DecidableEq α] (d : α) {a b : Nat} (m : Cells α) (h : a ≤ b) (hm : Cells.okFrom d (some b) m = true) :
    Cells.okFrom d (some a) m = true := by
  cases m with
  | nil => rfl
  | cons e m => simp only [Cells.okFrom, Bool.and_eq_true, decide_eq_true_eq] at hm ⊢; exact ⟨⟨by omega, hm.1.2⟩, hm.2⟩

theorem Cells.okFrom_none {α : Type} [DecidableEq α] (d : α) {b : Nat} (m : Cells α) (hm : Cells.okFrom d (some b) m = true) :
    Cells.okFrom d none m = true := by
  cases m with
  | nil => rfl
  | cons e m => simp only [Cells.okFrom, Bool.and_eq_true] at hm ⊢; exact ⟨⟨trivial, hm.1.2⟩, hm.2⟩

theorem Cells.okFrom_filter {α : Type} [DecidableEq α] (d : α) (p : Nat × α → Bool) (m : Cells α) (b : Option Nat)
    (hm : Cells.okFrom d b m = true) : Cells.okFrom d b (m.filter p) = true := by
  induction m generalizing b with
  | nil => rfl
  | cons e m ih =>
    obtain ⟨k, v⟩ := e
    simp only [Cells.okFrom, Bool.and_eq_true] at hm
    rw [List.filter_cons]; split
    · simp only [Cells.okFrom, Bool.and_eq_true]; exact ⟨hm.1, ih _ hm.2⟩
    · cases b with
      | none => exact Cells.okFrom_none d _ (ih _ hm.2)
      | some b => exact Cells.okFrom_mono d _ (by simpa using Nat.le_of_lt (by simpa using hm.1.1)) (ih _ hm.2)

/-- Keeping some of the entries keeps the canonical form. -/
theorem Cells.wf_filter {α : Type} [DecidableEq α] (d : α) (p : Nat × α → Bool) (m : Cells α) (h : Cells.wf d m = true) :
    Cells.wf d (m.filter p) = true := Cells.okFrom_filter d p m none h

theorem Cells.okFrom_put {α : Type} [DecidableEq α] (d v : α) (hv : v ≠ d) (m : Cells α) (k : Nat) (b : Option Nat)
    (hb : (match b with | none => true | some b => decide (b < k)) = true) (hm : Cells.okFrom d b m = true) :
    Cells.okFrom d b (Cells.put m k v) = true := by
  induction m generalizing b with
  | nil => cases b <;> simp_all [Cells.put, Cells.okFrom]
  | cons e m ih =>
    obtain ⟨j, w⟩ := e
    simp only [Cells.okFrom, Bool.and_eq_true] at hm
    simp only [Cells.put]; split
    · subst_vars; simp only [Cells.okFrom, Bool.and_eq_true]; exact ⟨⟨hm.1.1, by simpa using hv⟩, hm.2⟩
    · split
      · rename_i h
        simp only [Cells.okFrom, Bool.and_eq_true]
        exact ⟨⟨hb, by simpa using hv⟩, ⟨by simpa using h, hm.1.2⟩, hm.2⟩
      · simp only [Cells.okFrom, Bool.and_eq_true]
        exact ⟨hm.1, ih _ (by simp; omega) hm.2⟩

/-- A write keeps the canonical form. -/
theorem Cells.wf_set {α : Type} [DecidableEq α] (d v : α) (m : Cells α) (k : Nat) (h : Cells.wf d m = true) :
    Cells.wf d (Cells.set d m k v) = true := by
  unfold Cells.set; split
  · exact Cells.wf_filter d _ m h
  · exact Cells.okFrom_put d v ‹_› m k none rfl h

theorem Cells.wf_setAll {α : Type} [DecidableEq α] (d : α) (l : List (Nat × α)) (m : Cells α) (h : Cells.wf d m = true) :
    Cells.wf d (Cells.setAll d m l) = true := by
  induction l generalizing m with
  | nil => exact h
  | cons e l ih => exact ih _ (Cells.wf_set d _ m _ h)

@[simp] theorem Cells.wf_nil {α : Type} [DecidableEq α] (d : α) : Cells.wf d ([] : Cells α) = true := rfl

end Sys2Proof.Machine
end

