-- ==== Sys2Proof/Laws/Group.lean ====
section
/-! SUPPORT. Laws of the current group: replacing it, writing its registers, and the frame of an instruction. -/

namespace Sys2Proof.Machine

/-! ### Replacing the current group -/

@[simp] theorem State.grp_setGrp_self (s : State) (i : Nat) (g : Group) : (s.setGrp i g).grp i = g := by simp [State.grp, State.setGrp]
@[simp] theorem State.g_setG (s : State) (g : Group) : (s.setG g).g = g := by simp [State.g, State.setG, State.setGrp, State.grp]
@[simp] theorem State.cur_setG (s : State) (g : Group) : (s.setG g).cur = s.cur := rfl

theorem Cells.set_set {α : Type} [DecidableEq α] (d a b : α) (m : Cells α) (k : Nat) (ha : a ≠ d) :
    Cells.set d (Cells.set d m k a) k b = Cells.set d m k b := by
  have h1 : ∀ m : Cells α, Cells.put (Cells.put m k a) k b = Cells.put m k b := by
    intro m
    induction m with
    | nil => simp [Cells.put]
    | cons e m ih =>
      obtain ⟨j, w⟩ := e
      simp only [Cells.put]
      split
      · simp [Cells.put]
      · split
        · simp [Cells.put]
        · simp [Cells.put, *]
  have h2 : ∀ m : Cells α, Cells.del (Cells.put m k a) k = Cells.del m k := by
    intro m
    induction m with
    | nil => simp [Cells.put, Cells.del]
    | cons e m ih =>
      obtain ⟨j, w⟩ := e
      simp only [Cells.put]
      split
      · subst_vars; simp [Cells.del]
      · split
        · simp [Cells.del]
        · simp only [Cells.del, List.filter_cons] at ih ⊢; rw [ih]
  unfold Cells.set
  rw [if_neg ha]
  split
  · exact h2 m
  · exact h1 m

theorem State.setG_setG (s : State) (g h : Group) (hg : g ≠ Group.blank) : (s.setG g).setG h = s.setG h := by
  simp only [State.setG, State.setGrp]
  rw [Cells.set_set _ _ _ _ _ hg]

theorem Group.ne_blank {g : Group} (h : g.status = .running) : g ≠ Group.blank := by
  intro e; rw [e] at h; exact absurd h (by decide)

@[simp] theorem State.byteAt_setG (s : State) (g : Group) (l : Loc) : (s.setG g).byteAt l = s.byteAt l := by cases l <;> rfl

/-- Replacing the current group changes nothing else. -/
theorem onlyGroup_setG (s : State) (g : Group) : OnlyGroup s (s.setG g) := ⟨by simp, by simp⟩

/-! ### Writing registers -/

theorem Group.vreg_setV (g : Group) (n t v m u : Nat) (ht : t < 32) (hu : u < 32) :
    (g.setV n t v).vreg m u = if m = n ∧ u = t then v % 2 ^ 32 else g.vreg m u := by
  simp only [Group.vreg, Group.setV, Cells.get_set]
  by_cases h : m = n ∧ u = t
  · simp [h]
  · have : 32 * m + u ≠ 32 * n + t := by intro e; apply h; omega
    simp [h, this]

theorem Group.vPoison_setV (g : Group) (n t v m u : Nat) (ht : t < 32) (hu : u < 32) :
    Cells.get false (g.setV n t v).vPoison (32 * m + u) = if m = n ∧ u = t then false else Cells.get false g.vPoison (32 * m + u) := by
  simp only [Group.setV, Cells.get_del]
  by_cases h : m = n ∧ u = t
  · simp [h]
  · have : 32 * m + u ≠ 32 * n + t := by intro e; apply h; omega
    simp [h, this]

/-- A group of which only vector and uniform registers and their poison marks differ. -/
def Group.RegsOnly (g h : Group) : Prop := h = { g with v := h.v, vPoison := h.vPoison, s := h.s, sPoison := h.sPoison }

theorem Group.RegsOnly.refl (g : Group) : g.RegsOnly g := rfl
theorem Group.RegsOnly.trans {a b c : Group} (h : a.RegsOnly b) (k : b.RegsOnly c) : a.RegsOnly c := by
  unfold Group.RegsOnly at *; rw [k, h]

theorem Group.RegsOnly.parts {g h : Group} (e : g.RegsOnly h) : ∃ a b c d, h = { g with v := a, vPoison := b, s := c, sPoison := d } :=
  ⟨_, _, _, _, e⟩

/-- Completing after results are written. -/
theorem Group.RegsOnly.advance {g h : Group} (e : g.RegsOnly h) (len : Nat) :
    h.advance len = { g with v := (h.advance len).v, vPoison := (h.advance len).vPoison, s := (h.advance len).s, sPoison := (h.advance len).sPoison, pc := (h.advance len).pc, retired := (h.advance len).retired, wait := (h.advance len).wait } := by
  obtain ⟨a, b, c, d, rfl⟩ := e.parts; rfl

theorem Group.setV_only (g : Group) (n t v : Nat) : g.RegsOnly (g.setV n t v) := rfl

/-- Writing consecutive parts of a value into a list of distinct registers of one thread. -/
theorem Group.setRun (val t : Nat) (ht : t < 32) (l : List Nat) (hn : l.Nodup) (g : Group) (k : Nat) :
    let h := (l.zipIdx k).foldl (fun g e => g.setV e.1 t (val / 2 ^ (32 * e.2))) g
    g.RegsOnly h ∧ h.s = g.s ∧ h.sPoison = g.sPoison ∧
    (∀ i r, l[i]? = some r → h.vreg r t = val / 2 ^ (32 * (k + i)) % 2 ^ 32 ∧ Cells.get false h.vPoison (32 * r + t) = false) ∧
    (∀ n u, u < 32 → ¬ (u = t ∧ n ∈ l) → h.vreg n u = g.vreg n u ∧
      Cells.get false h.vPoison (32 * n + u) = Cells.get false g.vPoison (32 * n + u)) := by
  induction l generalizing g k with
  | nil => simp [Group.RegsOnly]
  | cons r l ih =>
    simp only [List.nodup_cons] at hn
    obtain ⟨h1, h2, h3, h4, h5⟩ := ih hn.2 (g.setV r t (val / 2 ^ (32 * k))) (k + 1)
    simp only [List.zipIdx_cons, List.foldl_cons]
    refine ⟨Group.RegsOnly.trans (Group.setV_only g r t _) h1, h2, h3, ?_, ?_⟩
    · intro i q hq
      cases i with
      | zero =>
        simp only [List.getElem?_cons_zero, Option.some.injEq] at hq
        subst hq
        have := h5 r t ht (by simp [hn.1])
        rw [this.1, this.2, Group.vreg_setV _ _ _ _ _ _ ht ht, Group.vPoison_setV _ _ _ _ _ _ ht ht]
        simp
      | succ i =>
        have := h4 i q (by simpa using hq)
        rw [this.1, this.2, show k + 1 + i = k + (i + 1) by omega]
        exact ⟨rfl, rfl⟩
    · intro n u hu hne
      have hne' : ¬ (u = t ∧ n ∈ l) := fun h => hne ⟨h.1, by simp [h.2]⟩
      have := h5 n u hu hne'
      have hr : ¬ (n = r ∧ u = t) := fun h => hne ⟨h.2, by simp [h.1]⟩
      rw [this.1, this.2, Group.vreg_setV _ _ _ _ _ _ ht hu, Group.vPoison_setV _ _ _ _ _ _ ht hu]
      simp [hr]

theorem Group.regs_nodup (g : Group) (code : BitVec 8) (w t : Nat) (h : kindOf code = .v ∨ kindOf code = .ix) : (g.regs code w t).Nodup := by
  unfold Group.regs
  rcases h with h | h <;> rw [h] <;>
    exact List.Nodup.map (fun a b e => by simpa using e) List.nodup_range

/-- One thread's result. -/
theorem Group.write_spec (g : Group) (code : BitVec 8) (w t val : Nat) (ht : t < 32) :
    g.RegsOnly (g.write code w t val) ∧
    (∀ i r, (g.destRegs code w t)[i]? = some r → (g.write code w t val).vreg r t = val / 2 ^ (32 * i) % 2 ^ 32 ∧
      Cells.get false (g.write code w t val).vPoison (32 * r + t) = false) ∧
    (kindOf code = .s → (g.write code w t val).sreg (opNum code) = sValue w val ∧
      Cells.get false (g.write code w t val).sPoison (opNum code) = false) ∧
    (∀ n u, u < 32 → ¬ (u = t ∧ n ∈ g.destRegs code w t) → (g.write code w t val).vreg n u = g.vreg n u ∧
      Cells.get false (g.write code w t val).vPoison (32 * n + u) = Cells.get false g.vPoison (32 * n + u)) ∧
    (∀ n, ¬ (kindOf code = .s ∧ n = opNum code) → (g.write code w t val).sreg n = g.sreg n ∧
      Cells.get false (g.write code w t val).sPoison n = Cells.get false g.sPoison n) := by
  unfold Group.write Group.destRegs
  cases hk : kindOf code
  case v =>
    obtain ⟨h1, h2, h3, h4, h5⟩ := Group.setRun val t ht (g.regs code w t) (g.regs_nodup code w t (.inl hk)) g 0
    refine ⟨h1, by simpa using h4, by simp, h5, ?_⟩
    intro n _; simp only [Group.sreg]; rw [h2, h3]; simp
  case ix =>
    obtain ⟨h1, h2, h3, h4, h5⟩ := Group.setRun val t ht (g.regs code w t) (g.regs_nodup code w t (.inr hk)) g 0
    refine ⟨h1, by simpa using h4, by simp, h5, ?_⟩
    intro n _; simp only [Group.sreg]; rw [h2, h3]; simp
  case s =>
    refine ⟨rfl, by simp, ?_, ?_, ?_⟩
    · intro _; simp [Group.setS, Group.sreg, sValue, Cells.get_del]
    · intro n u _ _; exact ⟨rfl, rfl⟩
    · intro n hn
      have hn : n ≠ opNum code := fun e => hn ⟨rfl, e⟩
      simp [Group.setS, Group.sreg, Cells.get_set, Cells.get_del, hn]
  all_goals exact ⟨rfl, by simp, by simp, fun _ _ _ _ => ⟨rfl, rfl⟩, fun _ _ => ⟨rfl, rfl⟩⟩

theorem Group.destRegs_regsOnly {g h : Group} (e : g.RegsOnly h) (code : BitVec 8) (w t : Nat) : h.destRegs code w t = g.destRegs code w t := by
  unfold Group.destRegs; rw [e]; cases kindOf code <;> rfl

/-- Results of distinct threads. -/
theorem Group.writes_spec (code : BitVec 8) (w : Nat) (res : List (Nat × Nat)) (g : Group) (hn : (res.map Prod.fst).Nodup)
    (ht : ∀ e ∈ res, e.1 < 32) : g.RegsOnly (g.writes code w res) ∧ Holds g (g.writes code w res) code w res := by
  induction res generalizing g with
  | nil => exact ⟨rfl, ⟨by simp, by simp, fun _ _ _ _ => ⟨rfl, rfl⟩, fun _ _ => ⟨rfl, rfl⟩⟩⟩
  | cons e res ih =>
    obtain ⟨t, val⟩ := e
    simp only [List.map_cons, List.nodup_cons] at hn
    have ht0 : t < 32 := ht (t, val) (by simp)
    obtain ⟨w1, w2, w3, w4, w5⟩ := Group.write_spec g code w t val ht0
    obtain ⟨r1, hv, hu, hvf, huf⟩ := ih (g.write code w t val) hn.2 (fun e he => ht e (by simp [he]))
    have hd : ∀ u, (g.write code w t val).destRegs code w u = g.destRegs code w u := fun u => Group.destRegs_regsOnly w1 code w u
    have hw : g.writes code w ((t, val) :: res) = (g.write code w t val).writes code w res := rfl
    rw [hw]
    refine ⟨w1.trans r1, ?_, ?_, ?_, ?_⟩
    · intro e he i r hr
      rcases List.mem_cons.1 he with he | he
      · subst he
        have hno : ¬ ∃ e ∈ res, e.1 = t ∧ r ∈ (g.write code w t val).destRegs code w t := by
          rintro ⟨e, he, h1, _⟩; exact hn.1 (by rw [← h1]; exact List.mem_map_of_mem he)
        have h1 := hvf r t ht0 hno
        have h2 := w2 i r hr
        exact ⟨h1.1.trans h2.1, h1.2.trans h2.2⟩
      · exact hv e he i r (by rw [hd]; exact hr)
    · intro hs e he
      cases hl : res.getLast? with
      | none =>
        have : res = [] := by simpa using hl
        subst this
        simp only [List.getLast?_singleton, Option.some.injEq] at he
        subst he
        exact w3 hs
      | some x =>
        rw [List.getLast?_cons, hl] at he
        simp only [Option.getD_some, Option.some.injEq] at he
        subst he
        exact hu hs x hl
    · intro n u hu32 hne
      have h1 : ¬ ∃ e ∈ res, e.1 = u ∧ n ∈ (g.write code w t val).destRegs code w u := by
        rintro ⟨e, he, h1, h2⟩; exact hne ⟨e, by simp [he], h1, by rw [← hd]; exact h2⟩
      have h2 : ¬ (u = t ∧ n ∈ g.destRegs code w t) := by
        rintro ⟨h1, h2⟩; exact hne ⟨(t, val), by simp, h1.symm, by rw [h1]; exact h2⟩
      have a := hvf n u hu32 h1
      have b := w4 n u hu32 h2
      exact ⟨a.1.trans b.1, a.2.trans b.2⟩
    · intro n hne
      by_cases hres : res = []
      · subst hres
        have b := w5 n (fun h => hne ⟨h.1, h.2, by simp⟩)
        exact b
      · have a := huf n (fun h => hne ⟨h.1, h.2.1, by simp⟩)
        have b := w5 n (fun h => hne ⟨h.1, h.2, by simp⟩)
        exact ⟨a.1.trans b.1, a.2.trans b.2⟩

end Sys2Proof.Machine
end

