-- ==== Sys2Proof/Laws/Harbour.lean ====
section
/-! SUPPORT. What the object table answers to the pilot's firmware. -/

namespace Sys2Proof.Machine

/-- An access of the Stevedore to an object of any other context raises CAPINVALID (R447). -/
theorem State.stevedoreCheck_eq (s : State) (c : Cap) (off n : Nat) (caps : Bool) (h : (s.obj (objKey pilotCtx c.name)).ctx ≠ pilotCtx) :
    s.stevedoreCheck c off n caps = some .capinvalid := by
  simp [State.stevedoreCheck, State.portCheck, h]

end Sys2Proof.Machine
end

