-- ==== Sys2Proof/Laws/Instr.lean ====
section
/-! SUPPORT. What the shared shapes of an instruction do: reading sources, the frame of checks, and writing results of both classes. -/

namespace Sys2Proof.Machine

/-! ### Reading sources -/

/-- A group of which only the operand queues and the latch differ. -/
def Group.ReadOnly (g h : Group) : Prop := h = { g with oq := h.oq, latch := h.latch }

theorem Group.ReadOnly.refl (g : Group) : g.ReadOnly g := rfl
theorem Group.ReadOnly.trans {a b c : Group} (h : a.ReadOnly b) (k : b.ReadOnly c) : a.ReadOnly c := by
  unfold Group.ReadOnly at *; rw [k, h]

theorem Group.read_only (g : Group) (f : Fields) (code : BitVec 8) (w : Nat) (act : List Nat) : g.ReadOnly (g.read f code w act).1 := by
  unfold Group.read; split <;> rfl

theorem Group.read_length (g : Group) (f : Fields) (code : BitVec 8) (w : Nat) (act : List Nat) : (g.read f code w act).2.length = act.length := by
  unfold Group.read; split <;> simp

theorem Group.readField_only (g : Group) (f : Fields) (o : Opd) (code : BitVec 8) (act : List Nat) : g.ReadOnly (g.readField f o code act).1 := by
  unfold Group.readField; split
  · exact Group.read_only ..
  · exact Group.ReadOnly.refl g

theorem Group.readField_length (g : Group) (f : Fields) (o : Opd) (code : BitVec 8) (act : List Nat) :
    (g.readField f o code act).2.length = act.length := by
  unfold Group.readField; split
  · exact Group.read_length ..
  · simp

theorem Group.readAll_only (g : Group) (fm : Form) (f : Fields) (act : List Nat) : g.ReadOnly (g.readAll fm f act).1 := by
  unfold Group.readAll
  exact (Group.readField_only ..).trans ((Group.readField_only ..).trans (Group.readField_only ..))

theorem zip_map_fst {α β : Type} : ∀ (l : List α) (m : List β), l.length = m.length → (l.zip m).map Prod.fst = l
  | [], _, _ => by simp
  | a :: l, [], h => by simp at h
  | a :: l, b :: m, h => by simp [zip_map_fst l m (by simpa using h)]

/-- The rows are the active threads, in thread order. -/
theorem Group.readAll_threads (g : Group) (fm : Form) (f : Fields) (act : List Nat) : (g.readAll fm f act).2.map Row.t = act := by
  have h : ∀ (a b c : List Nat), a.length = act.length → b.length = act.length → c.length = act.length →
      ((act.zip (a.zip (b.zip c))).map (fun e => (⟨e.1, e.2.1, e.2.2.1, e.2.2.2⟩ : Row))).map Row.t = act := by
    intro a b c ha hb hc
    rw [List.map_map]
    exact zip_map_fst act _ (by simp [ha, hb, hc])
  unfold Group.readAll
  exact h _ _ _ (Group.readField_length ..) (Group.readField_length ..) (Group.readField_length ..)

theorem Group.record_only (g : Group) (fm : Form) (f : Fields) : g.ReadOnly (g.record fm f) := by
  unfold Group.record; split <;> rfl

theorem State.readsAs_only (s : State) (f : Fields) (fm : Form) : s.g.ReadOnly (s.readsAs f fm).g := by
  simp only [State.readsAs, State.g_setG]
  exact (Group.readAll_only ..).trans (Group.record_only ..)

/-- The active threads are distinct and below 32 (R12). -/
theorem Group.active_nodup (g : Group) (f : Fields) : (g.active f).Nodup := by
  unfold Group.active; split
  · split <;> simp
  · exact List.nodup_range.filter _

theorem Group.active_lt (g : Group) (f : Fields) : ∀ t ∈ g.active f, t < 32 := by
  unfold Group.active threads; split
  · split <;> simp
  · intro t h; simpa using (List.mem_filter.1 h).1

theorem State.rowsAs_threads (s : State) (f : Fields) (fm : Form) : (s.rowsAs f fm).map Row.t = s.g.active f := Group.readAll_threads ..

/-! ### The frame -/

/-- An instruction that is ready executes: it acts on the state after its reads. -/
theorem instrAs_ready {s : State} {op : Nat} {f : Fields} {fm : Form} {skip : Bool} (h : ReadyAs op f fm skip s)
    (k : State → Form → List Row → State) : s.instrAs op f fm .ok skip k = .next (k (s.readsAs f fm) fm (s.rowsAs f fm)) := by
  have h1 := h.running
  have h3 : (s.g.active f).isEmpty = false := by
    have := h.active; cases hA : s.g.active f with
    | nil => exact absurd hA this
    | cons _ _ => rfl
  unfold State.instrAs
  rw [h1, h.issue]
  simp only [Chk.and, h3]
  rfl

theorem instr_ready {s : State} {op : Nat} {f : Fields} (h : Ready op f s) (k : State → Form → List Row → State) :
    s.instr op f .ok false k = .next (k (s.reads op f) (form op f) (s.rows op f)) := instrAs_ready h k

theorem readsAs_running {s : State} {f : Fields} {fm : Form} (h : s.g.status = .running) : (s.readsAs f fm).g.status = .running := by
  have := State.readsAs_only s f fm
  rw [this]; exact h

/-- The state after the reads, with another current group. -/
theorem setG_readsAs {s : State} {f : Fields} {fm : Form} (h : s.g.status = .running) (g : Group) : (s.readsAs f fm).setG g = s.setG g := by
  have h2 : (s.readsAs f fm).g ≠ Group.blank := Group.ne_blank (readsAs_running h)
  simp only [State.readsAs, State.g_setG] at h2 ⊢
  exact State.setG_setG s _ g h2

theorem readsAs_pc (s : State) (f : Fields) (fm : Form) : (s.readsAs f fm).g.pc = s.g.pc ∧ (s.readsAs f fm).g.retired = s.g.retired := by
  have := State.readsAs_only s f fm
  rw [this]; exact ⟨rfl, rfl⟩

/-- Completing with a group that keeps `pc` and the count. -/
theorem completed_done {s : State} {f : Fields} {fm : Form} (g : Group) (len : Nat)
    (hp : g.pc = s.g.pc) (hq : g.retired = s.g.retired) (hr : s.g.status = .running) :
    OnlyGroup s ((s.readsAs f fm).done g len) ∧ Completed s ((s.readsAs f fm).done g len) len ∧
      ((s.readsAs f fm).done g len).g = g.advance len := by
  unfold State.done
  rw [setG_readsAs hr]
  refine ⟨onlyGroup_setG s _, ⟨?_, ?_, ?_⟩, by simp⟩ <;> simp [Group.advance, hp, hq]

/-- An instruction that completes with no effect. -/
theorem done_passed {s : State} {f : Fields} {fm : Form} (hr : s.g.status = .running) (len : Nat) :
    Passed s (s.readsAs f fm) ((s.readsAs f fm).done (s.readsAs f fm).g len) len := by
  obtain ⟨h1, h2, h3⟩ := completed_done (s := s) (f := f) (fm := fm) (s.readsAs f fm).g len (readsAs_pc s f fm).1 (readsAs_pc s f fm).2 hr
  exact ⟨h1, h2, by rw [h3]; rfl⟩

/-- The chaining class writes its results at once. -/
theorem chain_wrote {s : State} {f : Fields} {fm : Form} (hr : s.g.status = .running) (w : Nat) (res : List (Nat × Nat))
    (hn : (res.map Prod.fst).Nodup) (ht : ∀ e ∈ res, e.1 < 32) :
    Wrote s (s.readsAs f fm) ((s.readsAs f fm).chain f w res) f w res := by
  obtain ⟨k1, k2⟩ := Group.writes_spec f.d w res (s.readsAs f fm).g hn ht
  obtain ⟨h1, h2, h3⟩ := completed_done (s := s) (f := f) (fm := fm) ((s.readsAs f fm).g.writes f.d w res) f.len
    (by rw [k1]; exact (readsAs_pc s f fm).1) (by rw [k1]; exact (readsAs_pc s f fm).2) hr
  refine ⟨h1, h2, ?_, ?_⟩
  · unfold State.chain; rw [h3]
    exact ⟨k2.vector, k2.uniform, k2.vectorFrame, k2.uniformFrame⟩
  · unfold State.chain; rw [h3]; exact k1.advance f.len

/-- A result per row. -/
theorem rows_nodup {s : State} {f : Fields} {fm : Form} {α : Type} (fn : Row → α) :
    (((s.rowsAs f fm).map (fun r => (r.t, fn r))).map Prod.fst).Nodup := by
  have : (((s.rowsAs f fm).map (fun r => (r.t, fn r))).map Prod.fst) = (s.rowsAs f fm).map Row.t := by simp [List.map_map, Function.comp_def]
  rw [this, State.rowsAs_threads]; exact Group.active_nodup _ _

theorem rows_lt {s : State} {f : Fields} {fm : Form} {α : Type} (fn : Row → α) : ∀ e ∈ (s.rowsAs f fm).map (fun r => (r.t, fn r)), e.1 < 32 := by
  intro e he
  obtain ⟨r, hr, rfl⟩ := List.mem_map.1 he
  exact Group.active_lt _ _ _ (by rw [← State.rowsAs_threads s f fm]; exact List.mem_map_of_mem hr)

/-- What every instruction of the shape `State.map` does. -/
theorem map_wrote {s : State} {op : Nat} {f : Fields} (h : Ready op f s) (fn : Group → Row → Nat) :
    ∃ t, s.map op f fn = .next t ∧
      Wrote s (s.reads op f) t f (form op f).d.width ((s.rows op f).map (fun r => (r.t, fn (s.reads op f).g r))) :=
  ⟨_, instr_ready h _, chain_wrote h.running _ _ (rows_nodup _) (rows_lt _)⟩

theorem mapRes_fst {α : Type} (l : List (Nat × α)) (g : Nat × α → Nat × Bool) :
    (l.map (fun e => (e.1, g e))).map Prod.fst = l.map Prod.fst := by simp [List.map_map, Function.comp_def]

/-- A key list whose marks are all set. -/
theorem Cells.get_setAll_const {α : Type} [DecidableEq α] (d v : α) (l : List Nat) (m : Cells α) (k : Nat) :
    Cells.get d (Cells.setAll d m (l.map (fun q => (q, v)))) k = if k ∈ l then v else Cells.get d m k := by
  induction l generalizing m with
  | nil => simp [Cells.setAll]
  | cons q l ih =>
    simp only [List.map_cons, Cells.setAll, ih, Cells.get_set, List.mem_cons]
    by_cases h1 : k ∈ l <;> by_cases h2 : k = q <;> simp [h1, h2]

theorem Deferred.discard_nil (d : Deferred) : d.discard [] = d := by
  cases d with | mk load v quads s => cases s <;> simp [Deferred.discard]

/-- Which quads are empty while a result is on its way: those that it is to write and no mark discards. -/
theorem Group.await_vEmpty (g : Group) (d : Deferred) (q : Nat) :
    Cells.get false (g.await d).vEmpty q = if q ∈ d.quads ∧ q ∉ g.discard then true else Cells.get false g.vEmpty q := by
  simp only [Group.await]
  rw [Cells.get_setAll_const]
  simp only [Deferred.discard, List.mem_filter, Bool.not_eq_true', decide_eq_true_eq, List.elem_eq_mem, decide_eq_false_iff_not]
  by_cases h1 : q ∈ d.quads <;> by_cases h2 : q ∈ g.discard <;> simp [h1, h2]

/-- Which s registers are empty while a result is on its way to one: that one, where no mark discards it. -/
theorem Group.await_sEmpty {n : Nat} {v : DWord} {p : Bool} (g : Group) (d : Deferred) (h : d.s = some (n, v, p)) (m : Nat) :
    Cells.get false (g.await d).sEmpty m = if m = n ∧ sMark n ∉ g.discard then true else Cells.get false g.sEmpty m := by
  simp only [Group.await, Deferred.discard, h, Option.filter_some, List.contains_iff_mem]
  by_cases h2 : sMark n ∈ g.discard
  · simp [h2]
  · by_cases h3 : m = n
    · subst h3; simp [h2]
    · simp [h2, h3, Cells.get_set]

/-- The deferred class marks its destination empty and leaves a result in flight. -/
theorem defer_deferring {s : State} {f : Fields} {fm : Form} (hr : s.g.status = .running) (w : Nat) (res : List (Nat × Nat × Bool)) (load div dz : Bool) :
    Deferring s (s.readsAs f fm) ((s.readsAs f fm).done ((s.readsAs f fm).g.defer f.d w res load div dz) f.len) f w res load div dz := by
  obtain ⟨h1, h2, h3⟩ := completed_done (s := s) (f := f) (fm := fm) ((s.readsAs f fm).g.defer f.d w res load div dz) f.len
    (readsAs_pc s f fm).1 (readsAs_pc s f fm).2 hr
  refine ⟨h1, h2, ?_, by rw [h3]; rfl⟩
  rw [h3]
  refine ⟨_, rfl, rfl, rfl, rfl, rfl, ?_, ?_, ?_, ?_⟩
  · intro e he i q hq
    refine ⟨?_, ?_⟩
    · refine List.mem_flatMap.2 ⟨e, he, List.mem_map.2 ⟨(q, i), ?_, rfl⟩⟩
      exact List.mem_iff_getElem?.2 ⟨i, by simp [List.getElem?_zipIdx, hq]⟩
    · refine List.mem_dedup.2 (List.mem_flatMap.2 ⟨e, he, List.mem_map.2 ⟨q, ?_, rfl⟩⟩)
      exact List.mem_iff_getElem?.2 ⟨i, hq⟩
  · intro x hx
    obtain ⟨e, he, hx⟩ := List.mem_flatMap.1 hx
    obtain ⟨⟨q, i⟩, hq, rfl⟩ := List.mem_map.1 hx
    exact ⟨e, he, q, (List.mem_zipIdx' hq).2 ▸ List.getElem_mem _, rfl⟩
  · intro q; exact Group.await_vEmpty ..
  · intro hs e he
    refine ⟨by simp only [hs, he]; rfl, ?_⟩
    refine (Group.await_sEmpty (n := opNum f.d) (v := sValue w e.2.1) (p := e.2.2) _ _ ?_ _).trans (by simp)
    simp only [hs, he]; rfl

/-- What every instruction of the shape `State.mapLater` does. -/
theorem mapLater_deferring {s : State} {op : Nat} {f : Fields} (h : Ready op f s) (fn : Group → Row → Nat) :
    ∃ t, s.mapLater op f fn = .next t ∧
      Deferring s (s.reads op f) t f (form op f).d.width ((s.rows op f).map (fun r => (r.t, fn (s.reads op f).g r, false))) false false false := by
  refine ⟨_, instr_ready h _, ?_⟩
  unfold State.later
  rw [List.map_map]
  exact defer_deferring h.running _ _ _ _ _

theorem cross_deferring {s : State} {op : Nat} {f : Fields} (h : Ready op f s) (fn : Group → List Row → Row → Nat) :
    ∃ t, s.cross op f fn = .next t ∧
      Deferring s (s.reads op f) t f (form op f).d.width
        ((s.rows op f).map (fun r => (r.t, fn (s.reads op f).g (s.rows op f) r, false))) false false false := by
  refine ⟨_, instr_ready h _, ?_⟩
  unfold State.later
  rw [List.map_map]
  exact defer_deferring h.running _ _ _ _ _

end Sys2Proof.Machine
end

