-- ==== Sys2Proof/Laws/State.lean ====
section
/-! SUPPORT. What each update of a table leaves: one lemma per field and update, and what the tables read after it. -/

namespace Sys2Proof.Machine

/-! ### setGrp -/

@[simp] theorem State.setGrp_cur (s : State) (i : Nat) (v : Group) : (s.setGrp i v).cur = s.cur := rfl
@[simp] theorem State.setGrp_stalled (s : State) (i : Nat) (v : Group) : (s.setGrp i v).stalled = s.stalled := rfl
@[simp] theorem State.setGrp_trapped (s : State) (i : Nat) (v : Group) : (s.setGrp i v).trapped = s.trapped := rfl
@[simp] theorem State.setGrp_freeCount (s : State) (i : Nat) (v : Group) : (s.setGrp i v).freeCount = s.freeCount := rfl
@[simp] theorem State.setGrp_nextId (s : State) (i : Nat) (v : Group) : (s.setGrp i v).nextId = s.nextId := rfl
@[simp] theorem State.setGrp_inputs (s : State) (i : Nat) (v : Group) : (s.setGrp i v).inputs = s.inputs := rfl
@[simp] theorem State.setGrp_outbox (s : State) (i : Nat) (v : Group) : (s.setGrp i v).outbox = s.outbox := rfl
@[simp] theorem State.setGrp_flitted (s : State) (i : Nat) (v : Group) : (s.setGrp i v).flitted = s.flitted := rfl
@[simp] theorem State.setGrp_wgs (s : State) (i : Nat) (v : Group) : (s.setGrp i v).wgs = s.wgs := rfl
@[simp] theorem State.setGrp_cores (s : State) (i : Nat) (v : Group) : (s.setGrp i v).cores = s.cores := rfl
@[simp] theorem State.setGrp_launches (s : State) (i : Nat) (v : Group) : (s.setGrp i v).launches = s.launches := rfl
@[simp] theorem State.setGrp_blocks (s : State) (i : Nat) (v : Group) : (s.setGrp i v).blocks = s.blocks := rfl
@[simp] theorem State.setGrp_viewSpaces (s : State) (i : Nat) (v : Group) : (s.setGrp i v).viewSpaces = s.viewSpaces := rfl
@[simp] theorem State.setGrp_ctxs (s : State) (i : Nat) (v : Group) : (s.setGrp i v).ctxs = s.ctxs := rfl
@[simp] theorem State.setGrp_overflow (s : State) (i : Nat) (v : Group) : (s.setGrp i v).overflow = s.overflow := rfl
@[simp] theorem State.setGrp_mem (s : State) (i : Nat) (v : Group) : (s.setGrp i v).mem = s.mem := rfl
@[simp] theorem State.setGrp_tags (s : State) (i : Nat) (v : Group) : (s.setGrp i v).tags = s.tags := rfl
@[simp] theorem State.setGrp_memPoison (s : State) (i : Nat) (v : Group) : (s.setGrp i v).memPoison = s.memPoison := rfl
@[simp] theorem State.setGrp_hostWrote (s : State) (i : Nat) (v : Group) : (s.setGrp i v).hostWrote = s.hostWrote := rfl
@[simp] theorem State.setGrp_objs (s : State) (i : Nat) (v : Group) : (s.setGrp i v).objs = s.objs := rfl
@[simp] theorem State.setGrp_shadow (s : State) (i : Nat) (v : Group) : (s.setGrp i v).shadow = s.shadow := rfl
@[simp] theorem State.setGrp_shadowOut (s : State) (i : Nat) (v : Group) : (s.setGrp i v).shadowOut = s.shadowOut := rfl
@[simp] theorem State.setGrp_tasks (s : State) (i : Nat) (v : Group) : (s.setGrp i v).tasks = s.tasks := rfl
@[simp] theorem State.setGrp_tlb (s : State) (i : Nat) (v : Group) : (s.setGrp i v).tlb = s.tlb := rfl
@[simp] theorem State.setGrp_walks (s : State) (i : Nat) (v : Group) : (s.setGrp i v).walks = s.walks := rfl
@[simp] theorem State.setGrp_stores (s : State) (i : Nat) (v : Group) : (s.setGrp i v).stores = s.stores := rfl
@[simp] theorem State.setGrp_sideLog (s : State) (i : Nat) (v : Group) : (s.setGrp i v).sideLog = s.sideLog := rfl
@[simp] theorem State.setGrp_locks (s : State) (i : Nat) (v : Group) : (s.setGrp i v).locks = s.locks := rfl
@[simp] theorem State.setGrp_unlocking (s : State) (i : Nat) (v : Group) : (s.setGrp i v).unlocking = s.unlocking := rfl
@[simp] theorem State.setGrp_owed (s : State) (i : Nat) (v : Group) : (s.setGrp i v).owed = s.owed := rfl
@[simp] theorem State.setGrp_lostPins (s : State) (i : Nat) (v : Group) : (s.setGrp i v).lostPins = s.lostPins := rfl
@[simp] theorem State.setGrp_engFaults (s : State) (i : Nat) (v : Group) : (s.setGrp i v).engFaults = s.engFaults := rfl
@[simp] theorem State.setGrp_packets (s : State) (i : Nat) (v : Group) : (s.setGrp i v).packets = s.packets := rfl
@[simp] theorem State.setGrp_halted (s : State) (i : Nat) (v : Group) : (s.setGrp i v).halted = s.halted := rfl
@[simp] theorem State.setGrp_failed (s : State) (i : Nat) (v : Group) : (s.setGrp i v).failed = s.failed := rfl
@[simp] theorem State.setGrp_graphs (s : State) (i : Nat) (v : Group) : (s.setGrp i v).graphs = s.graphs := rfl
@[simp] theorem State.setGrp_queueTurn (s : State) (i : Nat) (v : Group) : (s.setGrp i v).queueTurn = s.queueTurn := rfl
@[simp] theorem State.setGrp_colls (s : State) (i : Nat) (v : Group) : (s.setGrp i v).colls = s.colls := rfl
@[simp] theorem State.setGrp_meetings (s : State) (i : Nat) (v : Group) : (s.setGrp i v).meetings = s.meetings := rfl
@[simp] theorem State.setGrp_meetQ (s : State) (i : Nat) (v : Group) : (s.setGrp i v).meetQ = s.meetQ := rfl
@[simp] theorem State.setGrp_ports (s : State) (i : Nat) (v : Group) : (s.setGrp i v).ports = s.ports := rfl
@[simp] theorem State.setGrp_devnum (s : State) (i : Nat) (v : Group) : (s.setGrp i v).devnum = s.devnum := rfl
@[simp] theorem State.setGrp_routes (s : State) (i : Nat) (v : Group) : (s.setGrp i v).routes = s.routes := rfl
@[simp] theorem State.setGrp_qps (s : State) (i : Nat) (v : Group) : (s.setGrp i v).qps = s.qps := rfl
@[simp] theorem State.setGrp_paused (s : State) (i : Nat) (v : Group) : (s.setGrp i v).paused = s.paused := rfl
@[simp] theorem State.setGrp_regs (s : State) (i : Nat) (v : Group) : (s.setGrp i v).regs = s.regs := rfl
@[simp] theorem State.setGrp_hostObjs (s : State) (i : Nat) (v : Group) : (s.setGrp i v).hostObjs = s.hostObjs := rfl
@[simp] theorem State.setGrp_commKeys (s : State) (i : Nat) (v : Group) : (s.setGrp i v).commKeys = s.commKeys := rfl
@[simp] theorem State.setGrp_errRing (s : State) (i : Nat) (v : Group) : (s.setGrp i v).errRing = s.errRing := rfl
@[simp] theorem State.setGrp_errSeq (s : State) (i : Nat) (v : Group) : (s.setGrp i v).errSeq = s.errSeq := rfl
@[simp] theorem State.setGrp_health (s : State) (i : Nat) (v : Group) : (s.setGrp i v).health = s.health := rfl
@[simp] theorem State.setGrp_replaceReq (s : State) (i : Nat) (v : Group) : (s.setGrp i v).replaceReq = s.replaceReq := rfl
@[simp] theorem State.setGrp_reason (s : State) (i : Nat) (v : Group) : (s.setGrp i v).reason = s.reason := rfl
@[simp] theorem State.setGrp_grade (s : State) (i : Nat) (v : Group) : (s.setGrp i v).grade = s.grade := rfl
@[simp] theorem State.setGrp_fusedOff (s : State) (i : Nat) (v : Group) : (s.setGrp i v).fusedOff = s.fusedOff := rfl
@[simp] theorem State.setGrp_retirePending (s : State) (i : Nat) (v : Group) : (s.setGrp i v).retirePending = s.retirePending := rfl
@[simp] theorem State.setGrp_retiredUnits (s : State) (i : Nat) (v : Group) : (s.setGrp i v).retiredUnits = s.retiredUnits := rfl
@[simp] theorem State.setGrp_powerCap (s : State) (i : Nat) (v : Group) : (s.setGrp i v).powerCap = s.powerCap := rfl
@[simp] theorem State.setGrp_clocks (s : State) (i : Nat) (v : Group) : (s.setGrp i v).clocks = s.clocks := rfl
@[simp] theorem State.setGrp_power (s : State) (i : Nat) (v : Group) : (s.setGrp i v).power = s.power := rfl
@[simp] theorem State.setGrp_temps (s : State) (i : Nat) (v : Group) : (s.setGrp i v).temps = s.temps := rfl
@[simp] theorem State.setGrp_tripped (s : State) (i : Nat) (v : Group) : (s.setGrp i v).tripped = s.tripped := rfl
@[simp] theorem State.setGrp_capsules (s : State) (i : Nat) (v : Group) : (s.setGrp i v).capsules = s.capsules := rfl
@[simp] theorem State.setGrp_flashCapsules (s : State) (i : Nat) (v : Group) : (s.setGrp i v).flashCapsules = s.flashCapsules := rfl
@[simp] theorem State.setGrp_capno (s : State) (i : Nat) (v : Group) : (s.setGrp i v).capno = s.capno := rfl
@[simp] theorem State.setGrp_capViews (s : State) (i : Nat) (v : Group) : (s.setGrp i v).capViews = s.capViews := rfl
@[simp] theorem State.setGrp_capReads (s : State) (i : Nat) (v : Group) : (s.setGrp i v).capReads = s.capReads := rfl
@[simp] theorem State.setGrp_origins (s : State) (i : Nat) (v : Group) : (s.setGrp i v).origins = s.origins := rfl
@[simp] theorem State.setGrp_frozenNote (s : State) (i : Nat) (v : Group) : (s.setGrp i v).frozenNote = s.frozenNote := rfl
@[simp] theorem State.setGrp_freezing (s : State) (i : Nat) (v : Group) : (s.setGrp i v).freezing = s.freezing := rfl
@[simp] theorem State.setGrp_resets (s : State) (i : Nat) (v : Group) : (s.setGrp i v).resets = s.resets := rfl
@[simp] theorem State.setGrp_ctxInst (s : State) (i : Nat) (v : Group) : (s.setGrp i v).ctxInst = s.ctxInst := rfl
@[simp] theorem State.setGrp_trust (s : State) (i : Nat) (v : Group) : (s.setGrp i v).trust = s.trust := rfl
@[simp] theorem State.setGrp_wgOf (s : State) (i : Nat) (v : Group) (j : Nat) : (s.setGrp i v).wgOf j = s.wgOf j := rfl
@[simp] theorem State.setGrp_core (s : State) (i : Nat) (v : Group) (j : Nat) : (s.setGrp i v).core j = s.core j := rfl
@[simp] theorem State.setGrp_launch (s : State) (i : Nat) (v : Group) (j : Nat) : (s.setGrp i v).launch j = s.launch j := rfl
@[simp] theorem State.setGrp_block (s : State) (i : Nat) (v : Group) (j : Nat) : (s.setGrp i v).block j = s.block j := rfl
@[simp] theorem State.setGrp_ctx (s : State) (i : Nat) (v : Group) (j : Nat) : (s.setGrp i v).ctx j = s.ctx j := rfl
@[simp] theorem State.setGrp_obj (s : State) (i : Nat) (v : Group) (j : Nat) : (s.setGrp i v).obj j = s.obj j := rfl
@[simp] theorem State.setGrp_task (s : State) (i : Nat) (v : Group) (j : Nat) : (s.setGrp i v).task j = s.task j := rfl
@[simp] theorem State.setGrp_coll (s : State) (i : Nat) (v : Group) (j : Nat) : (s.setGrp i v).coll j = s.coll j := rfl
@[simp] theorem State.setGrp_meeting (s : State) (i : Nat) (v : Group) (j : Nat) : (s.setGrp i v).meeting j = s.meeting j := rfl
@[simp] theorem State.setGrp_port (s : State) (i : Nat) (v : Group) (j : Nat) : (s.setGrp i v).port j = s.port j := rfl
theorem State.setGrp_grp (s : State) (i : Nat) (v : Group) (j : Nat) : (s.setGrp i v).grp j = if j = i then v else s.grp j := Cells.get_set ..
@[simp] theorem State.setGrp_grp_self (s : State) (i : Nat) (v : Group) : (s.setGrp i v).grp i = v := Cells.get_set_self ..

/-! ### setWg -/

@[simp] theorem State.setWg_cur (s : State) (i : Nat) (v : Workgroup) : (s.setWg i v).cur = s.cur := rfl
@[simp] theorem State.setWg_stalled (s : State) (i : Nat) (v : Workgroup) : (s.setWg i v).stalled = s.stalled := rfl
@[simp] theorem State.setWg_trapped (s : State) (i : Nat) (v : Workgroup) : (s.setWg i v).trapped = s.trapped := rfl
@[simp] theorem State.setWg_freeCount (s : State) (i : Nat) (v : Workgroup) : (s.setWg i v).freeCount = s.freeCount := rfl
@[simp] theorem State.setWg_nextId (s : State) (i : Nat) (v : Workgroup) : (s.setWg i v).nextId = s.nextId := rfl
@[simp] theorem State.setWg_inputs (s : State) (i : Nat) (v : Workgroup) : (s.setWg i v).inputs = s.inputs := rfl
@[simp] theorem State.setWg_outbox (s : State) (i : Nat) (v : Workgroup) : (s.setWg i v).outbox = s.outbox := rfl
@[simp] theorem State.setWg_flitted (s : State) (i : Nat) (v : Workgroup) : (s.setWg i v).flitted = s.flitted := rfl
@[simp] theorem State.setWg_groups (s : State) (i : Nat) (v : Workgroup) : (s.setWg i v).groups = s.groups := rfl
@[simp] theorem State.setWg_cores (s : State) (i : Nat) (v : Workgroup) : (s.setWg i v).cores = s.cores := rfl
@[simp] theorem State.setWg_launches (s : State) (i : Nat) (v : Workgroup) : (s.setWg i v).launches = s.launches := rfl
@[simp] theorem State.setWg_blocks (s : State) (i : Nat) (v : Workgroup) : (s.setWg i v).blocks = s.blocks := rfl
@[simp] theorem State.setWg_viewSpaces (s : State) (i : Nat) (v : Workgroup) : (s.setWg i v).viewSpaces = s.viewSpaces := rfl
@[simp] theorem State.setWg_ctxs (s : State) (i : Nat) (v : Workgroup) : (s.setWg i v).ctxs = s.ctxs := rfl
@[simp] theorem State.setWg_overflow (s : State) (i : Nat) (v : Workgroup) : (s.setWg i v).overflow = s.overflow := rfl
@[simp] theorem State.setWg_mem (s : State) (i : Nat) (v : Workgroup) : (s.setWg i v).mem = s.mem := rfl
@[simp] theorem State.setWg_tags (s : State) (i : Nat) (v : Workgroup) : (s.setWg i v).tags = s.tags := rfl
@[simp] theorem State.setWg_memPoison (s : State) (i : Nat) (v : Workgroup) : (s.setWg i v).memPoison = s.memPoison := rfl
@[simp] theorem State.setWg_hostWrote (s : State) (i : Nat) (v : Workgroup) : (s.setWg i v).hostWrote = s.hostWrote := rfl
@[simp] theorem State.setWg_objs (s : State) (i : Nat) (v : Workgroup) : (s.setWg i v).objs = s.objs := rfl
@[simp] theorem State.setWg_shadow (s : State) (i : Nat) (v : Workgroup) : (s.setWg i v).shadow = s.shadow := rfl
@[simp] theorem State.setWg_shadowOut (s : State) (i : Nat) (v : Workgroup) : (s.setWg i v).shadowOut = s.shadowOut := rfl
@[simp] theorem State.setWg_tasks (s : State) (i : Nat) (v : Workgroup) : (s.setWg i v).tasks = s.tasks := rfl
@[simp] theorem State.setWg_tlb (s : State) (i : Nat) (v : Workgroup) : (s.setWg i v).tlb = s.tlb := rfl
@[simp] theorem State.setWg_walks (s : State) (i : Nat) (v : Workgroup) : (s.setWg i v).walks = s.walks := rfl
@[simp] theorem State.setWg_stores (s : State) (i : Nat) (v : Workgroup) : (s.setWg i v).stores = s.stores := rfl
@[simp] theorem State.setWg_sideLog (s : State) (i : Nat) (v : Workgroup) : (s.setWg i v).sideLog = s.sideLog := rfl
@[simp] theorem State.setWg_locks (s : State) (i : Nat) (v : Workgroup) : (s.setWg i v).locks = s.locks := rfl
@[simp] theorem State.setWg_unlocking (s : State) (i : Nat) (v : Workgroup) : (s.setWg i v).unlocking = s.unlocking := rfl
@[simp] theorem State.setWg_owed (s : State) (i : Nat) (v : Workgroup) : (s.setWg i v).owed = s.owed := rfl
@[simp] theorem State.setWg_lostPins (s : State) (i : Nat) (v : Workgroup) : (s.setWg i v).lostPins = s.lostPins := rfl
@[simp] theorem State.setWg_engFaults (s : State) (i : Nat) (v : Workgroup) : (s.setWg i v).engFaults = s.engFaults := rfl
@[simp] theorem State.setWg_packets (s : State) (i : Nat) (v : Workgroup) : (s.setWg i v).packets = s.packets := rfl
@[simp] theorem State.setWg_halted (s : State) (i : Nat) (v : Workgroup) : (s.setWg i v).halted = s.halted := rfl
@[simp] theorem State.setWg_failed (s : State) (i : Nat) (v : Workgroup) : (s.setWg i v).failed = s.failed := rfl
@[simp] theorem State.setWg_graphs (s : State) (i : Nat) (v : Workgroup) : (s.setWg i v).graphs = s.graphs := rfl
@[simp] theorem State.setWg_queueTurn (s : State) (i : Nat) (v : Workgroup) : (s.setWg i v).queueTurn = s.queueTurn := rfl
@[simp] theorem State.setWg_colls (s : State) (i : Nat) (v : Workgroup) : (s.setWg i v).colls = s.colls := rfl
@[simp] theorem State.setWg_meetings (s : State) (i : Nat) (v : Workgroup) : (s.setWg i v).meetings = s.meetings := rfl
@[simp] theorem State.setWg_meetQ (s : State) (i : Nat) (v : Workgroup) : (s.setWg i v).meetQ = s.meetQ := rfl
@[simp] theorem State.setWg_ports (s : State) (i : Nat) (v : Workgroup) : (s.setWg i v).ports = s.ports := rfl
@[simp] theorem State.setWg_devnum (s : State) (i : Nat) (v : Workgroup) : (s.setWg i v).devnum = s.devnum := rfl
@[simp] theorem State.setWg_routes (s : State) (i : Nat) (v : Workgroup) : (s.setWg i v).routes = s.routes := rfl
@[simp] theorem State.setWg_qps (s : State) (i : Nat) (v : Workgroup) : (s.setWg i v).qps = s.qps := rfl
@[simp] theorem State.setWg_paused (s : State) (i : Nat) (v : Workgroup) : (s.setWg i v).paused = s.paused := rfl
@[simp] theorem State.setWg_regs (s : State) (i : Nat) (v : Workgroup) : (s.setWg i v).regs = s.regs := rfl
@[simp] theorem State.setWg_hostObjs (s : State) (i : Nat) (v : Workgroup) : (s.setWg i v).hostObjs = s.hostObjs := rfl
@[simp] theorem State.setWg_commKeys (s : State) (i : Nat) (v : Workgroup) : (s.setWg i v).commKeys = s.commKeys := rfl
@[simp] theorem State.setWg_errRing (s : State) (i : Nat) (v : Workgroup) : (s.setWg i v).errRing = s.errRing := rfl
@[simp] theorem State.setWg_errSeq (s : State) (i : Nat) (v : Workgroup) : (s.setWg i v).errSeq = s.errSeq := rfl
@[simp] theorem State.setWg_health (s : State) (i : Nat) (v : Workgroup) : (s.setWg i v).health = s.health := rfl
@[simp] theorem State.setWg_replaceReq (s : State) (i : Nat) (v : Workgroup) : (s.setWg i v).replaceReq = s.replaceReq := rfl
@[simp] theorem State.setWg_reason (s : State) (i : Nat) (v : Workgroup) : (s.setWg i v).reason = s.reason := rfl
@[simp] theorem State.setWg_grade (s : State) (i : Nat) (v : Workgroup) : (s.setWg i v).grade = s.grade := rfl
@[simp] theorem State.setWg_fusedOff (s : State) (i : Nat) (v : Workgroup) : (s.setWg i v).fusedOff = s.fusedOff := rfl
@[simp] theorem State.setWg_retirePending (s : State) (i : Nat) (v : Workgroup) : (s.setWg i v).retirePending = s.retirePending := rfl
@[simp] theorem State.setWg_retiredUnits (s : State) (i : Nat) (v : Workgroup) : (s.setWg i v).retiredUnits = s.retiredUnits := rfl
@[simp] theorem State.setWg_powerCap (s : State) (i : Nat) (v : Workgroup) : (s.setWg i v).powerCap = s.powerCap := rfl
@[simp] theorem State.setWg_clocks (s : State) (i : Nat) (v : Workgroup) : (s.setWg i v).clocks = s.clocks := rfl
@[simp] theorem State.setWg_power (s : State) (i : Nat) (v : Workgroup) : (s.setWg i v).power = s.power := rfl
@[simp] theorem State.setWg_temps (s : State) (i : Nat) (v : Workgroup) : (s.setWg i v).temps = s.temps := rfl
@[simp] theorem State.setWg_tripped (s : State) (i : Nat) (v : Workgroup) : (s.setWg i v).tripped = s.tripped := rfl
@[simp] theorem State.setWg_capsules (s : State) (i : Nat) (v : Workgroup) : (s.setWg i v).capsules = s.capsules := rfl
@[simp] theorem State.setWg_flashCapsules (s : State) (i : Nat) (v : Workgroup) : (s.setWg i v).flashCapsules = s.flashCapsules := rfl
@[simp] theorem State.setWg_capno (s : State) (i : Nat) (v : Workgroup) : (s.setWg i v).capno = s.capno := rfl
@[simp] theorem State.setWg_capViews (s : State) (i : Nat) (v : Workgroup) : (s.setWg i v).capViews = s.capViews := rfl
@[simp] theorem State.setWg_capReads (s : State) (i : Nat) (v : Workgroup) : (s.setWg i v).capReads = s.capReads := rfl
@[simp] theorem State.setWg_origins (s : State) (i : Nat) (v : Workgroup) : (s.setWg i v).origins = s.origins := rfl
@[simp] theorem State.setWg_frozenNote (s : State) (i : Nat) (v : Workgroup) : (s.setWg i v).frozenNote = s.frozenNote := rfl
@[simp] theorem State.setWg_freezing (s : State) (i : Nat) (v : Workgroup) : (s.setWg i v).freezing = s.freezing := rfl
@[simp] theorem State.setWg_resets (s : State) (i : Nat) (v : Workgroup) : (s.setWg i v).resets = s.resets := rfl
@[simp] theorem State.setWg_ctxInst (s : State) (i : Nat) (v : Workgroup) : (s.setWg i v).ctxInst = s.ctxInst := rfl
@[simp] theorem State.setWg_trust (s : State) (i : Nat) (v : Workgroup) : (s.setWg i v).trust = s.trust := rfl
@[simp] theorem State.setWg_grp (s : State) (i : Nat) (v : Workgroup) (j : Nat) : (s.setWg i v).grp j = s.grp j := rfl
@[simp] theorem State.setWg_core (s : State) (i : Nat) (v : Workgroup) (j : Nat) : (s.setWg i v).core j = s.core j := rfl
@[simp] theorem State.setWg_launch (s : State) (i : Nat) (v : Workgroup) (j : Nat) : (s.setWg i v).launch j = s.launch j := rfl
@[simp] theorem State.setWg_block (s : State) (i : Nat) (v : Workgroup) (j : Nat) : (s.setWg i v).block j = s.block j := rfl
@[simp] theorem State.setWg_ctx (s : State) (i : Nat) (v : Workgroup) (j : Nat) : (s.setWg i v).ctx j = s.ctx j := rfl
@[simp] theorem State.setWg_obj (s : State) (i : Nat) (v : Workgroup) (j : Nat) : (s.setWg i v).obj j = s.obj j := rfl
@[simp] theorem State.setWg_task (s : State) (i : Nat) (v : Workgroup) (j : Nat) : (s.setWg i v).task j = s.task j := rfl
@[simp] theorem State.setWg_coll (s : State) (i : Nat) (v : Workgroup) (j : Nat) : (s.setWg i v).coll j = s.coll j := rfl
@[simp] theorem State.setWg_meeting (s : State) (i : Nat) (v : Workgroup) (j : Nat) : (s.setWg i v).meeting j = s.meeting j := rfl
@[simp] theorem State.setWg_port (s : State) (i : Nat) (v : Workgroup) (j : Nat) : (s.setWg i v).port j = s.port j := rfl
theorem State.setWg_wgOf (s : State) (i : Nat) (v : Workgroup) (j : Nat) : (s.setWg i v).wgOf j = if j = i then v else s.wgOf j := Cells.get_set ..
@[simp] theorem State.setWg_wgOf_self (s : State) (i : Nat) (v : Workgroup) : (s.setWg i v).wgOf i = v := Cells.get_set_self ..
@[simp] theorem State.setWg_g (s : State) (i : Nat) (v : Workgroup) : (s.setWg i v).g = s.g := rfl

/-! ### setCore -/

@[simp] theorem State.setCore_cur (s : State) (i : Nat) (v : Core) : (s.setCore i v).cur = s.cur := rfl
@[simp] theorem State.setCore_stalled (s : State) (i : Nat) (v : Core) : (s.setCore i v).stalled = s.stalled := rfl
@[simp] theorem State.setCore_trapped (s : State) (i : Nat) (v : Core) : (s.setCore i v).trapped = s.trapped := rfl
@[simp] theorem State.setCore_freeCount (s : State) (i : Nat) (v : Core) : (s.setCore i v).freeCount = s.freeCount := rfl
@[simp] theorem State.setCore_nextId (s : State) (i : Nat) (v : Core) : (s.setCore i v).nextId = s.nextId := rfl
@[simp] theorem State.setCore_inputs (s : State) (i : Nat) (v : Core) : (s.setCore i v).inputs = s.inputs := rfl
@[simp] theorem State.setCore_outbox (s : State) (i : Nat) (v : Core) : (s.setCore i v).outbox = s.outbox := rfl
@[simp] theorem State.setCore_flitted (s : State) (i : Nat) (v : Core) : (s.setCore i v).flitted = s.flitted := rfl
@[simp] theorem State.setCore_groups (s : State) (i : Nat) (v : Core) : (s.setCore i v).groups = s.groups := rfl
@[simp] theorem State.setCore_wgs (s : State) (i : Nat) (v : Core) : (s.setCore i v).wgs = s.wgs := rfl
@[simp] theorem State.setCore_launches (s : State) (i : Nat) (v : Core) : (s.setCore i v).launches = s.launches := rfl
@[simp] theorem State.setCore_blocks (s : State) (i : Nat) (v : Core) : (s.setCore i v).blocks = s.blocks := rfl
@[simp] theorem State.setCore_viewSpaces (s : State) (i : Nat) (v : Core) : (s.setCore i v).viewSpaces = s.viewSpaces := rfl
@[simp] theorem State.setCore_ctxs (s : State) (i : Nat) (v : Core) : (s.setCore i v).ctxs = s.ctxs := rfl
@[simp] theorem State.setCore_overflow (s : State) (i : Nat) (v : Core) : (s.setCore i v).overflow = s.overflow := rfl
@[simp] theorem State.setCore_mem (s : State) (i : Nat) (v : Core) : (s.setCore i v).mem = s.mem := rfl
@[simp] theorem State.setCore_tags (s : State) (i : Nat) (v : Core) : (s.setCore i v).tags = s.tags := rfl
@[simp] theorem State.setCore_memPoison (s : State) (i : Nat) (v : Core) : (s.setCore i v).memPoison = s.memPoison := rfl
@[simp] theorem State.setCore_hostWrote (s : State) (i : Nat) (v : Core) : (s.setCore i v).hostWrote = s.hostWrote := rfl
@[simp] theorem State.setCore_objs (s : State) (i : Nat) (v : Core) : (s.setCore i v).objs = s.objs := rfl
@[simp] theorem State.setCore_shadow (s : State) (i : Nat) (v : Core) : (s.setCore i v).shadow = s.shadow := rfl
@[simp] theorem State.setCore_shadowOut (s : State) (i : Nat) (v : Core) : (s.setCore i v).shadowOut = s.shadowOut := rfl
@[simp] theorem State.setCore_tasks (s : State) (i : Nat) (v : Core) : (s.setCore i v).tasks = s.tasks := rfl
@[simp] theorem State.setCore_tlb (s : State) (i : Nat) (v : Core) : (s.setCore i v).tlb = s.tlb := rfl
@[simp] theorem State.setCore_walks (s : State) (i : Nat) (v : Core) : (s.setCore i v).walks = s.walks := rfl
@[simp] theorem State.setCore_stores (s : State) (i : Nat) (v : Core) : (s.setCore i v).stores = s.stores := rfl
@[simp] theorem State.setCore_sideLog (s : State) (i : Nat) (v : Core) : (s.setCore i v).sideLog = s.sideLog := rfl
@[simp] theorem State.setCore_locks (s : State) (i : Nat) (v : Core) : (s.setCore i v).locks = s.locks := rfl
@[simp] theorem State.setCore_unlocking (s : State) (i : Nat) (v : Core) : (s.setCore i v).unlocking = s.unlocking := rfl
@[simp] theorem State.setCore_owed (s : State) (i : Nat) (v : Core) : (s.setCore i v).owed = s.owed := rfl
@[simp] theorem State.setCore_lostPins (s : State) (i : Nat) (v : Core) : (s.setCore i v).lostPins = s.lostPins := rfl
@[simp] theorem State.setCore_engFaults (s : State) (i : Nat) (v : Core) : (s.setCore i v).engFaults = s.engFaults := rfl
@[simp] theorem State.setCore_packets (s : State) (i : Nat) (v : Core) : (s.setCore i v).packets = s.packets := rfl
@[simp] theorem State.setCore_halted (s : State) (i : Nat) (v : Core) : (s.setCore i v).halted = s.halted := rfl
@[simp] theorem State.setCore_failed (s : State) (i : Nat) (v : Core) : (s.setCore i v).failed = s.failed := rfl
@[simp] theorem State.setCore_graphs (s : State) (i : Nat) (v : Core) : (s.setCore i v).graphs = s.graphs := rfl
@[simp] theorem State.setCore_queueTurn (s : State) (i : Nat) (v : Core) : (s.setCore i v).queueTurn = s.queueTurn := rfl
@[simp] theorem State.setCore_colls (s : State) (i : Nat) (v : Core) : (s.setCore i v).colls = s.colls := rfl
@[simp] theorem State.setCore_meetings (s : State) (i : Nat) (v : Core) : (s.setCore i v).meetings = s.meetings := rfl
@[simp] theorem State.setCore_meetQ (s : State) (i : Nat) (v : Core) : (s.setCore i v).meetQ = s.meetQ := rfl
@[simp] theorem State.setCore_ports (s : State) (i : Nat) (v : Core) : (s.setCore i v).ports = s.ports := rfl
@[simp] theorem State.setCore_devnum (s : State) (i : Nat) (v : Core) : (s.setCore i v).devnum = s.devnum := rfl
@[simp] theorem State.setCore_routes (s : State) (i : Nat) (v : Core) : (s.setCore i v).routes = s.routes := rfl
@[simp] theorem State.setCore_qps (s : State) (i : Nat) (v : Core) : (s.setCore i v).qps = s.qps := rfl
@[simp] theorem State.setCore_paused (s : State) (i : Nat) (v : Core) : (s.setCore i v).paused = s.paused := rfl
@[simp] theorem State.setCore_regs (s : State) (i : Nat) (v : Core) : (s.setCore i v).regs = s.regs := rfl
@[simp] theorem State.setCore_hostObjs (s : State) (i : Nat) (v : Core) : (s.setCore i v).hostObjs = s.hostObjs := rfl
@[simp] theorem State.setCore_commKeys (s : State) (i : Nat) (v : Core) : (s.setCore i v).commKeys = s.commKeys := rfl
@[simp] theorem State.setCore_errRing (s : State) (i : Nat) (v : Core) : (s.setCore i v).errRing = s.errRing := rfl
@[simp] theorem State.setCore_errSeq (s : State) (i : Nat) (v : Core) : (s.setCore i v).errSeq = s.errSeq := rfl
@[simp] theorem State.setCore_health (s : State) (i : Nat) (v : Core) : (s.setCore i v).health = s.health := rfl
@[simp] theorem State.setCore_replaceReq (s : State) (i : Nat) (v : Core) : (s.setCore i v).replaceReq = s.replaceReq := rfl
@[simp] theorem State.setCore_reason (s : State) (i : Nat) (v : Core) : (s.setCore i v).reason = s.reason := rfl
@[simp] theorem State.setCore_grade (s : State) (i : Nat) (v : Core) : (s.setCore i v).grade = s.grade := rfl
@[simp] theorem State.setCore_fusedOff (s : State) (i : Nat) (v : Core) : (s.setCore i v).fusedOff = s.fusedOff := rfl
@[simp] theorem State.setCore_retirePending (s : State) (i : Nat) (v : Core) : (s.setCore i v).retirePending = s.retirePending := rfl
@[simp] theorem State.setCore_retiredUnits (s : State) (i : Nat) (v : Core) : (s.setCore i v).retiredUnits = s.retiredUnits := rfl
@[simp] theorem State.setCore_powerCap (s : State) (i : Nat) (v : Core) : (s.setCore i v).powerCap = s.powerCap := rfl
@[simp] theorem State.setCore_clocks (s : State) (i : Nat) (v : Core) : (s.setCore i v).clocks = s.clocks := rfl
@[simp] theorem State.setCore_power (s : State) (i : Nat) (v : Core) : (s.setCore i v).power = s.power := rfl
@[simp] theorem State.setCore_temps (s : State) (i : Nat) (v : Core) : (s.setCore i v).temps = s.temps := rfl
@[simp] theorem State.setCore_tripped (s : State) (i : Nat) (v : Core) : (s.setCore i v).tripped = s.tripped := rfl
@[simp] theorem State.setCore_capsules (s : State) (i : Nat) (v : Core) : (s.setCore i v).capsules = s.capsules := rfl
@[simp] theorem State.setCore_flashCapsules (s : State) (i : Nat) (v : Core) : (s.setCore i v).flashCapsules = s.flashCapsules := rfl
@[simp] theorem State.setCore_capno (s : State) (i : Nat) (v : Core) : (s.setCore i v).capno = s.capno := rfl
@[simp] theorem State.setCore_capViews (s : State) (i : Nat) (v : Core) : (s.setCore i v).capViews = s.capViews := rfl
@[simp] theorem State.setCore_capReads (s : State) (i : Nat) (v : Core) : (s.setCore i v).capReads = s.capReads := rfl
@[simp] theorem State.setCore_origins (s : State) (i : Nat) (v : Core) : (s.setCore i v).origins = s.origins := rfl
@[simp] theorem State.setCore_frozenNote (s : State) (i : Nat) (v : Core) : (s.setCore i v).frozenNote = s.frozenNote := rfl
@[simp] theorem State.setCore_freezing (s : State) (i : Nat) (v : Core) : (s.setCore i v).freezing = s.freezing := rfl
@[simp] theorem State.setCore_resets (s : State) (i : Nat) (v : Core) : (s.setCore i v).resets = s.resets := rfl
@[simp] theorem State.setCore_ctxInst (s : State) (i : Nat) (v : Core) : (s.setCore i v).ctxInst = s.ctxInst := rfl
@[simp] theorem State.setCore_trust (s : State) (i : Nat) (v : Core) : (s.setCore i v).trust = s.trust := rfl
@[simp] theorem State.setCore_grp (s : State) (i : Nat) (v : Core) (j : Nat) : (s.setCore i v).grp j = s.grp j := rfl
@[simp] theorem State.setCore_wgOf (s : State) (i : Nat) (v : Core) (j : Nat) : (s.setCore i v).wgOf j = s.wgOf j := rfl
@[simp] theorem State.setCore_launch (s : State) (i : Nat) (v : Core) (j : Nat) : (s.setCore i v).launch j = s.launch j := rfl
@[simp] theorem State.setCore_block (s : State) (i : Nat) (v : Core) (j : Nat) : (s.setCore i v).block j = s.block j := rfl
@[simp] theorem State.setCore_ctx (s : State) (i : Nat) (v : Core) (j : Nat) : (s.setCore i v).ctx j = s.ctx j := rfl
@[simp] theorem State.setCore_obj (s : State) (i : Nat) (v : Core) (j : Nat) : (s.setCore i v).obj j = s.obj j := rfl
@[simp] theorem State.setCore_task (s : State) (i : Nat) (v : Core) (j : Nat) : (s.setCore i v).task j = s.task j := rfl
@[simp] theorem State.setCore_coll (s : State) (i : Nat) (v : Core) (j : Nat) : (s.setCore i v).coll j = s.coll j := rfl
@[simp] theorem State.setCore_meeting (s : State) (i : Nat) (v : Core) (j : Nat) : (s.setCore i v).meeting j = s.meeting j := rfl
@[simp] theorem State.setCore_port (s : State) (i : Nat) (v : Core) (j : Nat) : (s.setCore i v).port j = s.port j := rfl
theorem State.setCore_core (s : State) (i : Nat) (v : Core) (j : Nat) : (s.setCore i v).core j = if j = i then v else s.core j := Cells.get_set ..
@[simp] theorem State.setCore_core_self (s : State) (i : Nat) (v : Core) : (s.setCore i v).core i = v := Cells.get_set_self ..
@[simp] theorem State.setCore_g (s : State) (i : Nat) (v : Core) : (s.setCore i v).g = s.g := rfl

/-! ### setLaunch -/

@[simp] theorem State.setLaunch_cur (s : State) (i : Nat) (v : Launch) : (s.setLaunch i v).cur = s.cur := rfl
@[simp] theorem State.setLaunch_stalled (s : State) (i : Nat) (v : Launch) : (s.setLaunch i v).stalled = s.stalled := rfl
@[simp] theorem State.setLaunch_trapped (s : State) (i : Nat) (v : Launch) : (s.setLaunch i v).trapped = s.trapped := rfl
@[simp] theorem State.setLaunch_freeCount (s : State) (i : Nat) (v : Launch) : (s.setLaunch i v).freeCount = s.freeCount := rfl
@[simp] theorem State.setLaunch_nextId (s : State) (i : Nat) (v : Launch) : (s.setLaunch i v).nextId = s.nextId := rfl
@[simp] theorem State.setLaunch_inputs (s : State) (i : Nat) (v : Launch) : (s.setLaunch i v).inputs = s.inputs := rfl
@[simp] theorem State.setLaunch_outbox (s : State) (i : Nat) (v : Launch) : (s.setLaunch i v).outbox = s.outbox := rfl
@[simp] theorem State.setLaunch_flitted (s : State) (i : Nat) (v : Launch) : (s.setLaunch i v).flitted = s.flitted := rfl
@[simp] theorem State.setLaunch_groups (s : State) (i : Nat) (v : Launch) : (s.setLaunch i v).groups = s.groups := rfl
@[simp] theorem State.setLaunch_wgs (s : State) (i : Nat) (v : Launch) : (s.setLaunch i v).wgs = s.wgs := rfl
@[simp] theorem State.setLaunch_cores (s : State) (i : Nat) (v : Launch) : (s.setLaunch i v).cores = s.cores := rfl
@[simp] theorem State.setLaunch_blocks (s : State) (i : Nat) (v : Launch) : (s.setLaunch i v).blocks = s.blocks := rfl
@[simp] theorem State.setLaunch_viewSpaces (s : State) (i : Nat) (v : Launch) : (s.setLaunch i v).viewSpaces = s.viewSpaces := rfl
@[simp] theorem State.setLaunch_ctxs (s : State) (i : Nat) (v : Launch) : (s.setLaunch i v).ctxs = s.ctxs := rfl
@[simp] theorem State.setLaunch_overflow (s : State) (i : Nat) (v : Launch) : (s.setLaunch i v).overflow = s.overflow := rfl
@[simp] theorem State.setLaunch_mem (s : State) (i : Nat) (v : Launch) : (s.setLaunch i v).mem = s.mem := rfl
@[simp] theorem State.setLaunch_tags (s : State) (i : Nat) (v : Launch) : (s.setLaunch i v).tags = s.tags := rfl
@[simp] theorem State.setLaunch_memPoison (s : State) (i : Nat) (v : Launch) : (s.setLaunch i v).memPoison = s.memPoison := rfl
@[simp] theorem State.setLaunch_hostWrote (s : State) (i : Nat) (v : Launch) : (s.setLaunch i v).hostWrote = s.hostWrote := rfl
@[simp] theorem State.setLaunch_objs (s : State) (i : Nat) (v : Launch) : (s.setLaunch i v).objs = s.objs := rfl
@[simp] theorem State.setLaunch_shadow (s : State) (i : Nat) (v : Launch) : (s.setLaunch i v).shadow = s.shadow := rfl
@[simp] theorem State.setLaunch_shadowOut (s : State) (i : Nat) (v : Launch) : (s.setLaunch i v).shadowOut = s.shadowOut := rfl
@[simp] theorem State.setLaunch_tasks (s : State) (i : Nat) (v : Launch) : (s.setLaunch i v).tasks = s.tasks := rfl
@[simp] theorem State.setLaunch_tlb (s : State) (i : Nat) (v : Launch) : (s.setLaunch i v).tlb = s.tlb := rfl
@[simp] theorem State.setLaunch_walks (s : State) (i : Nat) (v : Launch) : (s.setLaunch i v).walks = s.walks := rfl
@[simp] theorem State.setLaunch_stores (s : State) (i : Nat) (v : Launch) : (s.setLaunch i v).stores = s.stores := rfl
@[simp] theorem State.setLaunch_sideLog (s : State) (i : Nat) (v : Launch) : (s.setLaunch i v).sideLog = s.sideLog := rfl
@[simp] theorem State.setLaunch_locks (s : State) (i : Nat) (v : Launch) : (s.setLaunch i v).locks = s.locks := rfl
@[simp] theorem State.setLaunch_unlocking (s : State) (i : Nat) (v : Launch) : (s.setLaunch i v).unlocking = s.unlocking := rfl
@[simp] theorem State.setLaunch_owed (s : State) (i : Nat) (v : Launch) : (s.setLaunch i v).owed = s.owed := rfl
@[simp] theorem State.setLaunch_lostPins (s : State) (i : Nat) (v : Launch) : (s.setLaunch i v).lostPins = s.lostPins := rfl
@[simp] theorem State.setLaunch_engFaults (s : State) (i : Nat) (v : Launch) : (s.setLaunch i v).engFaults = s.engFaults := rfl
@[simp] theorem State.setLaunch_packets (s : State) (i : Nat) (v : Launch) : (s.setLaunch i v).packets = s.packets := rfl
@[simp] theorem State.setLaunch_halted (s : State) (i : Nat) (v : Launch) : (s.setLaunch i v).halted = s.halted := rfl
@[simp] theorem State.setLaunch_failed (s : State) (i : Nat) (v : Launch) : (s.setLaunch i v).failed = s.failed := rfl
@[simp] theorem State.setLaunch_graphs (s : State) (i : Nat) (v : Launch) : (s.setLaunch i v).graphs = s.graphs := rfl
@[simp] theorem State.setLaunch_queueTurn (s : State) (i : Nat) (v : Launch) : (s.setLaunch i v).queueTurn = s.queueTurn := rfl
@[simp] theorem State.setLaunch_colls (s : State) (i : Nat) (v : Launch) : (s.setLaunch i v).colls = s.colls := rfl
@[simp] theorem State.setLaunch_meetings (s : State) (i : Nat) (v : Launch) : (s.setLaunch i v).meetings = s.meetings := rfl
@[simp] theorem State.setLaunch_meetQ (s : State) (i : Nat) (v : Launch) : (s.setLaunch i v).meetQ = s.meetQ := rfl
@[simp] theorem State.setLaunch_ports (s : State) (i : Nat) (v : Launch) : (s.setLaunch i v).ports = s.ports := rfl
@[simp] theorem State.setLaunch_devnum (s : State) (i : Nat) (v : Launch) : (s.setLaunch i v).devnum = s.devnum := rfl
@[simp] theorem State.setLaunch_routes (s : State) (i : Nat) (v : Launch) : (s.setLaunch i v).routes = s.routes := rfl
@[simp] theorem State.setLaunch_qps (s : State) (i : Nat) (v : Launch) : (s.setLaunch i v).qps = s.qps := rfl
@[simp] theorem State.setLaunch_paused (s : State) (i : Nat) (v : Launch) : (s.setLaunch i v).paused = s.paused := rfl
@[simp] theorem State.setLaunch_regs (s : State) (i : Nat) (v : Launch) : (s.setLaunch i v).regs = s.regs := rfl
@[simp] theorem State.setLaunch_hostObjs (s : State) (i : Nat) (v : Launch) : (s.setLaunch i v).hostObjs = s.hostObjs := rfl
@[simp] theorem State.setLaunch_commKeys (s : State) (i : Nat) (v : Launch) : (s.setLaunch i v).commKeys = s.commKeys := rfl
@[simp] theorem State.setLaunch_errRing (s : State) (i : Nat) (v : Launch) : (s.setLaunch i v).errRing = s.errRing := rfl
@[simp] theorem State.setLaunch_errSeq (s : State) (i : Nat) (v : Launch) : (s.setLaunch i v).errSeq = s.errSeq := rfl
@[simp] theorem State.setLaunch_health (s : State) (i : Nat) (v : Launch) : (s.setLaunch i v).health = s.health := rfl
@[simp] theorem State.setLaunch_replaceReq (s : State) (i : Nat) (v : Launch) : (s.setLaunch i v).replaceReq = s.replaceReq := rfl
@[simp] theorem State.setLaunch_reason (s : State) (i : Nat) (v : Launch) : (s.setLaunch i v).reason = s.reason := rfl
@[simp] theorem State.setLaunch_grade (s : State) (i : Nat) (v : Launch) : (s.setLaunch i v).grade = s.grade := rfl
@[simp] theorem State.setLaunch_fusedOff (s : State) (i : Nat) (v : Launch) : (s.setLaunch i v).fusedOff = s.fusedOff := rfl
@[simp] theorem State.setLaunch_retirePending (s : State) (i : Nat) (v : Launch) : (s.setLaunch i v).retirePending = s.retirePending := rfl
@[simp] theorem State.setLaunch_retiredUnits (s : State) (i : Nat) (v : Launch) : (s.setLaunch i v).retiredUnits = s.retiredUnits := rfl
@[simp] theorem State.setLaunch_powerCap (s : State) (i : Nat) (v : Launch) : (s.setLaunch i v).powerCap = s.powerCap := rfl
@[simp] theorem State.setLaunch_clocks (s : State) (i : Nat) (v : Launch) : (s.setLaunch i v).clocks = s.clocks := rfl
@[simp] theorem State.setLaunch_power (s : State) (i : Nat) (v : Launch) : (s.setLaunch i v).power = s.power := rfl
@[simp] theorem State.setLaunch_temps (s : State) (i : Nat) (v : Launch) : (s.setLaunch i v).temps = s.temps := rfl
@[simp] theorem State.setLaunch_tripped (s : State) (i : Nat) (v : Launch) : (s.setLaunch i v).tripped = s.tripped := rfl
@[simp] theorem State.setLaunch_capsules (s : State) (i : Nat) (v : Launch) : (s.setLaunch i v).capsules = s.capsules := rfl
@[simp] theorem State.setLaunch_flashCapsules (s : State) (i : Nat) (v : Launch) : (s.setLaunch i v).flashCapsules = s.flashCapsules := rfl
@[simp] theorem State.setLaunch_capno (s : State) (i : Nat) (v : Launch) : (s.setLaunch i v).capno = s.capno := rfl
@[simp] theorem State.setLaunch_capViews (s : State) (i : Nat) (v : Launch) : (s.setLaunch i v).capViews = s.capViews := rfl
@[simp] theorem State.setLaunch_capReads (s : State) (i : Nat) (v : Launch) : (s.setLaunch i v).capReads = s.capReads := rfl
@[simp] theorem State.setLaunch_origins (s : State) (i : Nat) (v : Launch) : (s.setLaunch i v).origins = s.origins := rfl
@[simp] theorem State.setLaunch_frozenNote (s : State) (i : Nat) (v : Launch) : (s.setLaunch i v).frozenNote = s.frozenNote := rfl
@[simp] theorem State.setLaunch_freezing (s : State) (i : Nat) (v : Launch) : (s.setLaunch i v).freezing = s.freezing := rfl
@[simp] theorem State.setLaunch_resets (s : State) (i : Nat) (v : Launch) : (s.setLaunch i v).resets = s.resets := rfl
@[simp] theorem State.setLaunch_ctxInst (s : State) (i : Nat) (v : Launch) : (s.setLaunch i v).ctxInst = s.ctxInst := rfl
@[simp] theorem State.setLaunch_trust (s : State) (i : Nat) (v : Launch) : (s.setLaunch i v).trust = s.trust := rfl
@[simp] theorem State.setLaunch_grp (s : State) (i : Nat) (v : Launch) (j : Nat) : (s.setLaunch i v).grp j = s.grp j := rfl
@[simp] theorem State.setLaunch_wgOf (s : State) (i : Nat) (v : Launch) (j : Nat) : (s.setLaunch i v).wgOf j = s.wgOf j := rfl
@[simp] theorem State.setLaunch_core (s : State) (i : Nat) (v : Launch) (j : Nat) : (s.setLaunch i v).core j = s.core j := rfl
@[simp] theorem State.setLaunch_block (s : State) (i : Nat) (v : Launch) (j : Nat) : (s.setLaunch i v).block j = s.block j := rfl
@[simp] theorem State.setLaunch_ctx (s : State) (i : Nat) (v : Launch) (j : Nat) : (s.setLaunch i v).ctx j = s.ctx j := rfl
@[simp] theorem State.setLaunch_obj (s : State) (i : Nat) (v : Launch) (j : Nat) : (s.setLaunch i v).obj j = s.obj j := rfl
@[simp] theorem State.setLaunch_task (s : State) (i : Nat) (v : Launch) (j : Nat) : (s.setLaunch i v).task j = s.task j := rfl
@[simp] theorem State.setLaunch_coll (s : State) (i : Nat) (v : Launch) (j : Nat) : (s.setLaunch i v).coll j = s.coll j := rfl
@[simp] theorem State.setLaunch_meeting (s : State) (i : Nat) (v : Launch) (j : Nat) : (s.setLaunch i v).meeting j = s.meeting j := rfl
@[simp] theorem State.setLaunch_port (s : State) (i : Nat) (v : Launch) (j : Nat) : (s.setLaunch i v).port j = s.port j := rfl
theorem State.setLaunch_launch (s : State) (i : Nat) (v : Launch) (j : Nat) : (s.setLaunch i v).launch j = if j = i then v else s.launch j := Cells.get_set ..
@[simp] theorem State.setLaunch_launch_self (s : State) (i : Nat) (v : Launch) : (s.setLaunch i v).launch i = v := Cells.get_set_self ..
@[simp] theorem State.setLaunch_g (s : State) (i : Nat) (v : Launch) : (s.setLaunch i v).g = s.g := rfl

/-! ### setBlock -/

@[simp] theorem State.setBlock_cur (s : State) (i : Nat) (v : Block) : (s.setBlock i v).cur = s.cur := rfl
@[simp] theorem State.setBlock_stalled (s : State) (i : Nat) (v : Block) : (s.setBlock i v).stalled = s.stalled := rfl
@[simp] theorem State.setBlock_trapped (s : State) (i : Nat) (v : Block) : (s.setBlock i v).trapped = s.trapped := rfl
@[simp] theorem State.setBlock_freeCount (s : State) (i : Nat) (v : Block) : (s.setBlock i v).freeCount = s.freeCount := rfl
@[simp] theorem State.setBlock_nextId (s : State) (i : Nat) (v : Block) : (s.setBlock i v).nextId = s.nextId := rfl
@[simp] theorem State.setBlock_inputs (s : State) (i : Nat) (v : Block) : (s.setBlock i v).inputs = s.inputs := rfl
@[simp] theorem State.setBlock_outbox (s : State) (i : Nat) (v : Block) : (s.setBlock i v).outbox = s.outbox := rfl
@[simp] theorem State.setBlock_flitted (s : State) (i : Nat) (v : Block) : (s.setBlock i v).flitted = s.flitted := rfl
@[simp] theorem State.setBlock_groups (s : State) (i : Nat) (v : Block) : (s.setBlock i v).groups = s.groups := rfl
@[simp] theorem State.setBlock_wgs (s : State) (i : Nat) (v : Block) : (s.setBlock i v).wgs = s.wgs := rfl
@[simp] theorem State.setBlock_cores (s : State) (i : Nat) (v : Block) : (s.setBlock i v).cores = s.cores := rfl
@[simp] theorem State.setBlock_launches (s : State) (i : Nat) (v : Block) : (s.setBlock i v).launches = s.launches := rfl
@[simp] theorem State.setBlock_viewSpaces (s : State) (i : Nat) (v : Block) : (s.setBlock i v).viewSpaces = s.viewSpaces := rfl
@[simp] theorem State.setBlock_ctxs (s : State) (i : Nat) (v : Block) : (s.setBlock i v).ctxs = s.ctxs := rfl
@[simp] theorem State.setBlock_overflow (s : State) (i : Nat) (v : Block) : (s.setBlock i v).overflow = s.overflow := rfl
@[simp] theorem State.setBlock_mem (s : State) (i : Nat) (v : Block) : (s.setBlock i v).mem = s.mem := rfl
@[simp] theorem State.setBlock_tags (s : State) (i : Nat) (v : Block) : (s.setBlock i v).tags = s.tags := rfl
@[simp] theorem State.setBlock_memPoison (s : State) (i : Nat) (v : Block) : (s.setBlock i v).memPoison = s.memPoison := rfl
@[simp] theorem State.setBlock_hostWrote (s : State) (i : Nat) (v : Block) : (s.setBlock i v).hostWrote = s.hostWrote := rfl
@[simp] theorem State.setBlock_objs (s : State) (i : Nat) (v : Block) : (s.setBlock i v).objs = s.objs := rfl
@[simp] theorem State.setBlock_shadow (s : State) (i : Nat) (v : Block) : (s.setBlock i v).shadow = s.shadow := rfl
@[simp] theorem State.setBlock_shadowOut (s : State) (i : Nat) (v : Block) : (s.setBlock i v).shadowOut = s.shadowOut := rfl
@[simp] theorem State.setBlock_tasks (s : State) (i : Nat) (v : Block) : (s.setBlock i v).tasks = s.tasks := rfl
@[simp] theorem State.setBlock_tlb (s : State) (i : Nat) (v : Block) : (s.setBlock i v).tlb = s.tlb := rfl
@[simp] theorem State.setBlock_walks (s : State) (i : Nat) (v : Block) : (s.setBlock i v).walks = s.walks := rfl
@[simp] theorem State.setBlock_stores (s : State) (i : Nat) (v : Block) : (s.setBlock i v).stores = s.stores := rfl
@[simp] theorem State.setBlock_sideLog (s : State) (i : Nat) (v : Block) : (s.setBlock i v).sideLog = s.sideLog := rfl
@[simp] theorem State.setBlock_locks (s : State) (i : Nat) (v : Block) : (s.setBlock i v).locks = s.locks := rfl
@[simp] theorem State.setBlock_unlocking (s : State) (i : Nat) (v : Block) : (s.setBlock i v).unlocking = s.unlocking := rfl
@[simp] theorem State.setBlock_owed (s : State) (i : Nat) (v : Block) : (s.setBlock i v).owed = s.owed := rfl
@[simp] theorem State.setBlock_lostPins (s : State) (i : Nat) (v : Block) : (s.setBlock i v).lostPins = s.lostPins := rfl
@[simp] theorem State.setBlock_engFaults (s : State) (i : Nat) (v : Block) : (s.setBlock i v).engFaults = s.engFaults := rfl
@[simp] theorem State.setBlock_packets (s : State) (i : Nat) (v : Block) : (s.setBlock i v).packets = s.packets := rfl
@[simp] theorem State.setBlock_halted (s : State) (i : Nat) (v : Block) : (s.setBlock i v).halted = s.halted := rfl
@[simp] theorem State.setBlock_failed (s : State) (i : Nat) (v : Block) : (s.setBlock i v).failed = s.failed := rfl
@[simp] theorem State.setBlock_graphs (s : State) (i : Nat) (v : Block) : (s.setBlock i v).graphs = s.graphs := rfl
@[simp] theorem State.setBlock_queueTurn (s : State) (i : Nat) (v : Block) : (s.setBlock i v).queueTurn = s.queueTurn := rfl
@[simp] theorem State.setBlock_colls (s : State) (i : Nat) (v : Block) : (s.setBlock i v).colls = s.colls := rfl
@[simp] theorem State.setBlock_meetings (s : State) (i : Nat) (v : Block) : (s.setBlock i v).meetings = s.meetings := rfl
@[simp] theorem State.setBlock_meetQ (s : State) (i : Nat) (v : Block) : (s.setBlock i v).meetQ = s.meetQ := rfl
@[simp] theorem State.setBlock_ports (s : State) (i : Nat) (v : Block) : (s.setBlock i v).ports = s.ports := rfl
@[simp] theorem State.setBlock_devnum (s : State) (i : Nat) (v : Block) : (s.setBlock i v).devnum = s.devnum := rfl
@[simp] theorem State.setBlock_routes (s : State) (i : Nat) (v : Block) : (s.setBlock i v).routes = s.routes := rfl
@[simp] theorem State.setBlock_qps (s : State) (i : Nat) (v : Block) : (s.setBlock i v).qps = s.qps := rfl
@[simp] theorem State.setBlock_paused (s : State) (i : Nat) (v : Block) : (s.setBlock i v).paused = s.paused := rfl
@[simp] theorem State.setBlock_regs (s : State) (i : Nat) (v : Block) : (s.setBlock i v).regs = s.regs := rfl
@[simp] theorem State.setBlock_hostObjs (s : State) (i : Nat) (v : Block) : (s.setBlock i v).hostObjs = s.hostObjs := rfl
@[simp] theorem State.setBlock_commKeys (s : State) (i : Nat) (v : Block) : (s.setBlock i v).commKeys = s.commKeys := rfl
@[simp] theorem State.setBlock_errRing (s : State) (i : Nat) (v : Block) : (s.setBlock i v).errRing = s.errRing := rfl
@[simp] theorem State.setBlock_errSeq (s : State) (i : Nat) (v : Block) : (s.setBlock i v).errSeq = s.errSeq := rfl
@[simp] theorem State.setBlock_health (s : State) (i : Nat) (v : Block) : (s.setBlock i v).health = s.health := rfl
@[simp] theorem State.setBlock_replaceReq (s : State) (i : Nat) (v : Block) : (s.setBlock i v).replaceReq = s.replaceReq := rfl
@[simp] theorem State.setBlock_reason (s : State) (i : Nat) (v : Block) : (s.setBlock i v).reason = s.reason := rfl
@[simp] theorem State.setBlock_grade (s : State) (i : Nat) (v : Block) : (s.setBlock i v).grade = s.grade := rfl
@[simp] theorem State.setBlock_fusedOff (s : State) (i : Nat) (v : Block) : (s.setBlock i v).fusedOff = s.fusedOff := rfl
@[simp] theorem State.setBlock_retirePending (s : State) (i : Nat) (v : Block) : (s.setBlock i v).retirePending = s.retirePending := rfl
@[simp] theorem State.setBlock_retiredUnits (s : State) (i : Nat) (v : Block) : (s.setBlock i v).retiredUnits = s.retiredUnits := rfl
@[simp] theorem State.setBlock_powerCap (s : State) (i : Nat) (v : Block) : (s.setBlock i v).powerCap = s.powerCap := rfl
@[simp] theorem State.setBlock_clocks (s : State) (i : Nat) (v : Block) : (s.setBlock i v).clocks = s.clocks := rfl
@[simp] theorem State.setBlock_power (s : State) (i : Nat) (v : Block) : (s.setBlock i v).power = s.power := rfl
@[simp] theorem State.setBlock_temps (s : State) (i : Nat) (v : Block) : (s.setBlock i v).temps = s.temps := rfl
@[simp] theorem State.setBlock_tripped (s : State) (i : Nat) (v : Block) : (s.setBlock i v).tripped = s.tripped := rfl
@[simp] theorem State.setBlock_capsules (s : State) (i : Nat) (v : Block) : (s.setBlock i v).capsules = s.capsules := rfl
@[simp] theorem State.setBlock_flashCapsules (s : State) (i : Nat) (v : Block) : (s.setBlock i v).flashCapsules = s.flashCapsules := rfl
@[simp] theorem State.setBlock_capno (s : State) (i : Nat) (v : Block) : (s.setBlock i v).capno = s.capno := rfl
@[simp] theorem State.setBlock_capViews (s : State) (i : Nat) (v : Block) : (s.setBlock i v).capViews = s.capViews := rfl
@[simp] theorem State.setBlock_capReads (s : State) (i : Nat) (v : Block) : (s.setBlock i v).capReads = s.capReads := rfl
@[simp] theorem State.setBlock_origins (s : State) (i : Nat) (v : Block) : (s.setBlock i v).origins = s.origins := rfl
@[simp] theorem State.setBlock_frozenNote (s : State) (i : Nat) (v : Block) : (s.setBlock i v).frozenNote = s.frozenNote := rfl
@[simp] theorem State.setBlock_freezing (s : State) (i : Nat) (v : Block) : (s.setBlock i v).freezing = s.freezing := rfl
@[simp] theorem State.setBlock_resets (s : State) (i : Nat) (v : Block) : (s.setBlock i v).resets = s.resets := rfl
@[simp] theorem State.setBlock_ctxInst (s : State) (i : Nat) (v : Block) : (s.setBlock i v).ctxInst = s.ctxInst := rfl
@[simp] theorem State.setBlock_trust (s : State) (i : Nat) (v : Block) : (s.setBlock i v).trust = s.trust := rfl
@[simp] theorem State.setBlock_grp (s : State) (i : Nat) (v : Block) (j : Nat) : (s.setBlock i v).grp j = s.grp j := rfl
@[simp] theorem State.setBlock_wgOf (s : State) (i : Nat) (v : Block) (j : Nat) : (s.setBlock i v).wgOf j = s.wgOf j := rfl
@[simp] theorem State.setBlock_core (s : State) (i : Nat) (v : Block) (j : Nat) : (s.setBlock i v).core j = s.core j := rfl
@[simp] theorem State.setBlock_launch (s : State) (i : Nat) (v : Block) (j : Nat) : (s.setBlock i v).launch j = s.launch j := rfl
@[simp] theorem State.setBlock_ctx (s : State) (i : Nat) (v : Block) (j : Nat) : (s.setBlock i v).ctx j = s.ctx j := rfl
@[simp] theorem State.setBlock_obj (s : State) (i : Nat) (v : Block) (j : Nat) : (s.setBlock i v).obj j = s.obj j := rfl
@[simp] theorem State.setBlock_task (s : State) (i : Nat) (v : Block) (j : Nat) : (s.setBlock i v).task j = s.task j := rfl
@[simp] theorem State.setBlock_coll (s : State) (i : Nat) (v : Block) (j : Nat) : (s.setBlock i v).coll j = s.coll j := rfl
@[simp] theorem State.setBlock_meeting (s : State) (i : Nat) (v : Block) (j : Nat) : (s.setBlock i v).meeting j = s.meeting j := rfl
@[simp] theorem State.setBlock_port (s : State) (i : Nat) (v : Block) (j : Nat) : (s.setBlock i v).port j = s.port j := rfl
theorem State.setBlock_block (s : State) (i : Nat) (v : Block) (j : Nat) : (s.setBlock i v).block j = if j = i then v else s.block j := Cells.get_set ..
@[simp] theorem State.setBlock_block_self (s : State) (i : Nat) (v : Block) : (s.setBlock i v).block i = v := Cells.get_set_self ..
@[simp] theorem State.setBlock_g (s : State) (i : Nat) (v : Block) : (s.setBlock i v).g = s.g := rfl

/-! ### setCtx -/

@[simp] theorem State.setCtx_cur (s : State) (i : Nat) (v : Ctx) : (s.setCtx i v).cur = s.cur := rfl
@[simp] theorem State.setCtx_stalled (s : State) (i : Nat) (v : Ctx) : (s.setCtx i v).stalled = s.stalled := rfl
@[simp] theorem State.setCtx_trapped (s : State) (i : Nat) (v : Ctx) : (s.setCtx i v).trapped = s.trapped := rfl
@[simp] theorem State.setCtx_freeCount (s : State) (i : Nat) (v : Ctx) : (s.setCtx i v).freeCount = s.freeCount := rfl
@[simp] theorem State.setCtx_nextId (s : State) (i : Nat) (v : Ctx) : (s.setCtx i v).nextId = s.nextId := rfl
@[simp] theorem State.setCtx_inputs (s : State) (i : Nat) (v : Ctx) : (s.setCtx i v).inputs = s.inputs := rfl
@[simp] theorem State.setCtx_outbox (s : State) (i : Nat) (v : Ctx) : (s.setCtx i v).outbox = s.outbox := rfl
@[simp] theorem State.setCtx_flitted (s : State) (i : Nat) (v : Ctx) : (s.setCtx i v).flitted = s.flitted := rfl
@[simp] theorem State.setCtx_groups (s : State) (i : Nat) (v : Ctx) : (s.setCtx i v).groups = s.groups := rfl
@[simp] theorem State.setCtx_wgs (s : State) (i : Nat) (v : Ctx) : (s.setCtx i v).wgs = s.wgs := rfl
@[simp] theorem State.setCtx_cores (s : State) (i : Nat) (v : Ctx) : (s.setCtx i v).cores = s.cores := rfl
@[simp] theorem State.setCtx_launches (s : State) (i : Nat) (v : Ctx) : (s.setCtx i v).launches = s.launches := rfl
@[simp] theorem State.setCtx_blocks (s : State) (i : Nat) (v : Ctx) : (s.setCtx i v).blocks = s.blocks := rfl
@[simp] theorem State.setCtx_viewSpaces (s : State) (i : Nat) (v : Ctx) : (s.setCtx i v).viewSpaces = s.viewSpaces := rfl
@[simp] theorem State.setCtx_overflow (s : State) (i : Nat) (v : Ctx) : (s.setCtx i v).overflow = s.overflow := rfl
@[simp] theorem State.setCtx_mem (s : State) (i : Nat) (v : Ctx) : (s.setCtx i v).mem = s.mem := rfl
@[simp] theorem State.setCtx_tags (s : State) (i : Nat) (v : Ctx) : (s.setCtx i v).tags = s.tags := rfl
@[simp] theorem State.setCtx_memPoison (s : State) (i : Nat) (v : Ctx) : (s.setCtx i v).memPoison = s.memPoison := rfl
@[simp] theorem State.setCtx_hostWrote (s : State) (i : Nat) (v : Ctx) : (s.setCtx i v).hostWrote = s.hostWrote := rfl
@[simp] theorem State.setCtx_objs (s : State) (i : Nat) (v : Ctx) : (s.setCtx i v).objs = s.objs := rfl
@[simp] theorem State.setCtx_shadow (s : State) (i : Nat) (v : Ctx) : (s.setCtx i v).shadow = s.shadow := rfl
@[simp] theorem State.setCtx_shadowOut (s : State) (i : Nat) (v : Ctx) : (s.setCtx i v).shadowOut = s.shadowOut := rfl
@[simp] theorem State.setCtx_tasks (s : State) (i : Nat) (v : Ctx) : (s.setCtx i v).tasks = s.tasks := rfl
@[simp] theorem State.setCtx_tlb (s : State) (i : Nat) (v : Ctx) : (s.setCtx i v).tlb = s.tlb := rfl
@[simp] theorem State.setCtx_walks (s : State) (i : Nat) (v : Ctx) : (s.setCtx i v).walks = s.walks := rfl
@[simp] theorem State.setCtx_stores (s : State) (i : Nat) (v : Ctx) : (s.setCtx i v).stores = s.stores := rfl
@[simp] theorem State.setCtx_sideLog (s : State) (i : Nat) (v : Ctx) : (s.setCtx i v).sideLog = s.sideLog := rfl
@[simp] theorem State.setCtx_locks (s : State) (i : Nat) (v : Ctx) : (s.setCtx i v).locks = s.locks := rfl
@[simp] theorem State.setCtx_unlocking (s : State) (i : Nat) (v : Ctx) : (s.setCtx i v).unlocking = s.unlocking := rfl
@[simp] theorem State.setCtx_owed (s : State) (i : Nat) (v : Ctx) : (s.setCtx i v).owed = s.owed := rfl
@[simp] theorem State.setCtx_lostPins (s : State) (i : Nat) (v : Ctx) : (s.setCtx i v).lostPins = s.lostPins := rfl
@[simp] theorem State.setCtx_engFaults (s : State) (i : Nat) (v : Ctx) : (s.setCtx i v).engFaults = s.engFaults := rfl
@[simp] theorem State.setCtx_packets (s : State) (i : Nat) (v : Ctx) : (s.setCtx i v).packets = s.packets := rfl
@[simp] theorem State.setCtx_halted (s : State) (i : Nat) (v : Ctx) : (s.setCtx i v).halted = s.halted := rfl
@[simp] theorem State.setCtx_failed (s : State) (i : Nat) (v : Ctx) : (s.setCtx i v).failed = s.failed := rfl
@[simp] theorem State.setCtx_graphs (s : State) (i : Nat) (v : Ctx) : (s.setCtx i v).graphs = s.graphs := rfl
@[simp] theorem State.setCtx_queueTurn (s : State) (i : Nat) (v : Ctx) : (s.setCtx i v).queueTurn = s.queueTurn := rfl
@[simp] theorem State.setCtx_colls (s : State) (i : Nat) (v : Ctx) : (s.setCtx i v).colls = s.colls := rfl
@[simp] theorem State.setCtx_meetings (s : State) (i : Nat) (v : Ctx) : (s.setCtx i v).meetings = s.meetings := rfl
@[simp] theorem State.setCtx_meetQ (s : State) (i : Nat) (v : Ctx) : (s.setCtx i v).meetQ = s.meetQ := rfl
@[simp] theorem State.setCtx_ports (s : State) (i : Nat) (v : Ctx) : (s.setCtx i v).ports = s.ports := rfl
@[simp] theorem State.setCtx_devnum (s : State) (i : Nat) (v : Ctx) : (s.setCtx i v).devnum = s.devnum := rfl
@[simp] theorem State.setCtx_routes (s : State) (i : Nat) (v : Ctx) : (s.setCtx i v).routes = s.routes := rfl
@[simp] theorem State.setCtx_qps (s : State) (i : Nat) (v : Ctx) : (s.setCtx i v).qps = s.qps := rfl
@[simp] theorem State.setCtx_paused (s : State) (i : Nat) (v : Ctx) : (s.setCtx i v).paused = s.paused := rfl
@[simp] theorem State.setCtx_regs (s : State) (i : Nat) (v : Ctx) : (s.setCtx i v).regs = s.regs := rfl
@[simp] theorem State.setCtx_hostObjs (s : State) (i : Nat) (v : Ctx) : (s.setCtx i v).hostObjs = s.hostObjs := rfl
@[simp] theorem State.setCtx_commKeys (s : State) (i : Nat) (v : Ctx) : (s.setCtx i v).commKeys = s.commKeys := rfl
@[simp] theorem State.setCtx_errRing (s : State) (i : Nat) (v : Ctx) : (s.setCtx i v).errRing = s.errRing := rfl
@[simp] theorem State.setCtx_errSeq (s : State) (i : Nat) (v : Ctx) : (s.setCtx i v).errSeq = s.errSeq := rfl
@[simp] theorem State.setCtx_health (s : State) (i : Nat) (v : Ctx) : (s.setCtx i v).health = s.health := rfl
@[simp] theorem State.setCtx_replaceReq (s : State) (i : Nat) (v : Ctx) : (s.setCtx i v).replaceReq = s.replaceReq := rfl
@[simp] theorem State.setCtx_reason (s : State) (i : Nat) (v : Ctx) : (s.setCtx i v).reason = s.reason := rfl
@[simp] theorem State.setCtx_grade (s : State) (i : Nat) (v : Ctx) : (s.setCtx i v).grade = s.grade := rfl
@[simp] theorem State.setCtx_fusedOff (s : State) (i : Nat) (v : Ctx) : (s.setCtx i v).fusedOff = s.fusedOff := rfl
@[simp] theorem State.setCtx_retirePending (s : State) (i : Nat) (v : Ctx) : (s.setCtx i v).retirePending = s.retirePending := rfl
@[simp] theorem State.setCtx_retiredUnits (s : State) (i : Nat) (v : Ctx) : (s.setCtx i v).retiredUnits = s.retiredUnits := rfl
@[simp] theorem State.setCtx_powerCap (s : State) (i : Nat) (v : Ctx) : (s.setCtx i v).powerCap = s.powerCap := rfl
@[simp] theorem State.setCtx_clocks (s : State) (i : Nat) (v : Ctx) : (s.setCtx i v).clocks = s.clocks := rfl
@[simp] theorem State.setCtx_power (s : State) (i : Nat) (v : Ctx) : (s.setCtx i v).power = s.power := rfl
@[simp] theorem State.setCtx_temps (s : State) (i : Nat) (v : Ctx) : (s.setCtx i v).temps = s.temps := rfl
@[simp] theorem State.setCtx_tripped (s : State) (i : Nat) (v : Ctx) : (s.setCtx i v).tripped = s.tripped := rfl
@[simp] theorem State.setCtx_capsules (s : State) (i : Nat) (v : Ctx) : (s.setCtx i v).capsules = s.capsules := rfl
@[simp] theorem State.setCtx_flashCapsules (s : State) (i : Nat) (v : Ctx) : (s.setCtx i v).flashCapsules = s.flashCapsules := rfl
@[simp] theorem State.setCtx_capno (s : State) (i : Nat) (v : Ctx) : (s.setCtx i v).capno = s.capno := rfl
@[simp] theorem State.setCtx_capViews (s : State) (i : Nat) (v : Ctx) : (s.setCtx i v).capViews = s.capViews := rfl
@[simp] theorem State.setCtx_capReads (s : State) (i : Nat) (v : Ctx) : (s.setCtx i v).capReads = s.capReads := rfl
@[simp] theorem State.setCtx_origins (s : State) (i : Nat) (v : Ctx) : (s.setCtx i v).origins = s.origins := rfl
@[simp] theorem State.setCtx_frozenNote (s : State) (i : Nat) (v : Ctx) : (s.setCtx i v).frozenNote = s.frozenNote := rfl
@[simp] theorem State.setCtx_freezing (s : State) (i : Nat) (v : Ctx) : (s.setCtx i v).freezing = s.freezing := rfl
@[simp] theorem State.setCtx_resets (s : State) (i : Nat) (v : Ctx) : (s.setCtx i v).resets = s.resets := rfl
@[simp] theorem State.setCtx_ctxInst (s : State) (i : Nat) (v : Ctx) : (s.setCtx i v).ctxInst = s.ctxInst := rfl
@[simp] theorem State.setCtx_trust (s : State) (i : Nat) (v : Ctx) : (s.setCtx i v).trust = s.trust := rfl
@[simp] theorem State.setCtx_grp (s : State) (i : Nat) (v : Ctx) (j : Nat) : (s.setCtx i v).grp j = s.grp j := rfl
@[simp] theorem State.setCtx_wgOf (s : State) (i : Nat) (v : Ctx) (j : Nat) : (s.setCtx i v).wgOf j = s.wgOf j := rfl
@[simp] theorem State.setCtx_core (s : State) (i : Nat) (v : Ctx) (j : Nat) : (s.setCtx i v).core j = s.core j := rfl
@[simp] theorem State.setCtx_launch (s : State) (i : Nat) (v : Ctx) (j : Nat) : (s.setCtx i v).launch j = s.launch j := rfl
@[simp] theorem State.setCtx_block (s : State) (i : Nat) (v : Ctx) (j : Nat) : (s.setCtx i v).block j = s.block j := rfl
@[simp] theorem State.setCtx_obj (s : State) (i : Nat) (v : Ctx) (j : Nat) : (s.setCtx i v).obj j = s.obj j := rfl
@[simp] theorem State.setCtx_task (s : State) (i : Nat) (v : Ctx) (j : Nat) : (s.setCtx i v).task j = s.task j := rfl
@[simp] theorem State.setCtx_coll (s : State) (i : Nat) (v : Ctx) (j : Nat) : (s.setCtx i v).coll j = s.coll j := rfl
@[simp] theorem State.setCtx_meeting (s : State) (i : Nat) (v : Ctx) (j : Nat) : (s.setCtx i v).meeting j = s.meeting j := rfl
@[simp] theorem State.setCtx_port (s : State) (i : Nat) (v : Ctx) (j : Nat) : (s.setCtx i v).port j = s.port j := rfl
theorem State.setCtx_ctx (s : State) (i : Nat) (v : Ctx) (j : Nat) : (s.setCtx i v).ctx j = if j = i then v else s.ctx j := Cells.get_set ..
@[simp] theorem State.setCtx_ctx_self (s : State) (i : Nat) (v : Ctx) : (s.setCtx i v).ctx i = v := Cells.get_set_self ..
@[simp] theorem State.setCtx_g (s : State) (i : Nat) (v : Ctx) : (s.setCtx i v).g = s.g := rfl

/-! ### setObj -/

@[simp] theorem State.setObj_cur (s : State) (i : Nat) (v : ObjEntry) : (s.setObj i v).cur = s.cur := rfl
@[simp] theorem State.setObj_stalled (s : State) (i : Nat) (v : ObjEntry) : (s.setObj i v).stalled = s.stalled := rfl
@[simp] theorem State.setObj_trapped (s : State) (i : Nat) (v : ObjEntry) : (s.setObj i v).trapped = s.trapped := rfl
@[simp] theorem State.setObj_freeCount (s : State) (i : Nat) (v : ObjEntry) : (s.setObj i v).freeCount = s.freeCount := rfl
@[simp] theorem State.setObj_nextId (s : State) (i : Nat) (v : ObjEntry) : (s.setObj i v).nextId = s.nextId := rfl
@[simp] theorem State.setObj_inputs (s : State) (i : Nat) (v : ObjEntry) : (s.setObj i v).inputs = s.inputs := rfl
@[simp] theorem State.setObj_outbox (s : State) (i : Nat) (v : ObjEntry) : (s.setObj i v).outbox = s.outbox := rfl
@[simp] theorem State.setObj_flitted (s : State) (i : Nat) (v : ObjEntry) : (s.setObj i v).flitted = s.flitted := rfl
@[simp] theorem State.setObj_groups (s : State) (i : Nat) (v : ObjEntry) : (s.setObj i v).groups = s.groups := rfl
@[simp] theorem State.setObj_wgs (s : State) (i : Nat) (v : ObjEntry) : (s.setObj i v).wgs = s.wgs := rfl
@[simp] theorem State.setObj_cores (s : State) (i : Nat) (v : ObjEntry) : (s.setObj i v).cores = s.cores := rfl
@[simp] theorem State.setObj_launches (s : State) (i : Nat) (v : ObjEntry) : (s.setObj i v).launches = s.launches := rfl
@[simp] theorem State.setObj_blocks (s : State) (i : Nat) (v : ObjEntry) : (s.setObj i v).blocks = s.blocks := rfl
@[simp] theorem State.setObj_viewSpaces (s : State) (i : Nat) (v : ObjEntry) : (s.setObj i v).viewSpaces = s.viewSpaces := rfl
@[simp] theorem State.setObj_ctxs (s : State) (i : Nat) (v : ObjEntry) : (s.setObj i v).ctxs = s.ctxs := rfl
@[simp] theorem State.setObj_overflow (s : State) (i : Nat) (v : ObjEntry) : (s.setObj i v).overflow = s.overflow := rfl
@[simp] theorem State.setObj_mem (s : State) (i : Nat) (v : ObjEntry) : (s.setObj i v).mem = s.mem := rfl
@[simp] theorem State.setObj_tags (s : State) (i : Nat) (v : ObjEntry) : (s.setObj i v).tags = s.tags := rfl
@[simp] theorem State.setObj_memPoison (s : State) (i : Nat) (v : ObjEntry) : (s.setObj i v).memPoison = s.memPoison := rfl
@[simp] theorem State.setObj_hostWrote (s : State) (i : Nat) (v : ObjEntry) : (s.setObj i v).hostWrote = s.hostWrote := rfl
@[simp] theorem State.setObj_shadow (s : State) (i : Nat) (v : ObjEntry) : (s.setObj i v).shadow = s.shadow := rfl
@[simp] theorem State.setObj_shadowOut (s : State) (i : Nat) (v : ObjEntry) : (s.setObj i v).shadowOut = s.shadowOut := rfl
@[simp] theorem State.setObj_tasks (s : State) (i : Nat) (v : ObjEntry) : (s.setObj i v).tasks = s.tasks := rfl
@[simp] theorem State.setObj_tlb (s : State) (i : Nat) (v : ObjEntry) : (s.setObj i v).tlb = s.tlb := rfl
@[simp] theorem State.setObj_walks (s : State) (i : Nat) (v : ObjEntry) : (s.setObj i v).walks = s.walks := rfl
@[simp] theorem State.setObj_stores (s : State) (i : Nat) (v : ObjEntry) : (s.setObj i v).stores = s.stores := rfl
@[simp] theorem State.setObj_sideLog (s : State) (i : Nat) (v : ObjEntry) : (s.setObj i v).sideLog = s.sideLog := rfl
@[simp] theorem State.setObj_locks (s : State) (i : Nat) (v : ObjEntry) : (s.setObj i v).locks = s.locks := rfl
@[simp] theorem State.setObj_unlocking (s : State) (i : Nat) (v : ObjEntry) : (s.setObj i v).unlocking = s.unlocking := rfl
@[simp] theorem State.setObj_owed (s : State) (i : Nat) (v : ObjEntry) : (s.setObj i v).owed = s.owed := rfl
@[simp] theorem State.setObj_lostPins (s : State) (i : Nat) (v : ObjEntry) : (s.setObj i v).lostPins = s.lostPins := rfl
@[simp] theorem State.setObj_engFaults (s : State) (i : Nat) (v : ObjEntry) : (s.setObj i v).engFaults = s.engFaults := rfl
@[simp] theorem State.setObj_packets (s : State) (i : Nat) (v : ObjEntry) : (s.setObj i v).packets = s.packets := rfl
@[simp] theorem State.setObj_halted (s : State) (i : Nat) (v : ObjEntry) : (s.setObj i v).halted = s.halted := rfl
@[simp] theorem State.setObj_failed (s : State) (i : Nat) (v : ObjEntry) : (s.setObj i v).failed = s.failed := rfl
@[simp] theorem State.setObj_graphs (s : State) (i : Nat) (v : ObjEntry) : (s.setObj i v).graphs = s.graphs := rfl
@[simp] theorem State.setObj_queueTurn (s : State) (i : Nat) (v : ObjEntry) : (s.setObj i v).queueTurn = s.queueTurn := rfl
@[simp] theorem State.setObj_colls (s : State) (i : Nat) (v : ObjEntry) : (s.setObj i v).colls = s.colls := rfl
@[simp] theorem State.setObj_meetings (s : State) (i : Nat) (v : ObjEntry) : (s.setObj i v).meetings = s.meetings := rfl
@[simp] theorem State.setObj_meetQ (s : State) (i : Nat) (v : ObjEntry) : (s.setObj i v).meetQ = s.meetQ := rfl
@[simp] theorem State.setObj_ports (s : State) (i : Nat) (v : ObjEntry) : (s.setObj i v).ports = s.ports := rfl
@[simp] theorem State.setObj_devnum (s : State) (i : Nat) (v : ObjEntry) : (s.setObj i v).devnum = s.devnum := rfl
@[simp] theorem State.setObj_routes (s : State) (i : Nat) (v : ObjEntry) : (s.setObj i v).routes = s.routes := rfl
@[simp] theorem State.setObj_qps (s : State) (i : Nat) (v : ObjEntry) : (s.setObj i v).qps = s.qps := rfl
@[simp] theorem State.setObj_paused (s : State) (i : Nat) (v : ObjEntry) : (s.setObj i v).paused = s.paused := rfl
@[simp] theorem State.setObj_regs (s : State) (i : Nat) (v : ObjEntry) : (s.setObj i v).regs = s.regs := rfl
@[simp] theorem State.setObj_hostObjs (s : State) (i : Nat) (v : ObjEntry) : (s.setObj i v).hostObjs = s.hostObjs := rfl
@[simp] theorem State.setObj_commKeys (s : State) (i : Nat) (v : ObjEntry) : (s.setObj i v).commKeys = s.commKeys := rfl
@[simp] theorem State.setObj_errRing (s : State) (i : Nat) (v : ObjEntry) : (s.setObj i v).errRing = s.errRing := rfl
@[simp] theorem State.setObj_errSeq (s : State) (i : Nat) (v : ObjEntry) : (s.setObj i v).errSeq = s.errSeq := rfl
@[simp] theorem State.setObj_health (s : State) (i : Nat) (v : ObjEntry) : (s.setObj i v).health = s.health := rfl
@[simp] theorem State.setObj_replaceReq (s : State) (i : Nat) (v : ObjEntry) : (s.setObj i v).replaceReq = s.replaceReq := rfl
@[simp] theorem State.setObj_reason (s : State) (i : Nat) (v : ObjEntry) : (s.setObj i v).reason = s.reason := rfl
@[simp] theorem State.setObj_grade (s : State) (i : Nat) (v : ObjEntry) : (s.setObj i v).grade = s.grade := rfl
@[simp] theorem State.setObj_fusedOff (s : State) (i : Nat) (v : ObjEntry) : (s.setObj i v).fusedOff = s.fusedOff := rfl
@[simp] theorem State.setObj_retirePending (s : State) (i : Nat) (v : ObjEntry) : (s.setObj i v).retirePending = s.retirePending := rfl
@[simp] theorem State.setObj_retiredUnits (s : State) (i : Nat) (v : ObjEntry) : (s.setObj i v).retiredUnits = s.retiredUnits := rfl
@[simp] theorem State.setObj_powerCap (s : State) (i : Nat) (v : ObjEntry) : (s.setObj i v).powerCap = s.powerCap := rfl
@[simp] theorem State.setObj_clocks (s : State) (i : Nat) (v : ObjEntry) : (s.setObj i v).clocks = s.clocks := rfl
@[simp] theorem State.setObj_power (s : State) (i : Nat) (v : ObjEntry) : (s.setObj i v).power = s.power := rfl
@[simp] theorem State.setObj_temps (s : State) (i : Nat) (v : ObjEntry) : (s.setObj i v).temps = s.temps := rfl
@[simp] theorem State.setObj_tripped (s : State) (i : Nat) (v : ObjEntry) : (s.setObj i v).tripped = s.tripped := rfl
@[simp] theorem State.setObj_capsules (s : State) (i : Nat) (v : ObjEntry) : (s.setObj i v).capsules = s.capsules := rfl
@[simp] theorem State.setObj_flashCapsules (s : State) (i : Nat) (v : ObjEntry) : (s.setObj i v).flashCapsules = s.flashCapsules := rfl
@[simp] theorem State.setObj_capno (s : State) (i : Nat) (v : ObjEntry) : (s.setObj i v).capno = s.capno := rfl
@[simp] theorem State.setObj_capViews (s : State) (i : Nat) (v : ObjEntry) : (s.setObj i v).capViews = s.capViews := rfl
@[simp] theorem State.setObj_capReads (s : State) (i : Nat) (v : ObjEntry) : (s.setObj i v).capReads = s.capReads := rfl
@[simp] theorem State.setObj_origins (s : State) (i : Nat) (v : ObjEntry) : (s.setObj i v).origins = s.origins := rfl
@[simp] theorem State.setObj_frozenNote (s : State) (i : Nat) (v : ObjEntry) : (s.setObj i v).frozenNote = s.frozenNote := rfl
@[simp] theorem State.setObj_freezing (s : State) (i : Nat) (v : ObjEntry) : (s.setObj i v).freezing = s.freezing := rfl
@[simp] theorem State.setObj_resets (s : State) (i : Nat) (v : ObjEntry) : (s.setObj i v).resets = s.resets := rfl
@[simp] theorem State.setObj_ctxInst (s : State) (i : Nat) (v : ObjEntry) : (s.setObj i v).ctxInst = s.ctxInst := rfl
@[simp] theorem State.setObj_trust (s : State) (i : Nat) (v : ObjEntry) : (s.setObj i v).trust = s.trust := rfl
@[simp] theorem State.setObj_grp (s : State) (i : Nat) (v : ObjEntry) (j : Nat) : (s.setObj i v).grp j = s.grp j := rfl
@[simp] theorem State.setObj_wgOf (s : State) (i : Nat) (v : ObjEntry) (j : Nat) : (s.setObj i v).wgOf j = s.wgOf j := rfl
@[simp] theorem State.setObj_core (s : State) (i : Nat) (v : ObjEntry) (j : Nat) : (s.setObj i v).core j = s.core j := rfl
@[simp] theorem State.setObj_launch (s : State) (i : Nat) (v : ObjEntry) (j : Nat) : (s.setObj i v).launch j = s.launch j := rfl
@[simp] theorem State.setObj_block (s : State) (i : Nat) (v : ObjEntry) (j : Nat) : (s.setObj i v).block j = s.block j := rfl
@[simp] theorem State.setObj_ctx (s : State) (i : Nat) (v : ObjEntry) (j : Nat) : (s.setObj i v).ctx j = s.ctx j := rfl
@[simp] theorem State.setObj_task (s : State) (i : Nat) (v : ObjEntry) (j : Nat) : (s.setObj i v).task j = s.task j := rfl
@[simp] theorem State.setObj_coll (s : State) (i : Nat) (v : ObjEntry) (j : Nat) : (s.setObj i v).coll j = s.coll j := rfl
@[simp] theorem State.setObj_meeting (s : State) (i : Nat) (v : ObjEntry) (j : Nat) : (s.setObj i v).meeting j = s.meeting j := rfl
@[simp] theorem State.setObj_port (s : State) (i : Nat) (v : ObjEntry) (j : Nat) : (s.setObj i v).port j = s.port j := rfl
theorem State.setObj_obj (s : State) (i : Nat) (v : ObjEntry) (j : Nat) : (s.setObj i v).obj j = if j = i then v else s.obj j := Cells.get_set ..
@[simp] theorem State.setObj_obj_self (s : State) (i : Nat) (v : ObjEntry) : (s.setObj i v).obj i = v := Cells.get_set_self ..
@[simp] theorem State.setObj_g (s : State) (i : Nat) (v : ObjEntry) : (s.setObj i v).g = s.g := rfl

/-! ### setTask -/

@[simp] theorem State.setTask_cur (s : State) (i : Nat) (v : TaskEntry) : (s.setTask i v).cur = s.cur := rfl
@[simp] theorem State.setTask_stalled (s : State) (i : Nat) (v : TaskEntry) : (s.setTask i v).stalled = s.stalled := rfl
@[simp] theorem State.setTask_trapped (s : State) (i : Nat) (v : TaskEntry) : (s.setTask i v).trapped = s.trapped := rfl
@[simp] theorem State.setTask_freeCount (s : State) (i : Nat) (v : TaskEntry) : (s.setTask i v).freeCount = s.freeCount := rfl
@[simp] theorem State.setTask_nextId (s : State) (i : Nat) (v : TaskEntry) : (s.setTask i v).nextId = s.nextId := rfl
@[simp] theorem State.setTask_inputs (s : State) (i : Nat) (v : TaskEntry) : (s.setTask i v).inputs = s.inputs := rfl
@[simp] theorem State.setTask_outbox (s : State) (i : Nat) (v : TaskEntry) : (s.setTask i v).outbox = s.outbox := rfl
@[simp] theorem State.setTask_flitted (s : State) (i : Nat) (v : TaskEntry) : (s.setTask i v).flitted = s.flitted := rfl
@[simp] theorem State.setTask_groups (s : State) (i : Nat) (v : TaskEntry) : (s.setTask i v).groups = s.groups := rfl
@[simp] theorem State.setTask_wgs (s : State) (i : Nat) (v : TaskEntry) : (s.setTask i v).wgs = s.wgs := rfl
@[simp] theorem State.setTask_cores (s : State) (i : Nat) (v : TaskEntry) : (s.setTask i v).cores = s.cores := rfl
@[simp] theorem State.setTask_launches (s : State) (i : Nat) (v : TaskEntry) : (s.setTask i v).launches = s.launches := rfl
@[simp] theorem State.setTask_blocks (s : State) (i : Nat) (v : TaskEntry) : (s.setTask i v).blocks = s.blocks := rfl
@[simp] theorem State.setTask_viewSpaces (s : State) (i : Nat) (v : TaskEntry) : (s.setTask i v).viewSpaces = s.viewSpaces := rfl
@[simp] theorem State.setTask_ctxs (s : State) (i : Nat) (v : TaskEntry) : (s.setTask i v).ctxs = s.ctxs := rfl
@[simp] theorem State.setTask_overflow (s : State) (i : Nat) (v : TaskEntry) : (s.setTask i v).overflow = s.overflow := rfl
@[simp] theorem State.setTask_mem (s : State) (i : Nat) (v : TaskEntry) : (s.setTask i v).mem = s.mem := rfl
@[simp] theorem State.setTask_tags (s : State) (i : Nat) (v : TaskEntry) : (s.setTask i v).tags = s.tags := rfl
@[simp] theorem State.setTask_memPoison (s : State) (i : Nat) (v : TaskEntry) : (s.setTask i v).memPoison = s.memPoison := rfl
@[simp] theorem State.setTask_hostWrote (s : State) (i : Nat) (v : TaskEntry) : (s.setTask i v).hostWrote = s.hostWrote := rfl
@[simp] theorem State.setTask_objs (s : State) (i : Nat) (v : TaskEntry) : (s.setTask i v).objs = s.objs := rfl
@[simp] theorem State.setTask_shadow (s : State) (i : Nat) (v : TaskEntry) : (s.setTask i v).shadow = s.shadow := rfl
@[simp] theorem State.setTask_shadowOut (s : State) (i : Nat) (v : TaskEntry) : (s.setTask i v).shadowOut = s.shadowOut := rfl
@[simp] theorem State.setTask_tlb (s : State) (i : Nat) (v : TaskEntry) : (s.setTask i v).tlb = s.tlb := rfl
@[simp] theorem State.setTask_walks (s : State) (i : Nat) (v : TaskEntry) : (s.setTask i v).walks = s.walks := rfl
@[simp] theorem State.setTask_stores (s : State) (i : Nat) (v : TaskEntry) : (s.setTask i v).stores = s.stores := rfl
@[simp] theorem State.setTask_sideLog (s : State) (i : Nat) (v : TaskEntry) : (s.setTask i v).sideLog = s.sideLog := rfl
@[simp] theorem State.setTask_locks (s : State) (i : Nat) (v : TaskEntry) : (s.setTask i v).locks = s.locks := rfl
@[simp] theorem State.setTask_unlocking (s : State) (i : Nat) (v : TaskEntry) : (s.setTask i v).unlocking = s.unlocking := rfl
@[simp] theorem State.setTask_owed (s : State) (i : Nat) (v : TaskEntry) : (s.setTask i v).owed = s.owed := rfl
@[simp] theorem State.setTask_lostPins (s : State) (i : Nat) (v : TaskEntry) : (s.setTask i v).lostPins = s.lostPins := rfl
@[simp] theorem State.setTask_engFaults (s : State) (i : Nat) (v : TaskEntry) : (s.setTask i v).engFaults = s.engFaults := rfl
@[simp] theorem State.setTask_packets (s : State) (i : Nat) (v : TaskEntry) : (s.setTask i v).packets = s.packets := rfl
@[simp] theorem State.setTask_halted (s : State) (i : Nat) (v : TaskEntry) : (s.setTask i v).halted = s.halted := rfl
@[simp] theorem State.setTask_failed (s : State) (i : Nat) (v : TaskEntry) : (s.setTask i v).failed = s.failed := rfl
@[simp] theorem State.setTask_graphs (s : State) (i : Nat) (v : TaskEntry) : (s.setTask i v).graphs = s.graphs := rfl
@[simp] theorem State.setTask_queueTurn (s : State) (i : Nat) (v : TaskEntry) : (s.setTask i v).queueTurn = s.queueTurn := rfl
@[simp] theorem State.setTask_colls (s : State) (i : Nat) (v : TaskEntry) : (s.setTask i v).colls = s.colls := rfl
@[simp] theorem State.setTask_meetings (s : State) (i : Nat) (v : TaskEntry) : (s.setTask i v).meetings = s.meetings := rfl
@[simp] theorem State.setTask_meetQ (s : State) (i : Nat) (v : TaskEntry) : (s.setTask i v).meetQ = s.meetQ := rfl
@[simp] theorem State.setTask_ports (s : State) (i : Nat) (v : TaskEntry) : (s.setTask i v).ports = s.ports := rfl
@[simp] theorem State.setTask_devnum (s : State) (i : Nat) (v : TaskEntry) : (s.setTask i v).devnum = s.devnum := rfl
@[simp] theorem State.setTask_routes (s : State) (i : Nat) (v : TaskEntry) : (s.setTask i v).routes = s.routes := rfl
@[simp] theorem State.setTask_qps (s : State) (i : Nat) (v : TaskEntry) : (s.setTask i v).qps = s.qps := rfl
@[simp] theorem State.setTask_paused (s : State) (i : Nat) (v : TaskEntry) : (s.setTask i v).paused = s.paused := rfl
@[simp] theorem State.setTask_regs (s : State) (i : Nat) (v : TaskEntry) : (s.setTask i v).regs = s.regs := rfl
@[simp] theorem State.setTask_hostObjs (s : State) (i : Nat) (v : TaskEntry) : (s.setTask i v).hostObjs = s.hostObjs := rfl
@[simp] theorem State.setTask_commKeys (s : State) (i : Nat) (v : TaskEntry) : (s.setTask i v).commKeys = s.commKeys := rfl
@[simp] theorem State.setTask_errRing (s : State) (i : Nat) (v : TaskEntry) : (s.setTask i v).errRing = s.errRing := rfl
@[simp] theorem State.setTask_errSeq (s : State) (i : Nat) (v : TaskEntry) : (s.setTask i v).errSeq = s.errSeq := rfl
@[simp] theorem State.setTask_health (s : State) (i : Nat) (v : TaskEntry) : (s.setTask i v).health = s.health := rfl
@[simp] theorem State.setTask_replaceReq (s : State) (i : Nat) (v : TaskEntry) : (s.setTask i v).replaceReq = s.replaceReq := rfl
@[simp] theorem State.setTask_reason (s : State) (i : Nat) (v : TaskEntry) : (s.setTask i v).reason = s.reason := rfl
@[simp] theorem State.setTask_grade (s : State) (i : Nat) (v : TaskEntry) : (s.setTask i v).grade = s.grade := rfl
@[simp] theorem State.setTask_fusedOff (s : State) (i : Nat) (v : TaskEntry) : (s.setTask i v).fusedOff = s.fusedOff := rfl
@[simp] theorem State.setTask_retirePending (s : State) (i : Nat) (v : TaskEntry) : (s.setTask i v).retirePending = s.retirePending := rfl
@[simp] theorem State.setTask_retiredUnits (s : State) (i : Nat) (v : TaskEntry) : (s.setTask i v).retiredUnits = s.retiredUnits := rfl
@[simp] theorem State.setTask_powerCap (s : State) (i : Nat) (v : TaskEntry) : (s.setTask i v).powerCap = s.powerCap := rfl
@[simp] theorem State.setTask_clocks (s : State) (i : Nat) (v : TaskEntry) : (s.setTask i v).clocks = s.clocks := rfl
@[simp] theorem State.setTask_power (s : State) (i : Nat) (v : TaskEntry) : (s.setTask i v).power = s.power := rfl
@[simp] theorem State.setTask_temps (s : State) (i : Nat) (v : TaskEntry) : (s.setTask i v).temps = s.temps := rfl
@[simp] theorem State.setTask_tripped (s : State) (i : Nat) (v : TaskEntry) : (s.setTask i v).tripped = s.tripped := rfl
@[simp] theorem State.setTask_capsules (s : State) (i : Nat) (v : TaskEntry) : (s.setTask i v).capsules = s.capsules := rfl
@[simp] theorem State.setTask_flashCapsules (s : State) (i : Nat) (v : TaskEntry) : (s.setTask i v).flashCapsules = s.flashCapsules := rfl
@[simp] theorem State.setTask_capno (s : State) (i : Nat) (v : TaskEntry) : (s.setTask i v).capno = s.capno := rfl
@[simp] theorem State.setTask_capViews (s : State) (i : Nat) (v : TaskEntry) : (s.setTask i v).capViews = s.capViews := rfl
@[simp] theorem State.setTask_capReads (s : State) (i : Nat) (v : TaskEntry) : (s.setTask i v).capReads = s.capReads := rfl
@[simp] theorem State.setTask_origins (s : State) (i : Nat) (v : TaskEntry) : (s.setTask i v).origins = s.origins := rfl
@[simp] theorem State.setTask_frozenNote (s : State) (i : Nat) (v : TaskEntry) : (s.setTask i v).frozenNote = s.frozenNote := rfl
@[simp] theorem State.setTask_freezing (s : State) (i : Nat) (v : TaskEntry) : (s.setTask i v).freezing = s.freezing := rfl
@[simp] theorem State.setTask_resets (s : State) (i : Nat) (v : TaskEntry) : (s.setTask i v).resets = s.resets := rfl
@[simp] theorem State.setTask_ctxInst (s : State) (i : Nat) (v : TaskEntry) : (s.setTask i v).ctxInst = s.ctxInst := rfl
@[simp] theorem State.setTask_trust (s : State) (i : Nat) (v : TaskEntry) : (s.setTask i v).trust = s.trust := rfl
@[simp] theorem State.setTask_grp (s : State) (i : Nat) (v : TaskEntry) (j : Nat) : (s.setTask i v).grp j = s.grp j := rfl
@[simp] theorem State.setTask_wgOf (s : State) (i : Nat) (v : TaskEntry) (j : Nat) : (s.setTask i v).wgOf j = s.wgOf j := rfl
@[simp] theorem State.setTask_core (s : State) (i : Nat) (v : TaskEntry) (j : Nat) : (s.setTask i v).core j = s.core j := rfl
@[simp] theorem State.setTask_launch (s : State) (i : Nat) (v : TaskEntry) (j : Nat) : (s.setTask i v).launch j = s.launch j := rfl
@[simp] theorem State.setTask_block (s : State) (i : Nat) (v : TaskEntry) (j : Nat) : (s.setTask i v).block j = s.block j := rfl
@[simp] theorem State.setTask_ctx (s : State) (i : Nat) (v : TaskEntry) (j : Nat) : (s.setTask i v).ctx j = s.ctx j := rfl
@[simp] theorem State.setTask_obj (s : State) (i : Nat) (v : TaskEntry) (j : Nat) : (s.setTask i v).obj j = s.obj j := rfl
@[simp] theorem State.setTask_coll (s : State) (i : Nat) (v : TaskEntry) (j : Nat) : (s.setTask i v).coll j = s.coll j := rfl
@[simp] theorem State.setTask_meeting (s : State) (i : Nat) (v : TaskEntry) (j : Nat) : (s.setTask i v).meeting j = s.meeting j := rfl
@[simp] theorem State.setTask_port (s : State) (i : Nat) (v : TaskEntry) (j : Nat) : (s.setTask i v).port j = s.port j := rfl
theorem State.setTask_task (s : State) (i : Nat) (v : TaskEntry) (j : Nat) : (s.setTask i v).task j = if j = i then v else s.task j := Cells.get_set ..
@[simp] theorem State.setTask_task_self (s : State) (i : Nat) (v : TaskEntry) : (s.setTask i v).task i = v := Cells.get_set_self ..
@[simp] theorem State.setTask_g (s : State) (i : Nat) (v : TaskEntry) : (s.setTask i v).g = s.g := rfl

/-! ### setColl -/

@[simp] theorem State.setColl_cur (s : State) (i : Nat) (v : CollInst) : (s.setColl i v).cur = s.cur := rfl
@[simp] theorem State.setColl_stalled (s : State) (i : Nat) (v : CollInst) : (s.setColl i v).stalled = s.stalled := rfl
@[simp] theorem State.setColl_trapped (s : State) (i : Nat) (v : CollInst) : (s.setColl i v).trapped = s.trapped := rfl
@[simp] theorem State.setColl_freeCount (s : State) (i : Nat) (v : CollInst) : (s.setColl i v).freeCount = s.freeCount := rfl
@[simp] theorem State.setColl_nextId (s : State) (i : Nat) (v : CollInst) : (s.setColl i v).nextId = s.nextId := rfl
@[simp] theorem State.setColl_inputs (s : State) (i : Nat) (v : CollInst) : (s.setColl i v).inputs = s.inputs := rfl
@[simp] theorem State.setColl_outbox (s : State) (i : Nat) (v : CollInst) : (s.setColl i v).outbox = s.outbox := rfl
@[simp] theorem State.setColl_flitted (s : State) (i : Nat) (v : CollInst) : (s.setColl i v).flitted = s.flitted := rfl
@[simp] theorem State.setColl_groups (s : State) (i : Nat) (v : CollInst) : (s.setColl i v).groups = s.groups := rfl
@[simp] theorem State.setColl_wgs (s : State) (i : Nat) (v : CollInst) : (s.setColl i v).wgs = s.wgs := rfl
@[simp] theorem State.setColl_cores (s : State) (i : Nat) (v : CollInst) : (s.setColl i v).cores = s.cores := rfl
@[simp] theorem State.setColl_launches (s : State) (i : Nat) (v : CollInst) : (s.setColl i v).launches = s.launches := rfl
@[simp] theorem State.setColl_blocks (s : State) (i : Nat) (v : CollInst) : (s.setColl i v).blocks = s.blocks := rfl
@[simp] theorem State.setColl_viewSpaces (s : State) (i : Nat) (v : CollInst) : (s.setColl i v).viewSpaces = s.viewSpaces := rfl
@[simp] theorem State.setColl_ctxs (s : State) (i : Nat) (v : CollInst) : (s.setColl i v).ctxs = s.ctxs := rfl
@[simp] theorem State.setColl_overflow (s : State) (i : Nat) (v : CollInst) : (s.setColl i v).overflow = s.overflow := rfl
@[simp] theorem State.setColl_mem (s : State) (i : Nat) (v : CollInst) : (s.setColl i v).mem = s.mem := rfl
@[simp] theorem State.setColl_tags (s : State) (i : Nat) (v : CollInst) : (s.setColl i v).tags = s.tags := rfl
@[simp] theorem State.setColl_memPoison (s : State) (i : Nat) (v : CollInst) : (s.setColl i v).memPoison = s.memPoison := rfl
@[simp] theorem State.setColl_hostWrote (s : State) (i : Nat) (v : CollInst) : (s.setColl i v).hostWrote = s.hostWrote := rfl
@[simp] theorem State.setColl_objs (s : State) (i : Nat) (v : CollInst) : (s.setColl i v).objs = s.objs := rfl
@[simp] theorem State.setColl_shadow (s : State) (i : Nat) (v : CollInst) : (s.setColl i v).shadow = s.shadow := rfl
@[simp] theorem State.setColl_shadowOut (s : State) (i : Nat) (v : CollInst) : (s.setColl i v).shadowOut = s.shadowOut := rfl
@[simp] theorem State.setColl_tasks (s : State) (i : Nat) (v : CollInst) : (s.setColl i v).tasks = s.tasks := rfl
@[simp] theorem State.setColl_tlb (s : State) (i : Nat) (v : CollInst) : (s.setColl i v).tlb = s.tlb := rfl
@[simp] theorem State.setColl_walks (s : State) (i : Nat) (v : CollInst) : (s.setColl i v).walks = s.walks := rfl
@[simp] theorem State.setColl_stores (s : State) (i : Nat) (v : CollInst) : (s.setColl i v).stores = s.stores := rfl
@[simp] theorem State.setColl_sideLog (s : State) (i : Nat) (v : CollInst) : (s.setColl i v).sideLog = s.sideLog := rfl
@[simp] theorem State.setColl_locks (s : State) (i : Nat) (v : CollInst) : (s.setColl i v).locks = s.locks := rfl
@[simp] theorem State.setColl_unlocking (s : State) (i : Nat) (v : CollInst) : (s.setColl i v).unlocking = s.unlocking := rfl
@[simp] theorem State.setColl_owed (s : State) (i : Nat) (v : CollInst) : (s.setColl i v).owed = s.owed := rfl
@[simp] theorem State.setColl_lostPins (s : State) (i : Nat) (v : CollInst) : (s.setColl i v).lostPins = s.lostPins := rfl
@[simp] theorem State.setColl_engFaults (s : State) (i : Nat) (v : CollInst) : (s.setColl i v).engFaults = s.engFaults := rfl
@[simp] theorem State.setColl_packets (s : State) (i : Nat) (v : CollInst) : (s.setColl i v).packets = s.packets := rfl
@[simp] theorem State.setColl_halted (s : State) (i : Nat) (v : CollInst) : (s.setColl i v).halted = s.halted := rfl
@[simp] theorem State.setColl_failed (s : State) (i : Nat) (v : CollInst) : (s.setColl i v).failed = s.failed := rfl
@[simp] theorem State.setColl_graphs (s : State) (i : Nat) (v : CollInst) : (s.setColl i v).graphs = s.graphs := rfl
@[simp] theorem State.setColl_queueTurn (s : State) (i : Nat) (v : CollInst) : (s.setColl i v).queueTurn = s.queueTurn := rfl
@[simp] theorem State.setColl_meetings (s : State) (i : Nat) (v : CollInst) : (s.setColl i v).meetings = s.meetings := rfl
@[simp] theorem State.setColl_meetQ (s : State) (i : Nat) (v : CollInst) : (s.setColl i v).meetQ = s.meetQ := rfl
@[simp] theorem State.setColl_ports (s : State) (i : Nat) (v : CollInst) : (s.setColl i v).ports = s.ports := rfl
@[simp] theorem State.setColl_devnum (s : State) (i : Nat) (v : CollInst) : (s.setColl i v).devnum = s.devnum := rfl
@[simp] theorem State.setColl_routes (s : State) (i : Nat) (v : CollInst) : (s.setColl i v).routes = s.routes := rfl
@[simp] theorem State.setColl_qps (s : State) (i : Nat) (v : CollInst) : (s.setColl i v).qps = s.qps := rfl
@[simp] theorem State.setColl_paused (s : State) (i : Nat) (v : CollInst) : (s.setColl i v).paused = s.paused := rfl
@[simp] theorem State.setColl_regs (s : State) (i : Nat) (v : CollInst) : (s.setColl i v).regs = s.regs := rfl
@[simp] theorem State.setColl_hostObjs (s : State) (i : Nat) (v : CollInst) : (s.setColl i v).hostObjs = s.hostObjs := rfl
@[simp] theorem State.setColl_commKeys (s : State) (i : Nat) (v : CollInst) : (s.setColl i v).commKeys = s.commKeys := rfl
@[simp] theorem State.setColl_errRing (s : State) (i : Nat) (v : CollInst) : (s.setColl i v).errRing = s.errRing := rfl
@[simp] theorem State.setColl_errSeq (s : State) (i : Nat) (v : CollInst) : (s.setColl i v).errSeq = s.errSeq := rfl
@[simp] theorem State.setColl_health (s : State) (i : Nat) (v : CollInst) : (s.setColl i v).health = s.health := rfl
@[simp] theorem State.setColl_replaceReq (s : State) (i : Nat) (v : CollInst) : (s.setColl i v).replaceReq = s.replaceReq := rfl
@[simp] theorem State.setColl_reason (s : State) (i : Nat) (v : CollInst) : (s.setColl i v).reason = s.reason := rfl
@[simp] theorem State.setColl_grade (s : State) (i : Nat) (v : CollInst) : (s.setColl i v).grade = s.grade := rfl
@[simp] theorem State.setColl_fusedOff (s : State) (i : Nat) (v : CollInst) : (s.setColl i v).fusedOff = s.fusedOff := rfl
@[simp] theorem State.setColl_retirePending (s : State) (i : Nat) (v : CollInst) : (s.setColl i v).retirePending = s.retirePending := rfl
@[simp] theorem State.setColl_retiredUnits (s : State) (i : Nat) (v : CollInst) : (s.setColl i v).retiredUnits = s.retiredUnits := rfl
@[simp] theorem State.setColl_powerCap (s : State) (i : Nat) (v : CollInst) : (s.setColl i v).powerCap = s.powerCap := rfl
@[simp] theorem State.setColl_clocks (s : State) (i : Nat) (v : CollInst) : (s.setColl i v).clocks = s.clocks := rfl
@[simp] theorem State.setColl_power (s : State) (i : Nat) (v : CollInst) : (s.setColl i v).power = s.power := rfl
@[simp] theorem State.setColl_temps (s : State) (i : Nat) (v : CollInst) : (s.setColl i v).temps = s.temps := rfl
@[simp] theorem State.setColl_tripped (s : State) (i : Nat) (v : CollInst) : (s.setColl i v).tripped = s.tripped := rfl
@[simp] theorem State.setColl_capsules (s : State) (i : Nat) (v : CollInst) : (s.setColl i v).capsules = s.capsules := rfl
@[simp] theorem State.setColl_flashCapsules (s : State) (i : Nat) (v : CollInst) : (s.setColl i v).flashCapsules = s.flashCapsules := rfl
@[simp] theorem State.setColl_capno (s : State) (i : Nat) (v : CollInst) : (s.setColl i v).capno = s.capno := rfl
@[simp] theorem State.setColl_capViews (s : State) (i : Nat) (v : CollInst) : (s.setColl i v).capViews = s.capViews := rfl
@[simp] theorem State.setColl_capReads (s : State) (i : Nat) (v : CollInst) : (s.setColl i v).capReads = s.capReads := rfl
@[simp] theorem State.setColl_origins (s : State) (i : Nat) (v : CollInst) : (s.setColl i v).origins = s.origins := rfl
@[simp] theorem State.setColl_frozenNote (s : State) (i : Nat) (v : CollInst) : (s.setColl i v).frozenNote = s.frozenNote := rfl
@[simp] theorem State.setColl_freezing (s : State) (i : Nat) (v : CollInst) : (s.setColl i v).freezing = s.freezing := rfl
@[simp] theorem State.setColl_resets (s : State) (i : Nat) (v : CollInst) : (s.setColl i v).resets = s.resets := rfl
@[simp] theorem State.setColl_ctxInst (s : State) (i : Nat) (v : CollInst) : (s.setColl i v).ctxInst = s.ctxInst := rfl
@[simp] theorem State.setColl_trust (s : State) (i : Nat) (v : CollInst) : (s.setColl i v).trust = s.trust := rfl
@[simp] theorem State.setColl_grp (s : State) (i : Nat) (v : CollInst) (j : Nat) : (s.setColl i v).grp j = s.grp j := rfl
@[simp] theorem State.setColl_wgOf (s : State) (i : Nat) (v : CollInst) (j : Nat) : (s.setColl i v).wgOf j = s.wgOf j := rfl
@[simp] theorem State.setColl_core (s : State) (i : Nat) (v : CollInst) (j : Nat) : (s.setColl i v).core j = s.core j := rfl
@[simp] theorem State.setColl_launch (s : State) (i : Nat) (v : CollInst) (j : Nat) : (s.setColl i v).launch j = s.launch j := rfl
@[simp] theorem State.setColl_block (s : State) (i : Nat) (v : CollInst) (j : Nat) : (s.setColl i v).block j = s.block j := rfl
@[simp] theorem State.setColl_ctx (s : State) (i : Nat) (v : CollInst) (j : Nat) : (s.setColl i v).ctx j = s.ctx j := rfl
@[simp] theorem State.setColl_obj (s : State) (i : Nat) (v : CollInst) (j : Nat) : (s.setColl i v).obj j = s.obj j := rfl
@[simp] theorem State.setColl_task (s : State) (i : Nat) (v : CollInst) (j : Nat) : (s.setColl i v).task j = s.task j := rfl
@[simp] theorem State.setColl_meeting (s : State) (i : Nat) (v : CollInst) (j : Nat) : (s.setColl i v).meeting j = s.meeting j := rfl
@[simp] theorem State.setColl_port (s : State) (i : Nat) (v : CollInst) (j : Nat) : (s.setColl i v).port j = s.port j := rfl
theorem State.setColl_coll (s : State) (i : Nat) (v : CollInst) (j : Nat) : (s.setColl i v).coll j = if j = i then v else s.coll j := Cells.get_set ..
@[simp] theorem State.setColl_coll_self (s : State) (i : Nat) (v : CollInst) : (s.setColl i v).coll i = v := Cells.get_set_self ..
@[simp] theorem State.setColl_g (s : State) (i : Nat) (v : CollInst) : (s.setColl i v).g = s.g := rfl

/-! ### setMeeting -/

@[simp] theorem State.setMeeting_cur (s : State) (i : Nat) (v : Meeting) : (s.setMeeting i v).cur = s.cur := rfl
@[simp] theorem State.setMeeting_stalled (s : State) (i : Nat) (v : Meeting) : (s.setMeeting i v).stalled = s.stalled := rfl
@[simp] theorem State.setMeeting_trapped (s : State) (i : Nat) (v : Meeting) : (s.setMeeting i v).trapped = s.trapped := rfl
@[simp] theorem State.setMeeting_freeCount (s : State) (i : Nat) (v : Meeting) : (s.setMeeting i v).freeCount = s.freeCount := rfl
@[simp] theorem State.setMeeting_nextId (s : State) (i : Nat) (v : Meeting) : (s.setMeeting i v).nextId = s.nextId := rfl
@[simp] theorem State.setMeeting_inputs (s : State) (i : Nat) (v : Meeting) : (s.setMeeting i v).inputs = s.inputs := rfl
@[simp] theorem State.setMeeting_outbox (s : State) (i : Nat) (v : Meeting) : (s.setMeeting i v).outbox = s.outbox := rfl
@[simp] theorem State.setMeeting_flitted (s : State) (i : Nat) (v : Meeting) : (s.setMeeting i v).flitted = s.flitted := rfl
@[simp] theorem State.setMeeting_groups (s : State) (i : Nat) (v : Meeting) : (s.setMeeting i v).groups = s.groups := rfl
@[simp] theorem State.setMeeting_wgs (s : State) (i : Nat) (v : Meeting) : (s.setMeeting i v).wgs = s.wgs := rfl
@[simp] theorem State.setMeeting_cores (s : State) (i : Nat) (v : Meeting) : (s.setMeeting i v).cores = s.cores := rfl
@[simp] theorem State.setMeeting_launches (s : State) (i : Nat) (v : Meeting) : (s.setMeeting i v).launches = s.launches := rfl
@[simp] theorem State.setMeeting_blocks (s : State) (i : Nat) (v : Meeting) : (s.setMeeting i v).blocks = s.blocks := rfl
@[simp] theorem State.setMeeting_viewSpaces (s : State) (i : Nat) (v : Meeting) : (s.setMeeting i v).viewSpaces = s.viewSpaces := rfl
@[simp] theorem State.setMeeting_ctxs (s : State) (i : Nat) (v : Meeting) : (s.setMeeting i v).ctxs = s.ctxs := rfl
@[simp] theorem State.setMeeting_overflow (s : State) (i : Nat) (v : Meeting) : (s.setMeeting i v).overflow = s.overflow := rfl
@[simp] theorem State.setMeeting_mem (s : State) (i : Nat) (v : Meeting) : (s.setMeeting i v).mem = s.mem := rfl
@[simp] theorem State.setMeeting_tags (s : State) (i : Nat) (v : Meeting) : (s.setMeeting i v).tags = s.tags := rfl
@[simp] theorem State.setMeeting_memPoison (s : State) (i : Nat) (v : Meeting) : (s.setMeeting i v).memPoison = s.memPoison := rfl
@[simp] theorem State.setMeeting_hostWrote (s : State) (i : Nat) (v : Meeting) : (s.setMeeting i v).hostWrote = s.hostWrote := rfl
@[simp] theorem State.setMeeting_objs (s : State) (i : Nat) (v : Meeting) : (s.setMeeting i v).objs = s.objs := rfl
@[simp] theorem State.setMeeting_shadow (s : State) (i : Nat) (v : Meeting) : (s.setMeeting i v).shadow = s.shadow := rfl
@[simp] theorem State.setMeeting_shadowOut (s : State) (i : Nat) (v : Meeting) : (s.setMeeting i v).shadowOut = s.shadowOut := rfl
@[simp] theorem State.setMeeting_tasks (s : State) (i : Nat) (v : Meeting) : (s.setMeeting i v).tasks = s.tasks := rfl
@[simp] theorem State.setMeeting_tlb (s : State) (i : Nat) (v : Meeting) : (s.setMeeting i v).tlb = s.tlb := rfl
@[simp] theorem State.setMeeting_walks (s : State) (i : Nat) (v : Meeting) : (s.setMeeting i v).walks = s.walks := rfl
@[simp] theorem State.setMeeting_stores (s : State) (i : Nat) (v : Meeting) : (s.setMeeting i v).stores = s.stores := rfl
@[simp] theorem State.setMeeting_sideLog (s : State) (i : Nat) (v : Meeting) : (s.setMeeting i v).sideLog = s.sideLog := rfl
@[simp] theorem State.setMeeting_locks (s : State) (i : Nat) (v : Meeting) : (s.setMeeting i v).locks = s.locks := rfl
@[simp] theorem State.setMeeting_unlocking (s : State) (i : Nat) (v : Meeting) : (s.setMeeting i v).unlocking = s.unlocking := rfl
@[simp] theorem State.setMeeting_owed (s : State) (i : Nat) (v : Meeting) : (s.setMeeting i v).owed = s.owed := rfl
@[simp] theorem State.setMeeting_lostPins (s : State) (i : Nat) (v : Meeting) : (s.setMeeting i v).lostPins = s.lostPins := rfl
@[simp] theorem State.setMeeting_engFaults (s : State) (i : Nat) (v : Meeting) : (s.setMeeting i v).engFaults = s.engFaults := rfl
@[simp] theorem State.setMeeting_packets (s : State) (i : Nat) (v : Meeting) : (s.setMeeting i v).packets = s.packets := rfl
@[simp] theorem State.setMeeting_halted (s : State) (i : Nat) (v : Meeting) : (s.setMeeting i v).halted = s.halted := rfl
@[simp] theorem State.setMeeting_failed (s : State) (i : Nat) (v : Meeting) : (s.setMeeting i v).failed = s.failed := rfl
@[simp] theorem State.setMeeting_graphs (s : State) (i : Nat) (v : Meeting) : (s.setMeeting i v).graphs = s.graphs := rfl
@[simp] theorem State.setMeeting_queueTurn (s : State) (i : Nat) (v : Meeting) : (s.setMeeting i v).queueTurn = s.queueTurn := rfl
@[simp] theorem State.setMeeting_colls (s : State) (i : Nat) (v : Meeting) : (s.setMeeting i v).colls = s.colls := rfl
@[simp] theorem State.setMeeting_meetQ (s : State) (i : Nat) (v : Meeting) : (s.setMeeting i v).meetQ = s.meetQ := rfl
@[simp] theorem State.setMeeting_ports (s : State) (i : Nat) (v : Meeting) : (s.setMeeting i v).ports = s.ports := rfl
@[simp] theorem State.setMeeting_devnum (s : State) (i : Nat) (v : Meeting) : (s.setMeeting i v).devnum = s.devnum := rfl
@[simp] theorem State.setMeeting_routes (s : State) (i : Nat) (v : Meeting) : (s.setMeeting i v).routes = s.routes := rfl
@[simp] theorem State.setMeeting_qps (s : State) (i : Nat) (v : Meeting) : (s.setMeeting i v).qps = s.qps := rfl
@[simp] theorem State.setMeeting_paused (s : State) (i : Nat) (v : Meeting) : (s.setMeeting i v).paused = s.paused := rfl
@[simp] theorem State.setMeeting_regs (s : State) (i : Nat) (v : Meeting) : (s.setMeeting i v).regs = s.regs := rfl
@[simp] theorem State.setMeeting_hostObjs (s : State) (i : Nat) (v : Meeting) : (s.setMeeting i v).hostObjs = s.hostObjs := rfl
@[simp] theorem State.setMeeting_commKeys (s : State) (i : Nat) (v : Meeting) : (s.setMeeting i v).commKeys = s.commKeys := rfl
@[simp] theorem State.setMeeting_errRing (s : State) (i : Nat) (v : Meeting) : (s.setMeeting i v).errRing = s.errRing := rfl
@[simp] theorem State.setMeeting_errSeq (s : State) (i : Nat) (v : Meeting) : (s.setMeeting i v).errSeq = s.errSeq := rfl
@[simp] theorem State.setMeeting_health (s : State) (i : Nat) (v : Meeting) : (s.setMeeting i v).health = s.health := rfl
@[simp] theorem State.setMeeting_replaceReq (s : State) (i : Nat) (v : Meeting) : (s.setMeeting i v).replaceReq = s.replaceReq := rfl
@[simp] theorem State.setMeeting_reason (s : State) (i : Nat) (v : Meeting) : (s.setMeeting i v).reason = s.reason := rfl
@[simp] theorem State.setMeeting_grade (s : State) (i : Nat) (v : Meeting) : (s.setMeeting i v).grade = s.grade := rfl
@[simp] theorem State.setMeeting_fusedOff (s : State) (i : Nat) (v : Meeting) : (s.setMeeting i v).fusedOff = s.fusedOff := rfl
@[simp] theorem State.setMeeting_retirePending (s : State) (i : Nat) (v : Meeting) : (s.setMeeting i v).retirePending = s.retirePending := rfl
@[simp] theorem State.setMeeting_retiredUnits (s : State) (i : Nat) (v : Meeting) : (s.setMeeting i v).retiredUnits = s.retiredUnits := rfl
@[simp] theorem State.setMeeting_powerCap (s : State) (i : Nat) (v : Meeting) : (s.setMeeting i v).powerCap = s.powerCap := rfl
@[simp] theorem State.setMeeting_clocks (s : State) (i : Nat) (v : Meeting) : (s.setMeeting i v).clocks = s.clocks := rfl
@[simp] theorem State.setMeeting_power (s : State) (i : Nat) (v : Meeting) : (s.setMeeting i v).power = s.power := rfl
@[simp] theorem State.setMeeting_temps (s : State) (i : Nat) (v : Meeting) : (s.setMeeting i v).temps = s.temps := rfl
@[simp] theorem State.setMeeting_tripped (s : State) (i : Nat) (v : Meeting) : (s.setMeeting i v).tripped = s.tripped := rfl
@[simp] theorem State.setMeeting_capsules (s : State) (i : Nat) (v : Meeting) : (s.setMeeting i v).capsules = s.capsules := rfl
@[simp] theorem State.setMeeting_flashCapsules (s : State) (i : Nat) (v : Meeting) : (s.setMeeting i v).flashCapsules = s.flashCapsules := rfl
@[simp] theorem State.setMeeting_capno (s : State) (i : Nat) (v : Meeting) : (s.setMeeting i v).capno = s.capno := rfl
@[simp] theorem State.setMeeting_capViews (s : State) (i : Nat) (v : Meeting) : (s.setMeeting i v).capViews = s.capViews := rfl
@[simp] theorem State.setMeeting_capReads (s : State) (i : Nat) (v : Meeting) : (s.setMeeting i v).capReads = s.capReads := rfl
@[simp] theorem State.setMeeting_origins (s : State) (i : Nat) (v : Meeting) : (s.setMeeting i v).origins = s.origins := rfl
@[simp] theorem State.setMeeting_frozenNote (s : State) (i : Nat) (v : Meeting) : (s.setMeeting i v).frozenNote = s.frozenNote := rfl
@[simp] theorem State.setMeeting_freezing (s : State) (i : Nat) (v : Meeting) : (s.setMeeting i v).freezing = s.freezing := rfl
@[simp] theorem State.setMeeting_resets (s : State) (i : Nat) (v : Meeting) : (s.setMeeting i v).resets = s.resets := rfl
@[simp] theorem State.setMeeting_ctxInst (s : State) (i : Nat) (v : Meeting) : (s.setMeeting i v).ctxInst = s.ctxInst := rfl
@[simp] theorem State.setMeeting_trust (s : State) (i : Nat) (v : Meeting) : (s.setMeeting i v).trust = s.trust := rfl
@[simp] theorem State.setMeeting_grp (s : State) (i : Nat) (v : Meeting) (j : Nat) : (s.setMeeting i v).grp j = s.grp j := rfl
@[simp] theorem State.setMeeting_wgOf (s : State) (i : Nat) (v : Meeting) (j : Nat) : (s.setMeeting i v).wgOf j = s.wgOf j := rfl
@[simp] theorem State.setMeeting_core (s : State) (i : Nat) (v : Meeting) (j : Nat) : (s.setMeeting i v).core j = s.core j := rfl
@[simp] theorem State.setMeeting_launch (s : State) (i : Nat) (v : Meeting) (j : Nat) : (s.setMeeting i v).launch j = s.launch j := rfl
@[simp] theorem State.setMeeting_block (s : State) (i : Nat) (v : Meeting) (j : Nat) : (s.setMeeting i v).block j = s.block j := rfl
@[simp] theorem State.setMeeting_ctx (s : State) (i : Nat) (v : Meeting) (j : Nat) : (s.setMeeting i v).ctx j = s.ctx j := rfl
@[simp] theorem State.setMeeting_obj (s : State) (i : Nat) (v : Meeting) (j : Nat) : (s.setMeeting i v).obj j = s.obj j := rfl
@[simp] theorem State.setMeeting_task (s : State) (i : Nat) (v : Meeting) (j : Nat) : (s.setMeeting i v).task j = s.task j := rfl
@[simp] theorem State.setMeeting_coll (s : State) (i : Nat) (v : Meeting) (j : Nat) : (s.setMeeting i v).coll j = s.coll j := rfl
@[simp] theorem State.setMeeting_port (s : State) (i : Nat) (v : Meeting) (j : Nat) : (s.setMeeting i v).port j = s.port j := rfl
theorem State.setMeeting_meeting (s : State) (i : Nat) (v : Meeting) (j : Nat) : (s.setMeeting i v).meeting j = if j = i then v else s.meeting j := Cells.get_set ..
@[simp] theorem State.setMeeting_meeting_self (s : State) (i : Nat) (v : Meeting) : (s.setMeeting i v).meeting i = v := Cells.get_set_self ..
@[simp] theorem State.setMeeting_g (s : State) (i : Nat) (v : Meeting) : (s.setMeeting i v).g = s.g := rfl

/-! ### setPort -/

@[simp] theorem State.setPort_cur (s : State) (i : Nat) (v : Port) : (s.setPort i v).cur = s.cur := rfl
@[simp] theorem State.setPort_stalled (s : State) (i : Nat) (v : Port) : (s.setPort i v).stalled = s.stalled := rfl
@[simp] theorem State.setPort_trapped (s : State) (i : Nat) (v : Port) : (s.setPort i v).trapped = s.trapped := rfl
@[simp] theorem State.setPort_freeCount (s : State) (i : Nat) (v : Port) : (s.setPort i v).freeCount = s.freeCount := rfl
@[simp] theorem State.setPort_nextId (s : State) (i : Nat) (v : Port) : (s.setPort i v).nextId = s.nextId := rfl
@[simp] theorem State.setPort_inputs (s : State) (i : Nat) (v : Port) : (s.setPort i v).inputs = s.inputs := rfl
@[simp] theorem State.setPort_outbox (s : State) (i : Nat) (v : Port) : (s.setPort i v).outbox = s.outbox := rfl
@[simp] theorem State.setPort_flitted (s : State) (i : Nat) (v : Port) : (s.setPort i v).flitted = s.flitted := rfl
@[simp] theorem State.setPort_groups (s : State) (i : Nat) (v : Port) : (s.setPort i v).groups = s.groups := rfl
@[simp] theorem State.setPort_wgs (s : State) (i : Nat) (v : Port) : (s.setPort i v).wgs = s.wgs := rfl
@[simp] theorem State.setPort_cores (s : State) (i : Nat) (v : Port) : (s.setPort i v).cores = s.cores := rfl
@[simp] theorem State.setPort_launches (s : State) (i : Nat) (v : Port) : (s.setPort i v).launches = s.launches := rfl
@[simp] theorem State.setPort_blocks (s : State) (i : Nat) (v : Port) : (s.setPort i v).blocks = s.blocks := rfl
@[simp] theorem State.setPort_viewSpaces (s : State) (i : Nat) (v : Port) : (s.setPort i v).viewSpaces = s.viewSpaces := rfl
@[simp] theorem State.setPort_ctxs (s : State) (i : Nat) (v : Port) : (s.setPort i v).ctxs = s.ctxs := rfl
@[simp] theorem State.setPort_overflow (s : State) (i : Nat) (v : Port) : (s.setPort i v).overflow = s.overflow := rfl
@[simp] theorem State.setPort_mem (s : State) (i : Nat) (v : Port) : (s.setPort i v).mem = s.mem := rfl
@[simp] theorem State.setPort_tags (s : State) (i : Nat) (v : Port) : (s.setPort i v).tags = s.tags := rfl
@[simp] theorem State.setPort_memPoison (s : State) (i : Nat) (v : Port) : (s.setPort i v).memPoison = s.memPoison := rfl
@[simp] theorem State.setPort_hostWrote (s : State) (i : Nat) (v : Port) : (s.setPort i v).hostWrote = s.hostWrote := rfl
@[simp] theorem State.setPort_objs (s : State) (i : Nat) (v : Port) : (s.setPort i v).objs = s.objs := rfl
@[simp] theorem State.setPort_shadow (s : State) (i : Nat) (v : Port) : (s.setPort i v).shadow = s.shadow := rfl
@[simp] theorem State.setPort_shadowOut (s : State) (i : Nat) (v : Port) : (s.setPort i v).shadowOut = s.shadowOut := rfl
@[simp] theorem State.setPort_tasks (s : State) (i : Nat) (v : Port) : (s.setPort i v).tasks = s.tasks := rfl
@[simp] theorem State.setPort_tlb (s : State) (i : Nat) (v : Port) : (s.setPort i v).tlb = s.tlb := rfl
@[simp] theorem State.setPort_walks (s : State) (i : Nat) (v : Port) : (s.setPort i v).walks = s.walks := rfl
@[simp] theorem State.setPort_stores (s : State) (i : Nat) (v : Port) : (s.setPort i v).stores = s.stores := rfl
@[simp] theorem State.setPort_sideLog (s : State) (i : Nat) (v : Port) : (s.setPort i v).sideLog = s.sideLog := rfl
@[simp] theorem State.setPort_locks (s : State) (i : Nat) (v : Port) : (s.setPort i v).locks = s.locks := rfl
@[simp] theorem State.setPort_unlocking (s : State) (i : Nat) (v : Port) : (s.setPort i v).unlocking = s.unlocking := rfl
@[simp] theorem State.setPort_owed (s : State) (i : Nat) (v : Port) : (s.setPort i v).owed = s.owed := rfl
@[simp] theorem State.setPort_lostPins (s : State) (i : Nat) (v : Port) : (s.setPort i v).lostPins = s.lostPins := rfl
@[simp] theorem State.setPort_engFaults (s : State) (i : Nat) (v : Port) : (s.setPort i v).engFaults = s.engFaults := rfl
@[simp] theorem State.setPort_packets (s : State) (i : Nat) (v : Port) : (s.setPort i v).packets = s.packets := rfl
@[simp] theorem State.setPort_halted (s : State) (i : Nat) (v : Port) : (s.setPort i v).halted = s.halted := rfl
@[simp] theorem State.setPort_failed (s : State) (i : Nat) (v : Port) : (s.setPort i v).failed = s.failed := rfl
@[simp] theorem State.setPort_graphs (s : State) (i : Nat) (v : Port) : (s.setPort i v).graphs = s.graphs := rfl
@[simp] theorem State.setPort_queueTurn (s : State) (i : Nat) (v : Port) : (s.setPort i v).queueTurn = s.queueTurn := rfl
@[simp] theorem State.setPort_colls (s : State) (i : Nat) (v : Port) : (s.setPort i v).colls = s.colls := rfl
@[simp] theorem State.setPort_meetings (s : State) (i : Nat) (v : Port) : (s.setPort i v).meetings = s.meetings := rfl
@[simp] theorem State.setPort_meetQ (s : State) (i : Nat) (v : Port) : (s.setPort i v).meetQ = s.meetQ := rfl
@[simp] theorem State.setPort_devnum (s : State) (i : Nat) (v : Port) : (s.setPort i v).devnum = s.devnum := rfl
@[simp] theorem State.setPort_routes (s : State) (i : Nat) (v : Port) : (s.setPort i v).routes = s.routes := rfl
@[simp] theorem State.setPort_qps (s : State) (i : Nat) (v : Port) : (s.setPort i v).qps = s.qps := rfl
@[simp] theorem State.setPort_paused (s : State) (i : Nat) (v : Port) : (s.setPort i v).paused = s.paused := rfl
@[simp] theorem State.setPort_regs (s : State) (i : Nat) (v : Port) : (s.setPort i v).regs = s.regs := rfl
@[simp] theorem State.setPort_hostObjs (s : State) (i : Nat) (v : Port) : (s.setPort i v).hostObjs = s.hostObjs := rfl
@[simp] theorem State.setPort_commKeys (s : State) (i : Nat) (v : Port) : (s.setPort i v).commKeys = s.commKeys := rfl
@[simp] theorem State.setPort_errRing (s : State) (i : Nat) (v : Port) : (s.setPort i v).errRing = s.errRing := rfl
@[simp] theorem State.setPort_errSeq (s : State) (i : Nat) (v : Port) : (s.setPort i v).errSeq = s.errSeq := rfl
@[simp] theorem State.setPort_health (s : State) (i : Nat) (v : Port) : (s.setPort i v).health = s.health := rfl
@[simp] theorem State.setPort_replaceReq (s : State) (i : Nat) (v : Port) : (s.setPort i v).replaceReq = s.replaceReq := rfl
@[simp] theorem State.setPort_reason (s : State) (i : Nat) (v : Port) : (s.setPort i v).reason = s.reason := rfl
@[simp] theorem State.setPort_grade (s : State) (i : Nat) (v : Port) : (s.setPort i v).grade = s.grade := rfl
@[simp] theorem State.setPort_fusedOff (s : State) (i : Nat) (v : Port) : (s.setPort i v).fusedOff = s.fusedOff := rfl
@[simp] theorem State.setPort_retirePending (s : State) (i : Nat) (v : Port) : (s.setPort i v).retirePending = s.retirePending := rfl
@[simp] theorem State.setPort_retiredUnits (s : State) (i : Nat) (v : Port) : (s.setPort i v).retiredUnits = s.retiredUnits := rfl
@[simp] theorem State.setPort_powerCap (s : State) (i : Nat) (v : Port) : (s.setPort i v).powerCap = s.powerCap := rfl
@[simp] theorem State.setPort_clocks (s : State) (i : Nat) (v : Port) : (s.setPort i v).clocks = s.clocks := rfl
@[simp] theorem State.setPort_power (s : State) (i : Nat) (v : Port) : (s.setPort i v).power = s.power := rfl
@[simp] theorem State.setPort_temps (s : State) (i : Nat) (v : Port) : (s.setPort i v).temps = s.temps := rfl
@[simp] theorem State.setPort_tripped (s : State) (i : Nat) (v : Port) : (s.setPort i v).tripped = s.tripped := rfl
@[simp] theorem State.setPort_capsules (s : State) (i : Nat) (v : Port) : (s.setPort i v).capsules = s.capsules := rfl
@[simp] theorem State.setPort_flashCapsules (s : State) (i : Nat) (v : Port) : (s.setPort i v).flashCapsules = s.flashCapsules := rfl
@[simp] theorem State.setPort_capno (s : State) (i : Nat) (v : Port) : (s.setPort i v).capno = s.capno := rfl
@[simp] theorem State.setPort_capViews (s : State) (i : Nat) (v : Port) : (s.setPort i v).capViews = s.capViews := rfl
@[simp] theorem State.setPort_capReads (s : State) (i : Nat) (v : Port) : (s.setPort i v).capReads = s.capReads := rfl
@[simp] theorem State.setPort_origins (s : State) (i : Nat) (v : Port) : (s.setPort i v).origins = s.origins := rfl
@[simp] theorem State.setPort_frozenNote (s : State) (i : Nat) (v : Port) : (s.setPort i v).frozenNote = s.frozenNote := rfl
@[simp] theorem State.setPort_freezing (s : State) (i : Nat) (v : Port) : (s.setPort i v).freezing = s.freezing := rfl
@[simp] theorem State.setPort_resets (s : State) (i : Nat) (v : Port) : (s.setPort i v).resets = s.resets := rfl
@[simp] theorem State.setPort_ctxInst (s : State) (i : Nat) (v : Port) : (s.setPort i v).ctxInst = s.ctxInst := rfl
@[simp] theorem State.setPort_trust (s : State) (i : Nat) (v : Port) : (s.setPort i v).trust = s.trust := rfl
@[simp] theorem State.setPort_grp (s : State) (i : Nat) (v : Port) (j : Nat) : (s.setPort i v).grp j = s.grp j := rfl
@[simp] theorem State.setPort_wgOf (s : State) (i : Nat) (v : Port) (j : Nat) : (s.setPort i v).wgOf j = s.wgOf j := rfl
@[simp] theorem State.setPort_core (s : State) (i : Nat) (v : Port) (j : Nat) : (s.setPort i v).core j = s.core j := rfl
@[simp] theorem State.setPort_launch (s : State) (i : Nat) (v : Port) (j : Nat) : (s.setPort i v).launch j = s.launch j := rfl
@[simp] theorem State.setPort_block (s : State) (i : Nat) (v : Port) (j : Nat) : (s.setPort i v).block j = s.block j := rfl
@[simp] theorem State.setPort_ctx (s : State) (i : Nat) (v : Port) (j : Nat) : (s.setPort i v).ctx j = s.ctx j := rfl
@[simp] theorem State.setPort_obj (s : State) (i : Nat) (v : Port) (j : Nat) : (s.setPort i v).obj j = s.obj j := rfl
@[simp] theorem State.setPort_task (s : State) (i : Nat) (v : Port) (j : Nat) : (s.setPort i v).task j = s.task j := rfl
@[simp] theorem State.setPort_coll (s : State) (i : Nat) (v : Port) (j : Nat) : (s.setPort i v).coll j = s.coll j := rfl
@[simp] theorem State.setPort_meeting (s : State) (i : Nat) (v : Port) (j : Nat) : (s.setPort i v).meeting j = s.meeting j := rfl
theorem State.setPort_port (s : State) (i : Nat) (v : Port) (j : Nat) : (s.setPort i v).port j = if j = i then v else s.port j := Cells.get_set ..
@[simp] theorem State.setPort_port_self (s : State) (i : Nat) (v : Port) : (s.setPort i v).port i = v := Cells.get_set_self ..
@[simp] theorem State.setPort_g (s : State) (i : Nat) (v : Port) : (s.setPort i v).g = s.g := rfl

/-! ### setG -/

@[simp] theorem State.setG_cur (s : State) (v : Group) : (s.setG v).cur = s.cur := rfl
@[simp] theorem State.setG_stalled (s : State) (v : Group) : (s.setG v).stalled = s.stalled := rfl
@[simp] theorem State.setG_trapped (s : State) (v : Group) : (s.setG v).trapped = s.trapped := rfl
@[simp] theorem State.setG_freeCount (s : State) (v : Group) : (s.setG v).freeCount = s.freeCount := rfl
@[simp] theorem State.setG_nextId (s : State) (v : Group) : (s.setG v).nextId = s.nextId := rfl
@[simp] theorem State.setG_inputs (s : State) (v : Group) : (s.setG v).inputs = s.inputs := rfl
@[simp] theorem State.setG_outbox (s : State) (v : Group) : (s.setG v).outbox = s.outbox := rfl
@[simp] theorem State.setG_flitted (s : State) (v : Group) : (s.setG v).flitted = s.flitted := rfl
@[simp] theorem State.setG_wgs (s : State) (v : Group) : (s.setG v).wgs = s.wgs := rfl
@[simp] theorem State.setG_cores (s : State) (v : Group) : (s.setG v).cores = s.cores := rfl
@[simp] theorem State.setG_launches (s : State) (v : Group) : (s.setG v).launches = s.launches := rfl
@[simp] theorem State.setG_blocks (s : State) (v : Group) : (s.setG v).blocks = s.blocks := rfl
@[simp] theorem State.setG_viewSpaces (s : State) (v : Group) : (s.setG v).viewSpaces = s.viewSpaces := rfl
@[simp] theorem State.setG_ctxs (s : State) (v : Group) : (s.setG v).ctxs = s.ctxs := rfl
@[simp] theorem State.setG_overflow (s : State) (v : Group) : (s.setG v).overflow = s.overflow := rfl
@[simp] theorem State.setG_mem (s : State) (v : Group) : (s.setG v).mem = s.mem := rfl
@[simp] theorem State.setG_tags (s : State) (v : Group) : (s.setG v).tags = s.tags := rfl
@[simp] theorem State.setG_memPoison (s : State) (v : Group) : (s.setG v).memPoison = s.memPoison := rfl
@[simp] theorem State.setG_hostWrote (s : State) (v : Group) : (s.setG v).hostWrote = s.hostWrote := rfl
@[simp] theorem State.setG_objs (s : State) (v : Group) : (s.setG v).objs = s.objs := rfl
@[simp] theorem State.setG_shadow (s : State) (v : Group) : (s.setG v).shadow = s.shadow := rfl
@[simp] theorem State.setG_shadowOut (s : State) (v : Group) : (s.setG v).shadowOut = s.shadowOut := rfl
@[simp] theorem State.setG_tasks (s : State) (v : Group) : (s.setG v).tasks = s.tasks := rfl
@[simp] theorem State.setG_tlb (s : State) (v : Group) : (s.setG v).tlb = s.tlb := rfl
@[simp] theorem State.setG_walks (s : State) (v : Group) : (s.setG v).walks = s.walks := rfl
@[simp] theorem State.setG_stores (s : State) (v : Group) : (s.setG v).stores = s.stores := rfl
@[simp] theorem State.setG_sideLog (s : State) (v : Group) : (s.setG v).sideLog = s.sideLog := rfl
@[simp] theorem State.setG_locks (s : State) (v : Group) : (s.setG v).locks = s.locks := rfl
@[simp] theorem State.setG_unlocking (s : State) (v : Group) : (s.setG v).unlocking = s.unlocking := rfl
@[simp] theorem State.setG_owed (s : State) (v : Group) : (s.setG v).owed = s.owed := rfl
@[simp] theorem State.setG_lostPins (s : State) (v : Group) : (s.setG v).lostPins = s.lostPins := rfl
@[simp] theorem State.setG_engFaults (s : State) (v : Group) : (s.setG v).engFaults = s.engFaults := rfl
@[simp] theorem State.setG_packets (s : State) (v : Group) : (s.setG v).packets = s.packets := rfl
@[simp] theorem State.setG_halted (s : State) (v : Group) : (s.setG v).halted = s.halted := rfl
@[simp] theorem State.setG_failed (s : State) (v : Group) : (s.setG v).failed = s.failed := rfl
@[simp] theorem State.setG_graphs (s : State) (v : Group) : (s.setG v).graphs = s.graphs := rfl
@[simp] theorem State.setG_queueTurn (s : State) (v : Group) : (s.setG v).queueTurn = s.queueTurn := rfl
@[simp] theorem State.setG_colls (s : State) (v : Group) : (s.setG v).colls = s.colls := rfl
@[simp] theorem State.setG_meetings (s : State) (v : Group) : (s.setG v).meetings = s.meetings := rfl
@[simp] theorem State.setG_meetQ (s : State) (v : Group) : (s.setG v).meetQ = s.meetQ := rfl
@[simp] theorem State.setG_ports (s : State) (v : Group) : (s.setG v).ports = s.ports := rfl
@[simp] theorem State.setG_devnum (s : State) (v : Group) : (s.setG v).devnum = s.devnum := rfl
@[simp] theorem State.setG_routes (s : State) (v : Group) : (s.setG v).routes = s.routes := rfl
@[simp] theorem State.setG_qps (s : State) (v : Group) : (s.setG v).qps = s.qps := rfl
@[simp] theorem State.setG_paused (s : State) (v : Group) : (s.setG v).paused = s.paused := rfl
@[simp] theorem State.setG_regs (s : State) (v : Group) : (s.setG v).regs = s.regs := rfl
@[simp] theorem State.setG_hostObjs (s : State) (v : Group) : (s.setG v).hostObjs = s.hostObjs := rfl
@[simp] theorem State.setG_commKeys (s : State) (v : Group) : (s.setG v).commKeys = s.commKeys := rfl
@[simp] theorem State.setG_errRing (s : State) (v : Group) : (s.setG v).errRing = s.errRing := rfl
@[simp] theorem State.setG_errSeq (s : State) (v : Group) : (s.setG v).errSeq = s.errSeq := rfl
@[simp] theorem State.setG_health (s : State) (v : Group) : (s.setG v).health = s.health := rfl
@[simp] theorem State.setG_replaceReq (s : State) (v : Group) : (s.setG v).replaceReq = s.replaceReq := rfl
@[simp] theorem State.setG_reason (s : State) (v : Group) : (s.setG v).reason = s.reason := rfl
@[simp] theorem State.setG_grade (s : State) (v : Group) : (s.setG v).grade = s.grade := rfl
@[simp] theorem State.setG_fusedOff (s : State) (v : Group) : (s.setG v).fusedOff = s.fusedOff := rfl
@[simp] theorem State.setG_retirePending (s : State) (v : Group) : (s.setG v).retirePending = s.retirePending := rfl
@[simp] theorem State.setG_retiredUnits (s : State) (v : Group) : (s.setG v).retiredUnits = s.retiredUnits := rfl
@[simp] theorem State.setG_powerCap (s : State) (v : Group) : (s.setG v).powerCap = s.powerCap := rfl
@[simp] theorem State.setG_clocks (s : State) (v : Group) : (s.setG v).clocks = s.clocks := rfl
@[simp] theorem State.setG_power (s : State) (v : Group) : (s.setG v).power = s.power := rfl
@[simp] theorem State.setG_temps (s : State) (v : Group) : (s.setG v).temps = s.temps := rfl
@[simp] theorem State.setG_tripped (s : State) (v : Group) : (s.setG v).tripped = s.tripped := rfl
@[simp] theorem State.setG_capsules (s : State) (v : Group) : (s.setG v).capsules = s.capsules := rfl
@[simp] theorem State.setG_flashCapsules (s : State) (v : Group) : (s.setG v).flashCapsules = s.flashCapsules := rfl
@[simp] theorem State.setG_capno (s : State) (v : Group) : (s.setG v).capno = s.capno := rfl
@[simp] theorem State.setG_capViews (s : State) (v : Group) : (s.setG v).capViews = s.capViews := rfl
@[simp] theorem State.setG_capReads (s : State) (v : Group) : (s.setG v).capReads = s.capReads := rfl
@[simp] theorem State.setG_origins (s : State) (v : Group) : (s.setG v).origins = s.origins := rfl
@[simp] theorem State.setG_frozenNote (s : State) (v : Group) : (s.setG v).frozenNote = s.frozenNote := rfl
@[simp] theorem State.setG_freezing (s : State) (v : Group) : (s.setG v).freezing = s.freezing := rfl
@[simp] theorem State.setG_resets (s : State) (v : Group) : (s.setG v).resets = s.resets := rfl
@[simp] theorem State.setG_ctxInst (s : State) (v : Group) : (s.setG v).ctxInst = s.ctxInst := rfl
@[simp] theorem State.setG_trust (s : State) (v : Group) : (s.setG v).trust = s.trust := rfl
@[simp] theorem State.setG_wgOf (s : State) (v : Group) (j : Nat) : (s.setG v).wgOf j = s.wgOf j := rfl
@[simp] theorem State.setG_core (s : State) (v : Group) (j : Nat) : (s.setG v).core j = s.core j := rfl
@[simp] theorem State.setG_launch (s : State) (v : Group) (j : Nat) : (s.setG v).launch j = s.launch j := rfl
@[simp] theorem State.setG_block (s : State) (v : Group) (j : Nat) : (s.setG v).block j = s.block j := rfl
@[simp] theorem State.setG_ctx (s : State) (v : Group) (j : Nat) : (s.setG v).ctx j = s.ctx j := rfl
@[simp] theorem State.setG_obj (s : State) (v : Group) (j : Nat) : (s.setG v).obj j = s.obj j := rfl
@[simp] theorem State.setG_task (s : State) (v : Group) (j : Nat) : (s.setG v).task j = s.task j := rfl
@[simp] theorem State.setG_coll (s : State) (v : Group) (j : Nat) : (s.setG v).coll j = s.coll j := rfl
@[simp] theorem State.setG_meeting (s : State) (v : Group) (j : Nat) : (s.setG v).meeting j = s.meeting j := rfl
@[simp] theorem State.setG_port (s : State) (v : Group) (j : Nat) : (s.setG v).port j = s.port j := rfl

/-! ### send -/

@[simp] theorem State.send_cur (s : State) (v : Output) : (s.send v).cur = s.cur := rfl
@[simp] theorem State.send_stalled (s : State) (v : Output) : (s.send v).stalled = s.stalled := rfl
@[simp] theorem State.send_trapped (s : State) (v : Output) : (s.send v).trapped = s.trapped := rfl
@[simp] theorem State.send_freeCount (s : State) (v : Output) : (s.send v).freeCount = s.freeCount := rfl
@[simp] theorem State.send_nextId (s : State) (v : Output) : (s.send v).nextId = s.nextId := rfl
@[simp] theorem State.send_inputs (s : State) (v : Output) : (s.send v).inputs = s.inputs := rfl
@[simp] theorem State.send_flitted (s : State) (v : Output) : (s.send v).flitted = s.flitted := rfl
@[simp] theorem State.send_groups (s : State) (v : Output) : (s.send v).groups = s.groups := rfl
@[simp] theorem State.send_wgs (s : State) (v : Output) : (s.send v).wgs = s.wgs := rfl
@[simp] theorem State.send_cores (s : State) (v : Output) : (s.send v).cores = s.cores := rfl
@[simp] theorem State.send_launches (s : State) (v : Output) : (s.send v).launches = s.launches := rfl
@[simp] theorem State.send_blocks (s : State) (v : Output) : (s.send v).blocks = s.blocks := rfl
@[simp] theorem State.send_viewSpaces (s : State) (v : Output) : (s.send v).viewSpaces = s.viewSpaces := rfl
@[simp] theorem State.send_ctxs (s : State) (v : Output) : (s.send v).ctxs = s.ctxs := rfl
@[simp] theorem State.send_overflow (s : State) (v : Output) : (s.send v).overflow = s.overflow := rfl
@[simp] theorem State.send_mem (s : State) (v : Output) : (s.send v).mem = s.mem := rfl
@[simp] theorem State.send_tags (s : State) (v : Output) : (s.send v).tags = s.tags := rfl
@[simp] theorem State.send_memPoison (s : State) (v : Output) : (s.send v).memPoison = s.memPoison := rfl
@[simp] theorem State.send_hostWrote (s : State) (v : Output) : (s.send v).hostWrote = s.hostWrote := rfl
@[simp] theorem State.send_objs (s : State) (v : Output) : (s.send v).objs = s.objs := rfl
@[simp] theorem State.send_shadow (s : State) (v : Output) : (s.send v).shadow = s.shadow := rfl
@[simp] theorem State.send_shadowOut (s : State) (v : Output) : (s.send v).shadowOut = s.shadowOut := rfl
@[simp] theorem State.send_tasks (s : State) (v : Output) : (s.send v).tasks = s.tasks := rfl
@[simp] theorem State.send_tlb (s : State) (v : Output) : (s.send v).tlb = s.tlb := rfl
@[simp] theorem State.send_walks (s : State) (v : Output) : (s.send v).walks = s.walks := rfl
@[simp] theorem State.send_stores (s : State) (v : Output) : (s.send v).stores = s.stores := rfl
@[simp] theorem State.send_sideLog (s : State) (v : Output) : (s.send v).sideLog = s.sideLog := rfl
@[simp] theorem State.send_locks (s : State) (v : Output) : (s.send v).locks = s.locks := rfl
@[simp] theorem State.send_unlocking (s : State) (v : Output) : (s.send v).unlocking = s.unlocking := rfl
@[simp] theorem State.send_owed (s : State) (v : Output) : (s.send v).owed = s.owed := rfl
@[simp] theorem State.send_lostPins (s : State) (v : Output) : (s.send v).lostPins = s.lostPins := rfl
@[simp] theorem State.send_engFaults (s : State) (v : Output) : (s.send v).engFaults = s.engFaults := rfl
@[simp] theorem State.send_packets (s : State) (v : Output) : (s.send v).packets = s.packets := rfl
@[simp] theorem State.send_halted (s : State) (v : Output) : (s.send v).halted = s.halted := rfl
@[simp] theorem State.send_failed (s : State) (v : Output) : (s.send v).failed = s.failed := rfl
@[simp] theorem State.send_graphs (s : State) (v : Output) : (s.send v).graphs = s.graphs := rfl
@[simp] theorem State.send_queueTurn (s : State) (v : Output) : (s.send v).queueTurn = s.queueTurn := rfl
@[simp] theorem State.send_colls (s : State) (v : Output) : (s.send v).colls = s.colls := rfl
@[simp] theorem State.send_meetings (s : State) (v : Output) : (s.send v).meetings = s.meetings := rfl
@[simp] theorem State.send_meetQ (s : State) (v : Output) : (s.send v).meetQ = s.meetQ := rfl
@[simp] theorem State.send_ports (s : State) (v : Output) : (s.send v).ports = s.ports := rfl
@[simp] theorem State.send_devnum (s : State) (v : Output) : (s.send v).devnum = s.devnum := rfl
@[simp] theorem State.send_routes (s : State) (v : Output) : (s.send v).routes = s.routes := rfl
@[simp] theorem State.send_qps (s : State) (v : Output) : (s.send v).qps = s.qps := rfl
@[simp] theorem State.send_paused (s : State) (v : Output) : (s.send v).paused = s.paused := rfl
@[simp] theorem State.send_regs (s : State) (v : Output) : (s.send v).regs = s.regs := rfl
@[simp] theorem State.send_hostObjs (s : State) (v : Output) : (s.send v).hostObjs = s.hostObjs := rfl
@[simp] theorem State.send_commKeys (s : State) (v : Output) : (s.send v).commKeys = s.commKeys := rfl
@[simp] theorem State.send_errRing (s : State) (v : Output) : (s.send v).errRing = s.errRing := rfl
@[simp] theorem State.send_errSeq (s : State) (v : Output) : (s.send v).errSeq = s.errSeq := rfl
@[simp] theorem State.send_health (s : State) (v : Output) : (s.send v).health = s.health := rfl
@[simp] theorem State.send_replaceReq (s : State) (v : Output) : (s.send v).replaceReq = s.replaceReq := rfl
@[simp] theorem State.send_reason (s : State) (v : Output) : (s.send v).reason = s.reason := rfl
@[simp] theorem State.send_grade (s : State) (v : Output) : (s.send v).grade = s.grade := rfl
@[simp] theorem State.send_fusedOff (s : State) (v : Output) : (s.send v).fusedOff = s.fusedOff := rfl
@[simp] theorem State.send_retirePending (s : State) (v : Output) : (s.send v).retirePending = s.retirePending := rfl
@[simp] theorem State.send_retiredUnits (s : State) (v : Output) : (s.send v).retiredUnits = s.retiredUnits := rfl
@[simp] theorem State.send_powerCap (s : State) (v : Output) : (s.send v).powerCap = s.powerCap := rfl
@[simp] theorem State.send_clocks (s : State) (v : Output) : (s.send v).clocks = s.clocks := rfl
@[simp] theorem State.send_power (s : State) (v : Output) : (s.send v).power = s.power := rfl
@[simp] theorem State.send_temps (s : State) (v : Output) : (s.send v).temps = s.temps := rfl
@[simp] theorem State.send_tripped (s : State) (v : Output) : (s.send v).tripped = s.tripped := rfl
@[simp] theorem State.send_capsules (s : State) (v : Output) : (s.send v).capsules = s.capsules := rfl
@[simp] theorem State.send_flashCapsules (s : State) (v : Output) : (s.send v).flashCapsules = s.flashCapsules := rfl
@[simp] theorem State.send_capno (s : State) (v : Output) : (s.send v).capno = s.capno := rfl
@[simp] theorem State.send_capViews (s : State) (v : Output) : (s.send v).capViews = s.capViews := rfl
@[simp] theorem State.send_capReads (s : State) (v : Output) : (s.send v).capReads = s.capReads := rfl
@[simp] theorem State.send_origins (s : State) (v : Output) : (s.send v).origins = s.origins := rfl
@[simp] theorem State.send_frozenNote (s : State) (v : Output) : (s.send v).frozenNote = s.frozenNote := rfl
@[simp] theorem State.send_freezing (s : State) (v : Output) : (s.send v).freezing = s.freezing := rfl
@[simp] theorem State.send_resets (s : State) (v : Output) : (s.send v).resets = s.resets := rfl
@[simp] theorem State.send_ctxInst (s : State) (v : Output) : (s.send v).ctxInst = s.ctxInst := rfl
@[simp] theorem State.send_trust (s : State) (v : Output) : (s.send v).trust = s.trust := rfl
@[simp] theorem State.send_grp (s : State) (v : Output) (j : Nat) : (s.send v).grp j = s.grp j := rfl
@[simp] theorem State.send_wgOf (s : State) (v : Output) (j : Nat) : (s.send v).wgOf j = s.wgOf j := rfl
@[simp] theorem State.send_core (s : State) (v : Output) (j : Nat) : (s.send v).core j = s.core j := rfl
@[simp] theorem State.send_launch (s : State) (v : Output) (j : Nat) : (s.send v).launch j = s.launch j := rfl
@[simp] theorem State.send_block (s : State) (v : Output) (j : Nat) : (s.send v).block j = s.block j := rfl
@[simp] theorem State.send_ctx (s : State) (v : Output) (j : Nat) : (s.send v).ctx j = s.ctx j := rfl
@[simp] theorem State.send_obj (s : State) (v : Output) (j : Nat) : (s.send v).obj j = s.obj j := rfl
@[simp] theorem State.send_task (s : State) (v : Output) (j : Nat) : (s.send v).task j = s.task j := rfl
@[simp] theorem State.send_coll (s : State) (v : Output) (j : Nat) : (s.send v).coll j = s.coll j := rfl
@[simp] theorem State.send_meeting (s : State) (v : Output) (j : Nat) : (s.send v).meeting j = s.meeting j := rfl
@[simp] theorem State.send_port (s : State) (v : Output) (j : Nat) : (s.send v).port j = s.port j := rfl
@[simp] theorem State.send_g (s : State) (v : Output) : (s.send v).g = s.g := rfl

end Sys2Proof.Machine
end

