-- ==== Sys2Proof/Laws/Mem.lean ====
section
/-! SUPPORT. Laws of memory: a read after a write, what a write leaves alone, and the canonical form, which every memory operation keeps. -/

namespace Sys2Proof.Machine

/-! ### Reads after writes -/

/-- What physical memory reads as after a write of one byte. -/
theorem State.byteAt_writeByte_mem (s : State) (a c : Nat) (b : Byte) :
    (s.writeByte (.mem a) b).byteAt (.mem c) = if c = a then b else s.byteAt (.mem c) := Cells.get_set ..

/-- A write of one byte leaves every other place alone. -/
theorem State.byteAt_writeByte_ne (s : State) {l q : Loc} (b : Byte) (h : q ≠ l) : (s.writeByte l b).byteAt q = s.byteAt q := by
  cases l with
  | mem a =>
    cases q with
    | mem c => rw [State.byteAt_writeByte_mem, if_neg (fun e => h (by rw [e]))]
    | _ => rfl
  | vault w off =>
    simp only [State.writeByte]; split
    · rfl
    · cases q with
      | vault v o =>
        simp only [State.byteAt, State.setWg_wgOf]; split
        · subst_vars
          exact Cells.get_set_ne _ _ _ (fun e => h (by rw [e]))
        · rfl
      | _ => rfl
  | peer n off => simp only [State.writeByte]; split <;> cases q <;> rfl
  | host i off => cases q <;> rfl
  | virt c a => rfl
  | drop => rfl

/-- A write of a list of bytes leaves every place alone that it does not name. -/
theorem State.byteAt_writeAll_ne (l : List (Loc × Byte)) (s : State) (q : Loc) (h : ∀ e ∈ l, e.1 ≠ q) : (s.writeAll l).byteAt q = s.byteAt q := by
  induction l generalizing s with
  | nil => rfl
  | cons e l ih =>
    obtain ⟨p, b⟩ := e
    rw [State.writeAll, ih _ (fun e he => h e (by simp [he])), State.byteAt_writeByte_ne _ _ (Ne.symm (h (p, b) (by simp)))]

/-! ### Marks change no byte -/

@[simp] theorem State.setPoison_mem (s : State) (l : Loc) (p : Bool) : (s.setPoison l p).mem = s.mem := by
  cases l with
  | peer n off => simp only [State.setPoison]; split <;> rfl
  | _ => rfl

@[simp] theorem State.byteAt_setPoison (s : State) (l : Loc) (p : Bool) (q : Loc) : (s.setPoison l p).byteAt q = s.byteAt q := by
  cases l with
  | vault w off =>
    cases q with
    | vault v o =>
      simp only [State.setPoison, State.byteAt, State.setWg_wgOf]
      split
      · subst_vars; rfl
      · rfl
    | _ => rfl
  | mem a => cases q <;> rfl
  | peer n off => simp only [State.setPoison]; split <;> cases q <;> rfl
  | _ => rfl

@[simp] theorem State.markAll_mem (l : List (Loc × Byte)) (p : Bool) (m : List Loc) (s : State) : (s.markAll l p m).mem = s.mem := by
  induction m generalizing s with
  | nil => rfl
  | cons a m ih => simp only [State.markAll]; rw [ih]; repeat' split
                   all_goals simp

@[simp] theorem State.byteAt_markAll (l : List (Loc × Byte)) (p : Bool) (m : List Loc) (s : State) (q : Loc) :
    (s.markAll l p m).byteAt q = s.byteAt q := by
  induction m generalizing s with
  | nil => rfl
  | cons a m ih => simp only [State.markAll]; rw [ih]; repeat' split
                   all_goals simp

/-- Storing bytes leaves every place alone that it does not name. -/
theorem State.byteAt_store_ne (s : State) (l : List (Loc × Byte)) (p : Bool) (q : Loc) (h : ∀ e ∈ l, e.1 ≠ q) :
    (s.store l p).byteAt q = s.byteAt q := by rw [State.store, State.byteAt_markAll, State.byteAt_writeAll_ne _ _ _ h]

@[simp] theorem State.setFull_mem (l : List Loc) (s : State) : (s.setFull l).mem = s.mem := by
  induction l generalizing s with
  | nil => rfl
  | cons a l ih => cases a <;> simp only [State.setFull] <;> rw [ih]; split <;> rfl

/-! ### The canonical form -/

theorem State.writeByte_wf (s : State) (l : Loc) (b : Byte) (h : Memory.wf s.mem = true) : Memory.wf (s.writeByte l b).mem = true := by
  cases l with
  | mem a => exact Cells.wf_set _ _ _ _ h
  | vault w off => simp only [State.writeByte]; split <;> exact h
  | peer n off => simp only [State.writeByte]; split <;> exact h
  | host i off => exact h
  | virt c a => exact h
  | drop => exact h

theorem State.writeAll_wf (l : List (Loc × Byte)) (s : State) (h : Memory.wf s.mem = true) : Memory.wf (s.writeAll l).mem = true := by
  induction l generalizing s with
  | nil => exact h
  | cons e l ih => exact ih _ (State.writeByte_wf s e.1 e.2 h)

theorem State.store_wf (s : State) (l : List (Loc × Byte)) (p : Bool) (h : Memory.wf s.mem = true) : Memory.wf (s.store l p).mem = true := by
  rw [State.store, State.markAll_mem]; exact State.writeAll_wf l s h

theorem State.objPut_wf (s t : State) (name : DWord) (off n v : Nat) (h : Memory.wf s.mem = true) (e : s.objPut name off n v = some t) :
    Memory.wf t.mem = true := by
  simp only [State.objPut, Option.map_eq_some_iff] at e
  obtain ⟨l, -, rfl⟩ := e
  exact State.store_wf _ _ _ h

theorem State.faultRecord_wf (s t : State) (ctx : Nat) (r : FaultRec) (h : Memory.wf s.mem = true) (e : s.faultRecord ctx r = .written t) :
    Memory.wf t.mem = true := by
  simp only [State.faultRecord] at e
  split at e
  · split at e
    · exact absurd e (by simp)
    · split at e
      · injection e with e; subst e
        exact State.store_wf _ _ _ (State.store_wf _ _ _ h)
      · exact absurd e (by simp)
  · exact absurd e (by simp)

/-- Loading a program keeps the canonical form. -/
theorem State.withCode_wf (s : State) (nbits w : Nat) (h : Memory.wf s.mem = true) : Memory.wf (s.load nbits w).mem = true :=
  Cells.wf_setAll _ _ _ h

end Sys2Proof.Machine
end

