-- ==== Sys2Proof/Laws/Ops.lean ====
section
/-! SUPPORT. What the shared operations can do: which of them change no byte of physical memory, and that every other one keeps its
canonical form. -/

namespace Sys2Proof.Machine

/-- Folding an operation that leaves memory alone leaves memory alone. -/
theorem foldl_mem {α : Type} (f : State → α → State) (h : ∀ s x, (f s x).mem = s.mem) (l : List α) (s : State) : (l.foldl f s).mem = s.mem := by
  induction l generalizing s with
  | nil => rfl
  | cons x l ih => rw [List.foldl_cons, ih, h]

/-- Folding an operation that keeps the canonical form keeps it. -/
theorem foldl_wf {α : Type} (f : State → α → State) (h : ∀ s x, Memory.wf s.mem = true → Memory.wf (f s x).mem = true) (l : List α) (s : State)
    (hs : Memory.wf s.mem = true) : Memory.wf (l.foldl f s).mem = true := by
  induction l generalizing s with
  | nil => exact hs
  | cons x l ih => exact ih _ (h s x hs)

/-! ### Crumbs, counters, save slots -/

@[simp] theorem State.crumb_mem (s : State) (a b c d : Nat) : (s.crumb a b c d).mem = s.mem := rfl
@[simp] theorem State.gcrumb_mem (s : State) (a b c : Nat) : (s.gcrumb a b c).mem = s.mem := rfl
@[simp] theorem State.noteFreeze_mem (s : State) : s.noteFreeze.mem = s.mem := by simp only [State.noteFreeze]; split <;> rfl
@[simp] theorem State.freeze_mem (s : State) (a b c : Nat) : (s.freeze a b c).mem = s.mem := by
  simp only [State.freeze]; split <;> exact State.noteFreeze_mem s
@[simp] theorem State.fresh_mem (s : State) : s.fresh.2.mem = s.mem := rfl
@[simp] theorem State.opStart_mem (s : State) (a b : Nat) : (s.opStart a b).2.mem = s.mem := rfl
@[simp] theorem State.opDone_mem (s : State) (a b : Nat) : (s.opDone a b).mem = s.mem := by simp only [State.opDone]; split <;> rfl

theorem State.nameSlot_mem {s t : State} {gid n : Nat} (h : s.nameSlot gid = some (n, t)) : t.mem = s.mem := by
  simp only [State.nameSlot] at h
  split at h
  · cases h; rfl
  · simp only [Option.map_eq_some_iff] at h
    obtain ⟨_, -, e⟩ := h
    cases e; rfl

@[simp] theorem State.pinFail_mem (s : State) (a b : Nat) : (s.pinFail a b).mem = s.mem := by simp only [State.pinFail]; split <;> rfl

theorem State.logWrite_wf (s : State) (ctx off : Nat) (b : List Byte) (h : Memory.wf s.mem = true) :
    Memory.wf (s.logWrite ctx off b).mem = true := by
  simp only [State.logWrite]; split
  · exact State.store_wf _ _ _ h
  · rw [State.pinFail_mem]; exact h

theorem State.objPut_getD_wf (s : State) (name : DWord) (off n v : Nat) (h : Memory.wf s.mem = true) :
    Memory.wf ((s.objPut name off n v).getD s).mem = true := by
  cases e : s.objPut name off n v with
  | none => exact h
  | some t => exact State.objPut_wf s t name off n v h e

theorem State.markReplay_wf (s : State) (a b c : Nat) (h : Memory.wf s.mem = true) : Memory.wf (s.markReplay a b c).mem = true := by
  simp only [State.markReplay]; split
  · exact h
  · exact State.logWrite_wf _ _ _ _ (State.logWrite_wf _ _ _ _ h)

/-- Recording an entry writes at most the log. -/
theorem State.replayRecord_wf {s t : State} {a b c k : Nat} {d : List Byte} {n : Nat} (h : Memory.wf s.mem = true) (e : s.replayRecord a b c k d n = some t) :
    Memory.wf t.mem = true := by
  simp only [State.replayRecord] at e
  repeat' split at e
  all_goals first
    | (cases e; done)
    | (injection e with e; subst e
       first
         | exact h
         | exact State.markReplay_wf _ _ _ _ h
         | exact State.logWrite_wf _ _ _ _ (State.logWrite_wf _ _ _ _ h)
         | (rw [State.pinFail_mem]; exact h))

/-- Taking an entry changes no byte. -/
theorem State.replayTake_mem {s : State} {a b c k : Nat} {r : State × List Byte} (e : s.replayTake a b c k = some r) : r.1.mem = s.mem := by
  simp only [State.replayTake] at e
  split at e
  · exact absurd e (by simp)
  · split at e
    · exact absurd e (by simp)
    · split at e
      · injection e with e; subst e; rfl
      · exact absurd e (by simp)

theorem State.replayInput_wf {s : State} {a b c k : Nat} {d : List Byte} {n : Nat} {r : State × List Byte} (h : Memory.wf s.mem = true)
    (e : s.replayInput a b c k d n = some r) : Memory.wf r.1.mem = true := by
  simp only [State.replayInput] at e
  split at e
  · injection e with e; subst e; exact h
  · split at e
    · split at e
      · rename_i x hx
        injection e with e; subst e; rw [State.replayTake_mem hx]; exact h
      · injection e with e; subst e; exact State.markReplay_wf _ _ _ _ h
    · simp only [Option.map_eq_some_iff] at e
      obtain ⟨t, ht, e⟩ := e
      subst e; exact State.replayRecord_wf h ht

@[simp] theorem State.discarded_mem (s : State) (gid : Nat) (pc seq : Word) (l : List Nat) : (s.discarded gid pc seq l).mem = s.mem := by
  simp only [State.discarded]; rw [foldl_mem]; intro s c; rfl

@[simp] theorem State.meetDone_mem (s : State) (m : MeetWait) (w : DWord) : (s.meetDone m w).mem = s.mem := by
  simp only [State.meetDone]; split
  · rfl
  · split <;> simp

theorem State.cancelRound_wf {s t : State} {gid : Nat} {m : MeetWait} (h : Memory.wf s.mem = true) (e : s.cancelRound gid m = some t) :
    Memory.wf t.mem = true := by
  simp only [State.cancelRound, Option.map_eq_some_iff] at e
  obtain ⟨r, hr, e⟩ := e
  subst e
  rw [State.meetDone_mem]
  repeat' split at hr
  all_goals first
    | exact State.replayInput_wf h hr
    | (cases hr; exact State.markReplay_wf _ _ _ _ h)

theorem State.cancelEach_wf (gid : Nat) (l : List MeetWait) (s t : State) (h : Memory.wf s.mem = true) (e : s.cancelEach gid l = some t) :
    Memory.wf t.mem = true := by
  induction l generalizing s with
  | nil => simp only [State.cancelEach] at e; injection e with e; subst e; exact h
  | cons m l ih =>
    simp only [State.cancelEach, Option.bind_eq_some_iff] at e
    obtain ⟨u, hu, e⟩ := e
    exact ih u (State.cancelRound_wf h hu) e

/-- Cancelling rounds writes at most the replay log. -/
theorem State.cancelRounds_wf {s t : State} {gid : Nat} (h : Memory.wf s.mem = true) (e : s.cancelRounds gid = some t) : Memory.wf t.mem = true := by
  simp only [State.cancelRounds, Option.map_eq_some_iff] at e
  obtain ⟨u, hu, rfl⟩ := e
  exact State.cancelEach_wf _ _ _ u h hu

/-! ### Task-table entries, blocks, ends -/

@[simp] theorem State.newEntry_mem (s : State) (a b : Nat) (c : Word) : (s.newEntry a b c).2.mem = s.mem := by
  simp only [State.newEntry]; split <;> rfl
@[simp] theorem State.entryState_mem (s : State) (a b c : Nat) : (s.entryState a b c).mem = s.mem := by simp only [State.entryState]; split <;> rfl
@[simp] theorem State.forward_mem (s : State) (l : List Nat) (a : Nat) : (s.forward l a).mem = s.mem :=
  foldl_mem _ (fun s n => by split <;> simp) _ _
@[simp] theorem State.closeBlock_mem (s : State) (a : Nat) : (s.closeBlock a).mem = s.mem := rfl
@[simp] theorem State.childEnded_mem (s : State) (a b : Nat) (c : Views) (e : List Nat) : (s.childEnded a b c e).mem = s.mem := rfl
@[simp] theorem State.freeViews_mem (s : State) (p : ViewSpace → Bool) : (s.freeViews p).mem = s.mem := rfl
@[simp] theorem State.finishBlock_mem (s : State) (a : Nat) : (s.finishBlock a).mem = s.mem := by
  simp only [State.finishBlock]; repeat' split
  all_goals simp
@[simp] theorem State.unlockAll_mem (s : State) (a : Nat) : (s.unlockAll a).mem = s.mem := by simp only [State.unlockAll]; split <;> rfl
@[simp] theorem State.settleLocks_mem (s : State) : s.settleLocks.mem = s.mem := by
  simp only [State.settleLocks]; rw [foldl_mem _ (fun s o => State.unlockAll_mem s o)]
@[simp] theorem State.reap_mem (s : State) (a : Nat) : (s.reap a).mem = s.mem := by
  simp only [State.reap]; split
  · split <;> rfl
  · rfl
@[simp] theorem State.breakWhere_mem (s : State) (p : CollMember → Bool) : (s.breakWhere p).mem = s.mem := rfl
@[simp] theorem State.breakColls_mem (s : State) (a : Nat) : (s.breakColls a).mem = s.mem := rfl
@[simp] theorem State.breakWaiters_mem (s : State) (a b : Nat) : (s.breakWaiters a b).mem = s.mem := by
  unfold State.breakWaiters; rw [foldl_mem]; intro s gid; rfl
@[simp] theorem State.breakAbars_mem (s : State) (a : Nat) : (s.breakAbars a).2.mem = s.mem := by
  simp only [State.breakAbars]; rw [foldl_mem _ (fun s o => State.breakWaiters_mem s a o)]; rfl

theorem State.note_mem (s : State) (gid step n : Nat) : (if n = 0 then s else s.gcrumb gid 0x13 (step + 8 * n)).mem = s.mem := by split <;> rfl

@[simp] theorem State.releaseWg_mem (s : State) (w gid : Nat) : (s.releaseWg w gid).mem = s.mem := by
  simp only [State.releaseWg, State.reap_mem, State.note_mem, State.setWg_mem, State.breakAbars_mem, State.unlockAll_mem]

@[simp] theorem State.dropGroup_mem (s : State) (a : Nat) : (s.dropGroup a).mem = s.mem := rfl

@[simp] theorem State.endBlock_mem (s : State) (a : Nat) (b : Bool) : (s.endBlock a b).mem = s.mem := by
  simp only [State.endBlock]; split <;> [rfl; split] <;> simp

theorem State.ite_mem (c : Prop) [Decidable c] (a b : State) : (if c then a else b).mem = if c then a.mem else b.mem := by split <;> rfl

@[simp] theorem State.leave_mem (s : State) (a : Nat) (b : Bool) : (s.leave a b).mem = s.mem := by
  simp only [State.leave]
  split
  · rw [State.dropGroup_mem, State.ite_mem, State.releaseWg_mem, ite_self]; rfl
  · rw [State.dropGroup_mem, State.unlockAll_mem, State.ite_mem, State.gcrumb_mem, ite_self]; rfl

@[simp] theorem State.endGroup_mem (s : State) (a : Nat) : (s.endGroup a).mem = s.mem := by simp [State.endGroup]
@[simp] theorem State.killOne_mem (s : State) (a : Nat) : (s.killOne a).mem = s.mem := by simp only [State.killOne]; split <;> simp
@[simp] theorem State.barBroken_mem (s : State) (w a : Nat) : (s.barBroken w a).mem = s.mem := by
  simp only [State.barBroken]
  split
  · rfl
  · split <;> simp
@[simp] theorem State.killMembers_mem (s : State) (a : Nat) : (s.killMembers a).mem = s.mem := by
  simp only [State.killMembers]
  split
  · rw [State.reap_mem, State.breakColls_mem, foldl_mem _ (fun s g => by rw [State.killOne_mem, State.barBroken_mem])]; simp
  · simp
@[simp] theorem State.killCtx_mem (s : State) (a : Nat) (st : CtxState) : (s.killCtx a st).mem = s.mem := by
  simp only [State.killCtx, State.setCtx_mem]
  rw [foldl_mem _ (fun s e => by split <;> simp)]
  simp only [State.breakWhere_mem]
  rw [foldl_mem _ (fun s g => by split <;> simp)]
@[simp] theorem State.killGroup_mem (s : State) (a : Nat) : (s.killGroup a).mem = s.mem := by simp only [State.killGroup]; split <;> simp
@[simp] theorem State.lostCtx_mem (s : State) (a b : Nat) (c : Cause) : (s.lostCtx a b c).mem = s.mem := by simp [State.lostCtx]
@[simp] theorem State.lostAlone_mem (s : State) (a b : Nat) (c : Cause) : (s.lostAlone a b c).mem = s.mem := by simp [State.lostAlone]

/-- A fault record that is owed writes at most the fault ring. -/
theorem State.payOne_wf (s : State) (o : Owed) (h : Memory.wf s.mem = true) : Memory.wf (s.payOne o).mem = true := by
  simp only [State.payOne]
  split
  · split <;> exact h
  · rw [State.lostAlone_mem]; exact h
  · rename_i t e
    have ht := State.faultRecord_wf _ _ _ _ h e
    split
    · rw [State.lostCtx_mem]; exact ht
    · exact ht

theorem State.payOwed_wf (s : State) (h : Memory.wf s.mem = true) : Memory.wf s.payOwed.mem = true :=
  foldl_wf _ (fun s o hs => State.payOne_wf s o hs) _ _ h

theorem State.loseCtx_wf (s : State) (a b c : Nat) (w : Nat × Word × Word) (h : Memory.wf s.mem = true) : Memory.wf (s.loseCtx a b c w).mem = true :=
  State.payOne_wf _ _ h

@[simp] theorem State.engineFault_mem (s : State) (a b c : Nat) (w : Bool) (who : Nat) : (s.engineFault a b c w who).mem = s.mem := by
  simp only [State.engineFault]; split <;> rfl

/-- Saving a group writes at most the replay log and the fault ring. -/
theorem State.saveAt_wf {s t : State} {gid : Nat} {how : SaveKind} {slot : Option Nat} (h : Memory.wf s.mem = true)
    (e : s.saveAt gid how slot = some t) : Memory.wf t.mem = true := by
  unfold State.saveAt at e
  split at e
  · exact absurd e (by simp)
  · change (if _ then none else (if _ then some _ else Option.map _ _)) = some t at e
    split at e
    · exact absurd e (by simp)
    · split at e
      · injection e with e; subst e; exact State.loseCtx_wf _ _ _ _ _ h
      · obtain ⟨u, hu, rfl⟩ := Option.map_eq_some_iff.1 e
        rw [State.setGrp_mem, State.gcrumb_mem, foldl_mem]
        · exact State.cancelRounds_wf h hu
        · intro s d; exact State.discarded_mem ..

theorem State.save_wf {s t : State} {gid : Nat} {how : SaveKind} (h : Memory.wf s.mem = true) (e : s.save gid how = some t) : Memory.wf t.mem = true :=
  State.saveAt_wf h e

/-! ### Traps and the shape of an instruction -/

@[simp] theorem State.stall_mem (s : State) (w : Wait) : (s.stall w).mem = s.mem := rfl

/-- Taking a trap writes at most the fault ring. -/
theorem State.takeTrap_wf (s : State) (c : Cause) (pc retry cont seq : Word) (d : List Byte) (h : Memory.wf s.mem = true) :
    Memory.wf (s.takeTrap c pc retry cont seq d).mem = true := by
  simp only [State.takeTrap]
  split
  · exact h
  split
  · split
    · exact h
    · split
      · exact h
      · split
        · exact h
        · rw [State.lostCtx_mem]; exact h
        · rename_i s0 e
          have hs : Memory.wf s0.mem = true := by
            split at e
            · injection e with e; subst e; exact h
            · exact State.faultRecord_wf _ _ _ _ (by exact h) e
          have hu : ∀ (u : State), Memory.wf u.mem = true → ∀ g i k, Memory.wf (((u.setG g).saveAt i .handle (some k)).getD (u.setG g)).mem = true := by
            intro u hu g i k
            cases hsave : (u.setG g).saveAt i .handle (some k) with
            | none => exact hu
            | some t => exact State.saveAt_wf (by exact hu) hsave
          apply hu
          split <;> exact hs
  · rw [State.killGroup_mem]; exact h
  · rw [State.killCtx_mem, State.freeze_mem]; exact h

theorem State.trap_wf (s : State) (c : Cause) (len : Nat) (h : Memory.wf s.mem = true) : Memory.wf (s.trap c len).mem = true :=
  State.takeTrap_wf _ _ _ _ _ _ _ h

@[simp] theorem State.report_mem (s : State) (gid : Nat) (c : Cause) (pc seq : Word) : (s.report gid c pc seq).mem = s.mem := by
  simp only [State.report]; split <;> rfl
@[simp] theorem State.reports_mem (s : State) (l : List Cause) : (s.reports l).mem = s.mem := foldl_mem _ (fun _ _ => by simp) _ _
@[simp] theorem State.done_mem (s : State) (g : Group) (len : Nat) : (s.done g len).mem = s.mem := rfl
@[simp] theorem State.holdFault_mem (s : State) (va : Nat) (w : Bool) : (s.holdFault va w).mem = s.mem := by
  simp only [State.holdFault, State.stall_mem]; split <;> rfl

theorem State.poisonTrap_wf (s : State) (level len : Nat) (h : Memory.wf s.mem = true) : Memory.wf (s.poisonTrap level len).mem = true := by
  simp only [State.poisonTrap]; split
  · exact h
  · exact State.trap_wf _ _ _ h

/-- A check that fails keeps the canonical form, and so does the whole where the rest does. -/
theorem State.onChkAt_wf (s k : State) (level : Nat) (c : Chk) (len : Nat) (h : Memory.wf s.mem = true) (hk : Memory.wf k.mem = true) :
    Memory.wf (s.onChkAt level c len k).mem = true := by
  cases c with
  | ok => exact hk
  | trap c =>
    cases c with
    | poison => exact State.poisonTrap_wf _ _ _ h
    | _ => exact State.trap_wf _ _ _ (by exact h)
  | wait w => exact h
  | hold va => simpa [State.onChkAt] using h

theorem State.onChk_wf (s k : State) (c : Chk) (len : Nat) (h : Memory.wf s.mem = true) (hk : Memory.wf k.mem = true) :
    Memory.wf (s.onChk c len k).mem = true := State.onChkAt_wf s k 0 c len h hk

/-- An instruction keeps the canonical form where what it does after its checks and reads does. -/
theorem State.instrAs_wf (s t : State) (op : Nat) (f : Fields) (fm : Form) (pre : Chk) (skip : Bool) (k : State → Form → List Row → State)
    (h : Memory.wf s.mem = true) (hk : ∀ g rows, Memory.wf (k (s.setG g) fm rows).mem = true)
    (e : s.instrAs op f fm pre skip k = .next t) : Memory.wf t.mem = true := by
  simp only [State.instrAs] at e
  split at e
  · exact absurd e (by simp)
  · injection e with e; subst e
    refine State.onChkAt_wf _ _ _ _ _ h ?_
    split
    · exact h
    · exact hk _ _

/-- Every instruction of a running group goes on. -/
theorem State.instrAs_next (s : State) (op : Nat) (f : Fields) (fm : Form) (pre : Chk) (skip : Bool) (k : State → Form → List Row → State)
    (h : s.g.status = .running) : ∃ t, s.instrAs op f fm pre skip k = .next t := by
  simp [State.instrAs, h]

theorem State.instr_next (s : State) (op : Nat) (f : Fields) (pre : Chk) (skip : Bool) (k : State → Form → List Row → State)
    (h : s.g.status = .running) : ∃ t, s.instr op f pre skip k = .next t := State.instrAs_next _ _ _ _ _ _ _ h

/-! ### Stores -/

@[simp] theorem State.cachePage_mem (s : State) (a b : Nat) : (s.cachePage a b).mem = s.mem := by
  simp only [State.cachePage]; split <;> [split; skip] <;> rfl
@[simp] theorem State.cacheAccs_mem (s : State) (sp : Space) (l : List TAcc) : (s.cacheAccs sp l).mem = s.mem := by
  cases sp <;> simp only [State.cacheAccs]
  exact foldl_mem _ (fun _ _ => by simp) _ _

/-- Issuing stores changes no byte. -/
theorem State.issueStores_mem {s t : State} {sp : Space} {m : StoreMode} {n : Nat} {caps : Bool} {l : List Put}
    (h : s.issueStores sp m n caps l = .ok t) : t.mem = s.mem := by
  simp only [State.issueStores] at h
  repeat' split at h
  all_goals first
    | (cases h; done)
    | (injection h with h; subst h; simp only [State.reports_mem, State.opStart_mem])

theorem State.applyRed_wf (s : State) (p : Bool) (r : List Loc × Nat × Ty × Nat) (h : Memory.wf s.mem = true) :
    Memory.wf (s.applyRed p r).mem = true := by
  simp only [State.applyRed]
  split
  · split
    · rw [State.setPoison_mem]; exact State.writeAll_wf _ _ h
    · exact State.writeAll_wf _ _ h
  · exact h

theorem State.applyPart_wf (s : State) (p : Part) (tag full : Bool) (h : Memory.wf s.mem = true) : Memory.wf (s.applyPart p tag full).mem = true := by
  have h1 := State.store_wf s p.bytes p.poison h
  have h3 := foldl_wf (fun s r => s.applyRed p.poison r) (fun s r hs => State.applyRed_wf s p.poison r hs) p.red _ h1
  have h4 : ∀ (u : State) (l : List Loc), Memory.wf u.mem = true → Memory.wf (if full then u.setFull l else u).mem = true := by
    intro u l hu; split
    · rw [State.setFull_mem]; exact hu
    · exact hu
  simp only [State.applyPart]
  split
  · split <;> exact h4 _ _ h3
  · split <;> exact h4 _ _ h3
  · exact h4 _ _ h3

end Sys2Proof.Machine
end

