-- ==== Sys2Proof/Laws/PerInstr.lean ====
section
/-! SUPPORT. What holds of every instruction as syntax: the opcode and the sub-operation field of a word select its constructor (R79). -/

/-- The opcode and fields of an instruction word with its own sub-operation give back its constructor. -/
def Sys2Proof.Laws.Build.Statement (i : Sys2Proof.Instr) : Prop :=
  ∀ op f, i.word = some (op, f) → i.subOk = true → Sys2Proof.build op f = some i

theorem Sys2Proof.build_1A1 (f : Sys2Proof.Fields) : Sys2Proof.build 0x1A1 f =
    match f.ext.xsub.toNat with
    | 0 => some (.tcfgRing f)
    | 1 => some (.tcfgFree f)
    | _ => none := rfl

theorem Sys2Proof.build_1A7 (f : Sys2Proof.Fields) : Sys2Proof.build 0x1A7 f =
    match f.mod.toNat with
    | 0 => some (.tdrainWait f)
    | 1 => some (.tdrainAbort f)
    | _ => none := rfl

theorem Sys2Proof.build_1C8 (f : Sys2Proof.Fields) : Sys2Proof.build 0x1C8 f =
    match f.ext.xsub.toNat with
    | 0 => some (.barSync f)
    | 1 => some (.barArrive f)
    | 2 => some (.barWait f)
    | _ => none := rfl

theorem Sys2Proof.build_1C9 (f : Sys2Proof.Fields) : Sys2Proof.build 0x1C9 f =
    match f.ext.xsub.toNat % 8 with
    | 0 => some (.abarInit f)
    | 1 => some (.abarArrive f)
    | 2 => some (.abarWait f)
    | 3 => some (.abarSync f)
    | 4 => some (.abarInval f)
    | _ => none := rfl

theorem Sys2Proof.build_1D0 (f : Sys2Proof.Fields) : Sys2Proof.build 0x1D0 f =
    match f.ext.xsub.toNat with
    | 0 => some (.strmctlStart f)
    | 1 => some (.strmctlStop f)
    | 2 => some (.strmctlQuery f)
    | 3 => some (.strmctlFree f)
    | _ => none := rfl

theorem Sys2Proof.build_1D2 (f : Sys2Proof.Fields) : Sys2Proof.build 0x1D2 f =
    match f.ext.xsub.toNat with
    | 0 => some (.bufacqFill f)
    | 1 => some (.bufacqDrain f)
    | _ => none := rfl

theorem Sys2Proof.build_1D3 (f : Sys2Proof.Fields) : Sys2Proof.build 0x1D3 f =
    match f.ext.xsub.toNat with
    | 0 => some (.bufrelFill f)
    | 1 => some (.bufrelDrain f)
    | _ => none := rfl

theorem Sys2Proof.build_1F4 (f : Sys2Proof.Fields) : Sys2Proof.build 0x1F4 f =
    match f.mod.toNat with
    | 0 => some (.qroundPoll f)
    | 1 => some (.qroundWait f)
    | _ => none := rfl

theorem Sys2Proof.build_1F9 (f : Sys2Proof.Fields) : Sys2Proof.build 0x1F9 f =
    match f.ext.xsub.toNat with
    | 0 => some (.ctxopPreempt f)
    | 1 => some (.ctxopResume f)
    | 2 => some (.ctxopKill f)
    | 3 => some (.ctxopMapdone f)
    | 4 => some (.ctxopTlbinv f)
    | 5 => some (.ctxopTrapres f)
    | 6 => some (.ctxopFlags f)
    | 7 => some (.ctxopState f)
    | _ => none := rfl

theorem Sys2Proof.Laws.Build.add (f : Sys2Proof.Fields) : Sys2Proof.Laws.Build.Statement (.add f) := fun _ _ h _ => by cases h; rfl
theorem Sys2Proof.Laws.Build.sub (f : Sys2Proof.Fields) : Sys2Proof.Laws.Build.Statement (.sub f) := fun _ _ h _ => by cases h; rfl
theorem Sys2Proof.Laws.Build.mul (f : Sys2Proof.Fields) : Sys2Proof.Laws.Build.Statement (.mul f) := fun _ _ h _ => by cases h; rfl
theorem Sys2Proof.Laws.Build.mulhi (f : Sys2Proof.Fields) : Sys2Proof.Laws.Build.Statement (.mulhi f) := fun _ _ h _ => by cases h; rfl
theorem Sys2Proof.Laws.Build.mad (f : Sys2Proof.Fields) : Sys2Proof.Laws.Build.Statement (.mad f) := fun _ _ h _ => by cases h; rfl
theorem Sys2Proof.Laws.Build.divn (f : Sys2Proof.Fields) : Sys2Proof.Laws.Build.Statement (.divn f) := fun _ _ h _ => by cases h; rfl
theorem Sys2Proof.Laws.Build.remn (f : Sys2Proof.Fields) : Sys2Proof.Laws.Build.Statement (.remn f) := fun _ _ h _ => by cases h; rfl
theorem Sys2Proof.Laws.Build.min (f : Sys2Proof.Fields) : Sys2Proof.Laws.Build.Statement (.min f) := fun _ _ h _ => by cases h; rfl
theorem Sys2Proof.Laws.Build.max (f : Sys2Proof.Fields) : Sys2Proof.Laws.Build.Statement (.max f) := fun _ _ h _ => by cases h; rfl
theorem Sys2Proof.Laws.Build.abs (f : Sys2Proof.Fields) : Sys2Proof.Laws.Build.Statement (.abs f) := fun _ _ h _ => by cases h; rfl
theorem Sys2Proof.Laws.Build.neg (f : Sys2Proof.Fields) : Sys2Proof.Laws.Build.Statement (.neg f) := fun _ _ h _ => by cases h; rfl
theorem Sys2Proof.Laws.Build.and (f : Sys2Proof.Fields) : Sys2Proof.Laws.Build.Statement (.and f) := fun _ _ h _ => by cases h; rfl
theorem Sys2Proof.Laws.Build.or (f : Sys2Proof.Fields) : Sys2Proof.Laws.Build.Statement (.or f) := fun _ _ h _ => by cases h; rfl
theorem Sys2Proof.Laws.Build.xor (f : Sys2Proof.Fields) : Sys2Proof.Laws.Build.Statement (.xor f) := fun _ _ h _ => by cases h; rfl
theorem Sys2Proof.Laws.Build.andn (f : Sys2Proof.Fields) : Sys2Proof.Laws.Build.Statement (.andn f) := fun _ _ h _ => by cases h; rfl
theorem Sys2Proof.Laws.Build.shl (f : Sys2Proof.Fields) : Sys2Proof.Laws.Build.Statement (.shl f) := fun _ _ h _ => by cases h; rfl
theorem Sys2Proof.Laws.Build.shr (f : Sys2Proof.Fields) : Sys2Proof.Laws.Build.Statement (.shr f) := fun _ _ h _ => by cases h; rfl
theorem Sys2Proof.Laws.Build.sar (f : Sys2Proof.Fields) : Sys2Proof.Laws.Build.Statement (.sar f) := fun _ _ h _ => by cases h; rfl
theorem Sys2Proof.Laws.Build.bfx (f : Sys2Proof.Fields) : Sys2Proof.Laws.Build.Statement (.bfx f) := fun _ _ h _ => by cases h; rfl
theorem Sys2Proof.Laws.Build.bfi (f : Sys2Proof.Fields) : Sys2Proof.Laws.Build.Statement (.bfi f) := fun _ _ h _ => by cases h; rfl
theorem Sys2Proof.Laws.Build.popc (f : Sys2Proof.Fields) : Sys2Proof.Laws.Build.Statement (.popc f) := fun _ _ h _ => by cases h; rfl
theorem Sys2Proof.Laws.Build.clz (f : Sys2Proof.Fields) : Sys2Proof.Laws.Build.Statement (.clz f) := fun _ _ h _ => by cases h; rfl
theorem Sys2Proof.Laws.Build.ctz (f : Sys2Proof.Fields) : Sys2Proof.Laws.Build.Statement (.ctz f) := fun _ _ h _ => by cases h; rfl
theorem Sys2Proof.Laws.Build.brev (f : Sys2Proof.Fields) : Sys2Proof.Laws.Build.Statement (.brev f) := fun _ _ h _ => by cases h; rfl
theorem Sys2Proof.Laws.Build.sel (f : Sys2Proof.Fields) : Sys2Proof.Laws.Build.Statement (.sel f) := fun _ _ h _ => by cases h; rfl
theorem Sys2Proof.Laws.Build.mov (f : Sys2Proof.Fields) : Sys2Proof.Laws.Build.Statement (.mov f) := fun _ _ h _ => by cases h; rfl
theorem Sys2Proof.Laws.Build.movi (f : Sys2Proof.Fields) : Sys2Proof.Laws.Build.Statement (.movi f) := fun _ _ h _ => by cases h; rfl
theorem Sys2Proof.Laws.Build.cmp (f : Sys2Proof.Fields) : Sys2Proof.Laws.Build.Statement (.cmp f) := fun _ _ h _ => by cases h; rfl
theorem Sys2Proof.Laws.Build.fadd (f : Sys2Proof.Fields) : Sys2Proof.Laws.Build.Statement (.fadd f) := fun _ _ h _ => by cases h; rfl
theorem Sys2Proof.Laws.Build.fsub (f : Sys2Proof.Fields) : Sys2Proof.Laws.Build.Statement (.fsub f) := fun _ _ h _ => by cases h; rfl
theorem Sys2Proof.Laws.Build.fmul (f : Sys2Proof.Fields) : Sys2Proof.Laws.Build.Statement (.fmul f) := fun _ _ h _ => by cases h; rfl
theorem Sys2Proof.Laws.Build.ffma (f : Sys2Proof.Fields) : Sys2Proof.Laws.Build.Statement (.ffma f) := fun _ _ h _ => by cases h; rfl
theorem Sys2Proof.Laws.Build.fmin (f : Sys2Proof.Fields) : Sys2Proof.Laws.Build.Statement (.fmin f) := fun _ _ h _ => by cases h; rfl
theorem Sys2Proof.Laws.Build.fmax (f : Sys2Proof.Fields) : Sys2Proof.Laws.Build.Statement (.fmax f) := fun _ _ h _ => by cases h; rfl
theorem Sys2Proof.Laws.Build.fcmp (f : Sys2Proof.Fields) : Sys2Proof.Laws.Build.Statement (.fcmp f) := fun _ _ h _ => by cases h; rfl
theorem Sys2Proof.Laws.Build.fclass (f : Sys2Proof.Fields) : Sys2Proof.Laws.Build.Statement (.fclass f) := fun _ _ h _ => by cases h; rfl
theorem Sys2Proof.Laws.Build.fdot2 (f : Sys2Proof.Fields) : Sys2Proof.Laws.Build.Statement (.fdot2 f) := fun _ _ h _ => by cases h; rfl
theorem Sys2Proof.Laws.Build.frcp (f : Sys2Proof.Fields) : Sys2Proof.Laws.Build.Statement (.frcp f) := fun _ _ h _ => by cases h; rfl
theorem Sys2Proof.Laws.Build.frsq (f : Sys2Proof.Fields) : Sys2Proof.Laws.Build.Statement (.frsq f) := fun _ _ h _ => by cases h; rfl
theorem Sys2Proof.Laws.Build.fsqrt (f : Sys2Proof.Fields) : Sys2Proof.Laws.Build.Statement (.fsqrt f) := fun _ _ h _ => by cases h; rfl
theorem Sys2Proof.Laws.Build.fexp2 (f : Sys2Proof.Fields) : Sys2Proof.Laws.Build.Statement (.fexp2 f) := fun _ _ h _ => by cases h; rfl
theorem Sys2Proof.Laws.Build.flog2 (f : Sys2Proof.Fields) : Sys2Proof.Laws.Build.Statement (.flog2 f) := fun _ _ h _ => by cases h; rfl
theorem Sys2Proof.Laws.Build.fsinpi (f : Sys2Proof.Fields) : Sys2Proof.Laws.Build.Statement (.fsinpi f) := fun _ _ h _ => by cases h; rfl
theorem Sys2Proof.Laws.Build.fcospi (f : Sys2Proof.Fields) : Sys2Proof.Laws.Build.Statement (.fcospi f) := fun _ _ h _ => by cases h; rfl
theorem Sys2Proof.Laws.Build.cvt (f : Sys2Proof.Fields) : Sys2Proof.Laws.Build.Statement (.cvt f) := fun _ _ h _ => by cases h; rfl
theorem Sys2Proof.Laws.Build.cvtpk (f : Sys2Proof.Fields) : Sys2Proof.Laws.Build.Statement (.cvtpk f) := fun _ _ h _ => by cases h; rfl
theorem Sys2Proof.Laws.Build.qpack (f : Sys2Proof.Fields) : Sys2Proof.Laws.Build.Statement (.qpack f) := fun _ _ h _ => by cases h; rfl
theorem Sys2Proof.Laws.Build.qunpk (f : Sys2Proof.Fields) : Sys2Proof.Laws.Build.Statement (.qunpk f) := fun _ _ h _ => by cases h; rfl
theorem Sys2Proof.Laws.Build.scalegen (f : Sys2Proof.Fields) : Sys2Proof.Laws.Build.Statement (.scalegen f) := fun _ _ h _ => by cases h; rfl
theorem Sys2Proof.Laws.Build.pset (f : Sys2Proof.Fields) : Sys2Proof.Laws.Build.Statement (.pset f) := fun _ _ h _ => by cases h; rfl
theorem Sys2Proof.Laws.Build.plop (f : Sys2Proof.Fields) : Sys2Proof.Laws.Build.Statement (.plop f) := fun _ _ h _ => by cases h; rfl
theorem Sys2Proof.Laws.Build.pmov (f : Sys2Proof.Fields) : Sys2Proof.Laws.Build.Statement (.pmov f) := fun _ _ h _ => by cases h; rfl
theorem Sys2Proof.Laws.Build.vote (f : Sys2Proof.Fields) : Sys2Proof.Laws.Build.Statement (.vote f) := fun _ _ h _ => by cases h; rfl
theorem Sys2Proof.Laws.Build.shfl (f : Sys2Proof.Fields) : Sys2Proof.Laws.Build.Statement (.shfl f) := fun _ _ h _ => by cases h; rfl
theorem Sys2Proof.Laws.Build.swpair (f : Sys2Proof.Fields) : Sys2Proof.Laws.Build.Statement (.swpair f) := fun _ _ h _ => by cases h; rfl
theorem Sys2Proof.Laws.Build.bcast (f : Sys2Proof.Fields) : Sys2Proof.Laws.Build.Statement (.bcast f) := fun _ _ h _ => by cases h; rfl
theorem Sys2Proof.Laws.Build.redux (f : Sys2Proof.Fields) : Sys2Proof.Laws.Build.Statement (.redux f) := fun _ _ h _ => by cases h; rfl
theorem Sys2Proof.Laws.Build.scan (f : Sys2Proof.Fields) : Sys2Proof.Laws.Build.Statement (.scan f) := fun _ _ h _ => by cases h; rfl
theorem Sys2Proof.Laws.Build.matchAny (f : Sys2Proof.Fields) : Sys2Proof.Laws.Build.Statement (.matchAny f) := fun _ _ h _ => by cases h; rfl
theorem Sys2Proof.Laws.Build.ldx (f : Sys2Proof.Fields) : Sys2Proof.Laws.Build.Statement (.ldx f) := fun _ _ h _ => by cases h; rfl
theorem Sys2Proof.Laws.Build.stx (f : Sys2Proof.Fields) : Sys2Proof.Laws.Build.Statement (.stx f) := fun _ _ h _ => by cases h; rfl
theorem Sys2Proof.Laws.Build.xset (f : Sys2Proof.Fields) : Sys2Proof.Laws.Build.Statement (.xset f) := fun _ _ h _ => by cases h; rfl
theorem Sys2Proof.Laws.Build.grow (f : Sys2Proof.Fields) : Sys2Proof.Laws.Build.Statement (.grow f) := fun _ _ h _ => by cases h; rfl
theorem Sys2Proof.Laws.Build.shrink (f : Sys2Proof.Fields) : Sys2Proof.Laws.Build.Statement (.shrink f) := fun _ _ h _ => by cases h; rfl
theorem Sys2Proof.Laws.Build.allotq (f : Sys2Proof.Fields) : Sys2Proof.Laws.Build.Statement (.allotq f) := fun _ _ h _ => by cases h; rfl
theorem Sys2Proof.Laws.Build.bra (f : Sys2Proof.Fields) : Sys2Proof.Laws.Build.Statement (.bra f) := fun _ _ h _ => by cases h; rfl
theorem Sys2Proof.Laws.Build.call (f : Sys2Proof.Fields) : Sys2Proof.Laws.Build.Statement (.call f) := fun _ _ h _ => by cases h; rfl
theorem Sys2Proof.Laws.Build.brx (f : Sys2Proof.Fields) : Sys2Proof.Laws.Build.Statement (.brx f) := fun _ _ h _ => by cases h; rfl
theorem Sys2Proof.Laws.Build.join (f : Sys2Proof.Fields) : Sys2Proof.Laws.Build.Statement (.join f) := fun _ _ h _ => by cases h; rfl
theorem Sys2Proof.Laws.Build.ret (f : Sys2Proof.Fields) : Sys2Proof.Laws.Build.Statement (.ret f) := fun _ _ h _ => by cases h; rfl
theorem Sys2Proof.Laws.Build.exit (f : Sys2Proof.Fields) : Sys2Proof.Laws.Build.Statement (.exit f) := fun _ _ h _ => by cases h; rfl
theorem Sys2Proof.Laws.Build.bkpt (f : Sys2Proof.Fields) : Sys2Proof.Laws.Build.Statement (.bkpt f) := fun _ _ h _ => by cases h; rfl
theorem Sys2Proof.Laws.Build.yield (f : Sys2Proof.Fields) : Sys2Proof.Laws.Build.Statement (.yield f) := fun _ _ h _ => by cases h; rfl
theorem Sys2Proof.Laws.Build.nop (f : Sys2Proof.Fields) : Sys2Proof.Laws.Build.Statement (.nop f) := fun _ _ h _ => by cases h; rfl
theorem Sys2Proof.Laws.Build.safept (f : Sys2Proof.Fields) : Sys2Proof.Laws.Build.Statement (.safept f) := fun _ _ h _ => by cases h; rfl
theorem Sys2Proof.Laws.Build.trap (f : Sys2Proof.Fields) : Sys2Proof.Laws.Build.Statement (.trap f) := fun _ _ h _ => by cases h; rfl
theorem Sys2Proof.Laws.Build.smode (f : Sys2Proof.Fields) : Sys2Proof.Laws.Build.Statement (.smode f) := fun _ _ h _ => by cases h; rfl
theorem Sys2Proof.Laws.Build.gmode (f : Sys2Proof.Fields) : Sys2Proof.Laws.Build.Statement (.gmode f) := fun _ _ h _ => by cases h; rfl
theorem Sys2Proof.Laws.Build.rdsys (f : Sys2Proof.Fields) : Sys2Proof.Laws.Build.Statement (.rdsys f) := fun _ _ h _ => by cases h; rfl
theorem Sys2Proof.Laws.Build.wrsys (f : Sys2Proof.Fields) : Sys2Proof.Laws.Build.Statement (.wrsys f) := fun _ _ h _ => by cases h; rfl
theorem Sys2Proof.Laws.Build.mmaf16x16x16 (f : Sys2Proof.Fields) : Sys2Proof.Laws.Build.Statement (.mmaf16x16x16 f) := fun _ _ h _ => by cases h; rfl
theorem Sys2Proof.Laws.Build.mmaf32x8x16 (f : Sys2Proof.Fields) : Sys2Proof.Laws.Build.Statement (.mmaf32x8x16 f) := fun _ _ h _ => by cases h; rfl
theorem Sys2Proof.Laws.Build.mmaf8x32x16 (f : Sys2Proof.Fields) : Sys2Proof.Laws.Build.Statement (.mmaf8x32x16 f) := fun _ _ h _ => by cases h; rfl
theorem Sys2Proof.Laws.Build.mmaf16x16x32 (f : Sys2Proof.Fields) : Sys2Proof.Laws.Build.Statement (.mmaf16x16x32 f) := fun _ _ h _ => by cases h; rfl
theorem Sys2Proof.Laws.Build.mmai (f : Sys2Proof.Fields) : Sys2Proof.Laws.Build.Statement (.mmai f) := fun _ _ h _ => by cases h; rfl
theorem Sys2Proof.Laws.Build.mmaq (f : Sys2Proof.Fields) : Sys2Proof.Laws.Build.Statement (.mmaq f) := fun _ _ h _ => by cases h; rfl
theorem Sys2Proof.Laws.Build.ldfrag (f : Sys2Proof.Fields) : Sys2Proof.Laws.Build.Statement (.ldfrag f) := fun _ _ h _ => by cases h; rfl
theorem Sys2Proof.Laws.Build.stfrag (f : Sys2Proof.Fields) : Sys2Proof.Laws.Build.Statement (.stfrag f) := fun _ _ h _ => by cases h; rfl
theorem Sys2Proof.Laws.Build.fragmov (f : Sys2Proof.Fields) : Sys2Proof.Laws.Build.Statement (.fragmov f) := fun _ _ h _ => by cases h; rfl
theorem Sys2Proof.Laws.Build.tmma (f : Sys2Proof.Fields) : Sys2Proof.Laws.Build.Statement (.tmma f) := fun _ _ h _ => by cases h; rfl
theorem Sys2Proof.Laws.Build.tcfgRing (f : Sys2Proof.Fields) : Sys2Proof.Laws.Build.Statement (.tcfgRing f) := fun _ _ h k => by cases h; exact (Sys2Proof.build_1A1 f).trans (by rw [eq_of_beq k]; rfl)
theorem Sys2Proof.Laws.Build.tcfgFree (f : Sys2Proof.Fields) : Sys2Proof.Laws.Build.Statement (.tcfgFree f) := fun _ _ h k => by cases h; exact (Sys2Proof.build_1A1 f).trans (by rw [eq_of_beq k]; rfl)
theorem Sys2Proof.Laws.Build.tscale (f : Sys2Proof.Fields) : Sys2Proof.Laws.Build.Statement (.tscale f) := fun _ _ h _ => by cases h; rfl
theorem Sys2Proof.Laws.Build.taccrd (f : Sys2Proof.Fields) : Sys2Proof.Laws.Build.Statement (.taccrd f) := fun _ _ h _ => by cases h; rfl
theorem Sys2Proof.Laws.Build.taccwr (f : Sys2Proof.Fields) : Sys2Proof.Laws.Build.Statement (.taccwr f) := fun _ _ h _ => by cases h; rfl
theorem Sys2Proof.Laws.Build.tepi (f : Sys2Proof.Fields) : Sys2Proof.Laws.Build.Statement (.tepi f) := fun _ _ h _ => by cases h; rfl
theorem Sys2Proof.Laws.Build.tstat (f : Sys2Proof.Fields) : Sys2Proof.Laws.Build.Statement (.tstat f) := fun _ _ h _ => by cases h; rfl
theorem Sys2Proof.Laws.Build.tdrainWait (f : Sys2Proof.Fields) : Sys2Proof.Laws.Build.Statement (.tdrainWait f) := fun _ _ h k => by cases h; exact (Sys2Proof.build_1A7 f).trans (by rw [eq_of_beq k]; rfl)
theorem Sys2Proof.Laws.Build.tdrainAbort (f : Sys2Proof.Fields) : Sys2Proof.Laws.Build.Statement (.tdrainAbort f) := fun _ _ h k => by cases h; exact (Sys2Proof.build_1A7 f).trans (by rw [eq_of_beq k]; rfl)
theorem Sys2Proof.Laws.Build.ld (f : Sys2Proof.Fields) : Sys2Proof.Laws.Build.Statement (.ld f) := fun _ _ h _ => by cases h; rfl
theorem Sys2Proof.Laws.Build.st (f : Sys2Proof.Fields) : Sys2Proof.Laws.Build.Statement (.st f) := fun _ _ h _ => by cases h; rfl
theorem Sys2Proof.Laws.Build.ldt (f : Sys2Proof.Fields) : Sys2Proof.Laws.Build.Statement (.ldt f) := fun _ _ h _ => by cases h; rfl
theorem Sys2Proof.Laws.Build.stt (f : Sys2Proof.Fields) : Sys2Proof.Laws.Build.Statement (.stt f) := fun _ _ h _ => by cases h; rfl
theorem Sys2Proof.Laws.Build.ldu (f : Sys2Proof.Fields) : Sys2Proof.Laws.Build.Statement (.ldu f) := fun _ _ h _ => by cases h; rfl
theorem Sys2Proof.Laws.Build.atom (f : Sys2Proof.Fields) : Sys2Proof.Laws.Build.Statement (.atom f) := fun _ _ h _ => by cases h; rfl
theorem Sys2Proof.Laws.Build.red (f : Sys2Proof.Fields) : Sys2Proof.Laws.Build.Statement (.red f) := fun _ _ h _ => by cases h; rfl
theorem Sys2Proof.Laws.Build.fence (f : Sys2Proof.Fields) : Sys2Proof.Laws.Build.Statement (.fence f) := fun _ _ h _ => by cases h; rfl
theorem Sys2Proof.Laws.Build.barSync (f : Sys2Proof.Fields) : Sys2Proof.Laws.Build.Statement (.barSync f) := fun _ _ h k => by cases h; exact (Sys2Proof.build_1C8 f).trans (by rw [eq_of_beq k]; rfl)
theorem Sys2Proof.Laws.Build.barArrive (f : Sys2Proof.Fields) : Sys2Proof.Laws.Build.Statement (.barArrive f) := fun _ _ h k => by cases h; exact (Sys2Proof.build_1C8 f).trans (by rw [eq_of_beq k]; rfl)
theorem Sys2Proof.Laws.Build.barWait (f : Sys2Proof.Fields) : Sys2Proof.Laws.Build.Statement (.barWait f) := fun _ _ h k => by cases h; exact (Sys2Proof.build_1C8 f).trans (by rw [eq_of_beq k]; rfl)
theorem Sys2Proof.Laws.Build.abarInit (f : Sys2Proof.Fields) : Sys2Proof.Laws.Build.Statement (.abarInit f) := fun _ _ h k => by cases h; exact (Sys2Proof.build_1C9 f).trans (by rw [eq_of_beq k]; rfl)
theorem Sys2Proof.Laws.Build.abarArrive (f : Sys2Proof.Fields) : Sys2Proof.Laws.Build.Statement (.abarArrive f) := fun _ _ h k => by cases h; exact (Sys2Proof.build_1C9 f).trans (by rw [eq_of_beq k]; rfl)
theorem Sys2Proof.Laws.Build.abarWait (f : Sys2Proof.Fields) : Sys2Proof.Laws.Build.Statement (.abarWait f) := fun _ _ h k => by cases h; exact (Sys2Proof.build_1C9 f).trans (by rw [eq_of_beq k]; rfl)
theorem Sys2Proof.Laws.Build.abarSync (f : Sys2Proof.Fields) : Sys2Proof.Laws.Build.Statement (.abarSync f) := fun _ _ h k => by cases h; exact (Sys2Proof.build_1C9 f).trans (by rw [eq_of_beq k]; rfl)
theorem Sys2Proof.Laws.Build.abarInval (f : Sys2Proof.Fields) : Sys2Proof.Laws.Build.Statement (.abarInval f) := fun _ _ h k => by cases h; exact (Sys2Proof.build_1C9 f).trans (by rw [eq_of_beq k]; rfl)
theorem Sys2Proof.Laws.Build.waitc (f : Sys2Proof.Fields) : Sys2Proof.Laws.Build.Statement (.waitc f) := fun _ _ h _ => by cases h; rfl
theorem Sys2Proof.Laws.Build.capld (f : Sys2Proof.Fields) : Sys2Proof.Laws.Build.Statement (.capld f) := fun _ _ h _ => by cases h; rfl
theorem Sys2Proof.Laws.Build.capst (f : Sys2Proof.Fields) : Sys2Proof.Laws.Build.Statement (.capst f) := fun _ _ h _ => by cases h; rfl
theorem Sys2Proof.Laws.Build.caprestr (f : Sys2Proof.Fields) : Sys2Proof.Laws.Build.Statement (.caprestr f) := fun _ _ h _ => by cases h; rfl
theorem Sys2Proof.Laws.Build.capq (f : Sys2Proof.Fields) : Sys2Proof.Laws.Build.Statement (.capq f) := fun _ _ h _ => by cases h; rfl
theorem Sys2Proof.Laws.Build.strmset (f : Sys2Proof.Fields) : Sys2Proof.Laws.Build.Statement (.strmset f) := fun _ _ h _ => by cases h; rfl
theorem Sys2Proof.Laws.Build.strmctlStart (f : Sys2Proof.Fields) : Sys2Proof.Laws.Build.Statement (.strmctlStart f) := fun _ _ h k => by cases h; exact (Sys2Proof.build_1D0 f).trans (by rw [eq_of_beq k]; rfl)
theorem Sys2Proof.Laws.Build.strmctlStop (f : Sys2Proof.Fields) : Sys2Proof.Laws.Build.Statement (.strmctlStop f) := fun _ _ h k => by cases h; exact (Sys2Proof.build_1D0 f).trans (by rw [eq_of_beq k]; rfl)
theorem Sys2Proof.Laws.Build.strmctlQuery (f : Sys2Proof.Fields) : Sys2Proof.Laws.Build.Statement (.strmctlQuery f) := fun _ _ h k => by cases h; exact (Sys2Proof.build_1D0 f).trans (by rw [eq_of_beq k]; rfl)
theorem Sys2Proof.Laws.Build.strmctlFree (f : Sys2Proof.Fields) : Sys2Proof.Laws.Build.Statement (.strmctlFree f) := fun _ _ h k => by cases h; exact (Sys2Proof.build_1D0 f).trans (by rw [eq_of_beq k]; rfl)
theorem Sys2Proof.Laws.Build.cpy (f : Sys2Proof.Fields) : Sys2Proof.Laws.Build.Statement (.cpy f) := fun _ _ h _ => by cases h; rfl
theorem Sys2Proof.Laws.Build.bufacqFill (f : Sys2Proof.Fields) : Sys2Proof.Laws.Build.Statement (.bufacqFill f) := fun _ _ h k => by cases h; exact (Sys2Proof.build_1D2 f).trans (by rw [eq_of_beq k]; rfl)
theorem Sys2Proof.Laws.Build.bufacqDrain (f : Sys2Proof.Fields) : Sys2Proof.Laws.Build.Statement (.bufacqDrain f) := fun _ _ h k => by cases h; exact (Sys2Proof.build_1D2 f).trans (by rw [eq_of_beq k]; rfl)
theorem Sys2Proof.Laws.Build.bufrelFill (f : Sys2Proof.Fields) : Sys2Proof.Laws.Build.Statement (.bufrelFill f) := fun _ _ h k => by cases h; exact (Sys2Proof.build_1D3 f).trans (by rw [eq_of_beq k]; rfl)
theorem Sys2Proof.Laws.Build.bufrelDrain (f : Sys2Proof.Fields) : Sys2Proof.Laws.Build.Statement (.bufrelDrain f) := fun _ _ h k => by cases h; exact (Sys2Proof.build_1D3 f).trans (by rw [eq_of_beq k]; rfl)
theorem Sys2Proof.Laws.Build.bufwait (f : Sys2Proof.Fields) : Sys2Proof.Laws.Build.Statement (.bufwait f) := fun _ _ h _ => by cases h; rfl
theorem Sys2Proof.Laws.Build.bufstate (f : Sys2Proof.Fields) : Sys2Proof.Laws.Build.Statement (.bufstate f) := fun _ _ h _ => by cases h; rfl
theorem Sys2Proof.Laws.Build.pref (f : Sys2Proof.Fields) : Sys2Proof.Laws.Build.Statement (.pref f) := fun _ _ h _ => by cases h; rfl
theorem Sys2Proof.Laws.Build.llock (f : Sys2Proof.Fields) : Sys2Proof.Laws.Build.Statement (.llock f) := fun _ _ h _ => by cases h; rfl
theorem Sys2Proof.Laws.Build.lunlk (f : Sys2Proof.Fields) : Sys2Proof.Laws.Build.Statement (.lunlk f) := fun _ _ h _ => by cases h; rfl
theorem Sys2Proof.Laws.Build.spawn (f : Sys2Proof.Fields) : Sys2Proof.Laws.Build.Statement (.spawn f) := fun _ _ h _ => by cases h; rfl
theorem Sys2Proof.Laws.Build.sync (f : Sys2Proof.Fields) : Sys2Proof.Laws.Build.Statement (.sync f) := fun _ _ h _ => by cases h; rfl
theorem Sys2Proof.Laws.Build.texit (f : Sys2Proof.Fields) : Sys2Proof.Laws.Build.Statement (.texit f) := fun _ _ h _ => by cases h; rfl
theorem Sys2Proof.Laws.Build.pedrd (f : Sys2Proof.Fields) : Sys2Proof.Laws.Build.Statement (.pedrd f) := fun _ _ h _ => by cases h; rfl
theorem Sys2Proof.Laws.Build.pedcmp (f : Sys2Proof.Fields) : Sys2Proof.Laws.Build.Statement (.pedcmp f) := fun _ _ h _ => by cases h; rfl
theorem Sys2Proof.Laws.Build.rng (f : Sys2Proof.Fields) : Sys2Proof.Laws.Build.Statement (.rng f) := fun _ _ h _ => by cases h; rfl
theorem Sys2Proof.Laws.Build.alloco (f : Sys2Proof.Fields) : Sys2Proof.Laws.Build.Statement (.alloco f) := fun _ _ h _ => by cases h; rfl
theorem Sys2Proof.Laws.Build.freeo (f : Sys2Proof.Fields) : Sys2Proof.Laws.Build.Statement (.freeo f) := fun _ _ h _ => by cases h; rfl
theorem Sys2Proof.Laws.Build.logw (f : Sys2Proof.Fields) : Sys2Proof.Laws.Build.Statement (.logw f) := fun _ _ h _ => by cases h; rfl
theorem Sys2Proof.Laws.Build.rdecl (f : Sys2Proof.Fields) : Sys2Proof.Laws.Build.Statement (.rdecl f) := fun _ _ h _ => by cases h; rfl
theorem Sys2Proof.Laws.Build.rview (f : Sys2Proof.Fields) : Sys2Proof.Laws.Build.Statement (.rview f) := fun _ _ h _ => by cases h; rfl
theorem Sys2Proof.Laws.Build.racc (f : Sys2Proof.Fields) : Sys2Proof.Laws.Build.Statement (.racc f) := fun _ _ h _ => by cases h; rfl
theorem Sys2Proof.Laws.Build.rapp (f : Sys2Proof.Fields) : Sys2Proof.Laws.Build.Statement (.rapp f) := fun _ _ h _ => by cases h; rfl
theorem Sys2Proof.Laws.Build.coll (f : Sys2Proof.Fields) : Sys2Proof.Laws.Build.Statement (.coll f) := fun _ _ h _ => by cases h; rfl
theorem Sys2Proof.Laws.Build.collq (f : Sys2Proof.Fields) : Sys2Proof.Laws.Build.Statement (.collq f) := fun _ _ h _ => by cases h; rfl
theorem Sys2Proof.Laws.Build.amerge (f : Sys2Proof.Fields) : Sys2Proof.Laws.Build.Statement (.amerge f) := fun _ _ h _ => by cases h; rfl
theorem Sys2Proof.Laws.Build.qmeet (f : Sys2Proof.Fields) : Sys2Proof.Laws.Build.Statement (.qmeet f) := fun _ _ h _ => by cases h; rfl
theorem Sys2Proof.Laws.Build.qroundPoll (f : Sys2Proof.Fields) : Sys2Proof.Laws.Build.Statement (.qroundPoll f) := fun _ _ h k => by cases h; exact (Sys2Proof.build_1F4 f).trans (by rw [eq_of_beq k]; rfl)
theorem Sys2Proof.Laws.Build.qroundWait (f : Sys2Proof.Fields) : Sys2Proof.Laws.Build.Statement (.qroundWait f) := fun _ _ h k => by cases h; exact (Sys2Proof.build_1F4 f).trans (by rw [eq_of_beq k]; rfl)
theorem Sys2Proof.Laws.Build.qresync (f : Sys2Proof.Fields) : Sys2Proof.Laws.Build.Statement (.qresync f) := fun _ _ h _ => by cases h; rfl
theorem Sys2Proof.Laws.Build.launch (f : Sys2Proof.Fields) : Sys2Proof.Laws.Build.Statement (.launch f) := fun _ _ h _ => by cases h; rfl
theorem Sys2Proof.Laws.Build.postres (f : Sys2Proof.Fields) : Sys2Proof.Laws.Build.Statement (.postres f) := fun _ _ h _ => by cases h; rfl
theorem Sys2Proof.Laws.Build.evmark (f : Sys2Proof.Fields) : Sys2Proof.Laws.Build.Statement (.evmark f) := fun _ _ h _ => by cases h; rfl
theorem Sys2Proof.Laws.Build.ctxopPreempt (f : Sys2Proof.Fields) : Sys2Proof.Laws.Build.Statement (.ctxopPreempt f) := fun _ _ h k => by cases h; exact (Sys2Proof.build_1F9 f).trans (by rw [eq_of_beq k]; rfl)
theorem Sys2Proof.Laws.Build.ctxopResume (f : Sys2Proof.Fields) : Sys2Proof.Laws.Build.Statement (.ctxopResume f) := fun _ _ h k => by cases h; exact (Sys2Proof.build_1F9 f).trans (by rw [eq_of_beq k]; rfl)
theorem Sys2Proof.Laws.Build.ctxopKill (f : Sys2Proof.Fields) : Sys2Proof.Laws.Build.Statement (.ctxopKill f) := fun _ _ h k => by cases h; exact (Sys2Proof.build_1F9 f).trans (by rw [eq_of_beq k]; rfl)
theorem Sys2Proof.Laws.Build.ctxopMapdone (f : Sys2Proof.Fields) : Sys2Proof.Laws.Build.Statement (.ctxopMapdone f) := fun _ _ h k => by cases h; exact (Sys2Proof.build_1F9 f).trans (by rw [eq_of_beq k]; rfl)
theorem Sys2Proof.Laws.Build.ctxopTlbinv (f : Sys2Proof.Fields) : Sys2Proof.Laws.Build.Statement (.ctxopTlbinv f) := fun _ _ h k => by cases h; exact (Sys2Proof.build_1F9 f).trans (by rw [eq_of_beq k]; rfl)
theorem Sys2Proof.Laws.Build.ctxopTrapres (f : Sys2Proof.Fields) : Sys2Proof.Laws.Build.Statement (.ctxopTrapres f) := fun _ _ h k => by cases h; exact (Sys2Proof.build_1F9 f).trans (by rw [eq_of_beq k]; rfl)
theorem Sys2Proof.Laws.Build.ctxopFlags (f : Sys2Proof.Fields) : Sys2Proof.Laws.Build.Statement (.ctxopFlags f) := fun _ _ h k => by cases h; exact (Sys2Proof.build_1F9 f).trans (by rw [eq_of_beq k]; rfl)
theorem Sys2Proof.Laws.Build.ctxopState (f : Sys2Proof.Fields) : Sys2Proof.Laws.Build.Statement (.ctxopState f) := fun _ _ h k => by cases h; exact (Sys2Proof.build_1F9 f).trans (by rw [eq_of_beq k]; rfl)
theorem Sys2Proof.Laws.Build.unassignedOpcode (w0 : Sys2Proof.Word) : Sys2Proof.Laws.Build.Statement (.unassignedOpcode w0) := fun _ _ h => nomatch h
theorem Sys2Proof.Laws.Build.storePerformed (i : Nat) : Sys2Proof.Laws.Build.Statement (.storePerformed i) := fun _ _ h => nomatch h
theorem Sys2Proof.Laws.Build.deferredResultWrite (gid i : Nat) : Sys2Proof.Laws.Build.Statement (.deferredResultWrite gid i) := fun _ _ h => nomatch h
theorem Sys2Proof.Laws.Build.loadResultArrive (gid i : Nat) : Sys2Proof.Laws.Build.Statement (.loadResultArrive gid i) := fun _ _ h => nomatch h
theorem Sys2Proof.Laws.Build.pageWalk (die : Nat) : Sys2Proof.Laws.Build.Statement (.pageWalk die) := fun _ _ h => nomatch h
theorem Sys2Proof.Laws.Build.asyncTrapDeliver (gid : Nat) : Sys2Proof.Laws.Build.Statement (.asyncTrapDeliver gid) := fun _ _ h => nomatch h
theorem Sys2Proof.Laws.Build.raceFilterCheck (i : Nat) : Sys2Proof.Laws.Build.Statement (.raceFilterCheck i) := fun _ _ h => nomatch h
theorem Sys2Proof.Laws.Build.remoteWritePerformed (i : Nat) : Sys2Proof.Laws.Build.Statement (.remoteWritePerformed i) := fun _ _ h => nomatch h
theorem Sys2Proof.Laws.Build.hardPreemptCount (gid : Nat) : Sys2Proof.Laws.Build.Statement (.hardPreemptCount gid) := fun _ _ h => nomatch h
theorem Sys2Proof.Laws.Build.hardPreemptWait (gid : Nat) : Sys2Proof.Laws.Build.Statement (.hardPreemptWait gid) := fun _ _ h => nomatch h
theorem Sys2Proof.Laws.Build.workgroupDispatch (lid : Nat) : Sys2Proof.Laws.Build.Statement (.workgroupDispatch lid) := fun _ _ h => nomatch h
theorem Sys2Proof.Laws.Build.berthFill (core : Nat) : Sys2Proof.Laws.Build.Statement (.berthFill core) := fun _ _ h => nomatch h
theorem Sys2Proof.Laws.Build.stealRequest (thief victim : Nat) : Sys2Proof.Laws.Build.Statement (.stealRequest thief victim) := fun _ _ h => nomatch h
theorem Sys2Proof.Laws.Build.viewMerge (blk : Nat) : Sys2Proof.Laws.Build.Statement (.viewMerge blk) := fun _ _ h => nomatch h
theorem Sys2Proof.Laws.Build.streamReadAhead (gid n : Nat) : Sys2Proof.Laws.Build.Statement (.streamReadAhead gid n) := fun _ _ h => nomatch h
theorem Sys2Proof.Laws.Build.copyComplete (core : Nat) : Sys2Proof.Laws.Build.Statement (.copyComplete core) := fun _ _ h => nomatch h
theorem Sys2Proof.Laws.Build.mmaCommandStart (wg : Nat) : Sys2Proof.Laws.Build.Statement (.mmaCommandStart wg) := fun _ _ h => nomatch h
theorem Sys2Proof.Laws.Build.mmaOperandSlot (wg : Nat) : Sys2Proof.Laws.Build.Statement (.mmaOperandSlot wg) := fun _ _ h => nomatch h
theorem Sys2Proof.Laws.Build.interruptionPoint (core : Nat) : Sys2Proof.Laws.Build.Statement (.interruptionPoint core) := fun _ _ h => nomatch h
theorem Sys2Proof.Laws.Build.tileCommandRetire (wg : Nat) : Sys2Proof.Laws.Build.Statement (.tileCommandRetire wg) := fun _ _ h => nomatch h
theorem Sys2Proof.Laws.Build.epiCommand (wg : Nat) : Sys2Proof.Laws.Build.Statement (.epiCommand wg) := fun _ _ h => nomatch h
theorem Sys2Proof.Laws.Build.scaleCommand (wg : Nat) : Sys2Proof.Laws.Build.Statement (.scaleCommand wg) := fun _ _ h => nomatch h
theorem Sys2Proof.Laws.Build.nopPacket (ctx q : Nat) : Sys2Proof.Laws.Build.Statement (.nopPacket ctx q) := fun _ _ h => nomatch h
theorem Sys2Proof.Laws.Build.launchPacket (ctx q : Nat) : Sys2Proof.Laws.Build.Statement (.launchPacket ctx q) := fun _ _ h => nomatch h
theorem Sys2Proof.Laws.Build.copyPacket (ctx q : Nat) : Sys2Proof.Laws.Build.Statement (.copyPacket ctx q) := fun _ _ h => nomatch h
theorem Sys2Proof.Laws.Build.depend (ctx q : Nat) : Sys2Proof.Laws.Build.Statement (.depend ctx q) := fun _ _ h => nomatch h
theorem Sys2Proof.Laws.Build.dependComplete (ctx q : Nat) : Sys2Proof.Laws.Build.Statement (.dependComplete ctx q) := fun _ _ h => nomatch h
theorem Sys2Proof.Laws.Build.graph (ctx q : Nat) : Sys2Proof.Laws.Build.Statement (.graph ctx q) := fun _ _ h => nomatch h
theorem Sys2Proof.Laws.Build.graphStep (ctx q : Nat) : Sys2Proof.Laws.Build.Statement (.graphStep ctx q) := fun _ _ h => nomatch h
theorem Sys2Proof.Laws.Build.collPacket (ctx q : Nat) : Sys2Proof.Laws.Build.Statement (.collPacket ctx q) := fun _ _ h => nomatch h
theorem Sys2Proof.Laws.Build.meetInit (ctx q : Nat) : Sys2Proof.Laws.Build.Statement (.meetInit ctx q) := fun _ _ h => nomatch h
theorem Sys2Proof.Laws.Build.meetFini (ctx q : Nat) : Sys2Proof.Laws.Build.Statement (.meetFini ctx q) := fun _ _ h => nomatch h
theorem Sys2Proof.Laws.Build.meetContrib (ctx q : Nat) : Sys2Proof.Laws.Build.Statement (.meetContrib ctx q) := fun _ _ h => nomatch h
theorem Sys2Proof.Laws.Build.meetResync (ctx q : Nat) : Sys2Proof.Laws.Build.Statement (.meetResync ctx q) := fun _ _ h => nomatch h
theorem Sys2Proof.Laws.Build.queueRestart (ctx q : Nat) : Sys2Proof.Laws.Build.Statement (.queueRestart ctx q) := fun _ _ h => nomatch h
theorem Sys2Proof.Laws.Build.launchComplete (lid : Nat) : Sys2Proof.Laws.Build.Statement (.launchComplete lid) := fun _ _ h => nomatch h
theorem Sys2Proof.Laws.Build.collInstanceStart (i : Nat) (remote : List Sys2Proof.RemoteRank) : Sys2Proof.Laws.Build.Statement (.collInstanceStart i remote) := fun _ _ h => nomatch h
theorem Sys2Proof.Laws.Build.collInstanceComplete (i member : Nat) : Sys2Proof.Laws.Build.Statement (.collInstanceComplete i member) := fun _ _ h => nomatch h
theorem Sys2Proof.Laws.Build.meetContribution (src : Sys2Proof.MeetSource) : Sys2Proof.Laws.Build.Statement (.meetContribution src) := fun _ _ h => nomatch h
theorem Sys2Proof.Laws.Build.sampleTag (core sched : Nat) : Sys2Proof.Laws.Build.Statement (.sampleTag core sched) := fun _ _ h => nomatch h
theorem Sys2Proof.Laws.Build.tick (core : Nat) : Sys2Proof.Laws.Build.Statement (.tick core) := fun _ _ h => nomatch h
theorem Sys2Proof.Laws.Build.freezeMessage (core : Nat) : Sys2Proof.Laws.Build.Statement (.freezeMessage core) := fun _ _ h => nomatch h
theorem Sys2Proof.Laws.Build.flitReceive (port : Nat) (flit : BitVec 512) : Sys2Proof.Laws.Build.Statement (.flitReceive port flit) := fun _ _ h => nomatch h
theorem Sys2Proof.Laws.Build.portRetrain (port : Nat) (ok : Bool) : Sys2Proof.Laws.Build.Statement (.portRetrain port ok) := fun _ _ h => nomatch h
theorem Sys2Proof.Laws.Build.portDown (port : Nat) : Sys2Proof.Laws.Build.Statement (.portDown port) := fun _ _ h => nomatch h
theorem Sys2Proof.Laws.Build.retrainRequest (port : Nat) : Sys2Proof.Laws.Build.Statement (.retrainRequest port) := fun _ _ h => nomatch h
theorem Sys2Proof.Laws.Build.deviceNumberSet (n : Nat) : Sys2Proof.Laws.Build.Statement (.deviceNumberSet n) := fun _ _ h => nomatch h
theorem Sys2Proof.Laws.Build.routeTableWrite (dev : Nat) (w : Sys2Proof.Word) : Sys2Proof.Laws.Build.Statement (.routeTableWrite dev w) := fun _ _ h => nomatch h
theorem Sys2Proof.Laws.Build.rdmaWrite (port qp : Nat) (rkey : Sys2Proof.Word) (addr : Nat) (data : List Sys2Proof.Byte) : Sys2Proof.Laws.Build.Statement (.rdmaWrite port qp rkey addr data) := fun _ _ h => nomatch h
theorem Sys2Proof.Laws.Build.rdmaRead (port qp : Nat) (rkey : Sys2Proof.Word) (addr len : Nat) : Sys2Proof.Laws.Build.Statement (.rdmaRead port qp rkey addr len) := fun _ _ h => nomatch h
theorem Sys2Proof.Laws.Build.atomicFetchAdd (port qp : Nat) (rkey : Sys2Proof.Word) (addr : Nat) (v : Sys2Proof.DWord) : Sys2Proof.Laws.Build.Statement (.atomicFetchAdd port qp rkey addr v) := fun _ _ h => nomatch h
theorem Sys2Proof.Laws.Build.atomicCompareSwap (port qp : Nat) (rkey : Sys2Proof.Word) (addr : Nat) (cmp swp : Sys2Proof.DWord) : Sys2Proof.Laws.Build.Statement (.atomicCompareSwap port qp rkey addr cmp swp) := fun _ _ h => nomatch h
theorem Sys2Proof.Laws.Build.invalidRequestNak (port qp : Nat) (opcode : Sys2Proof.Byte) : Sys2Proof.Laws.Build.Statement (.invalidRequestNak port qp opcode) := fun _ _ h => nomatch h
theorem Sys2Proof.Laws.Build.attest (h : Sys2Proof.ReportHdr) (nonce : BitVec 256) : Sys2Proof.Laws.Build.Statement (.attest h nonce) := fun _ _ h => nomatch h
theorem Sys2Proof.Laws.Build.capsuleRead (h : Sys2Proof.ReportHdr) (capno : Nat) (cap : BitVec 128) : Sys2Proof.Laws.Build.Statement (.capsuleRead h capno cap) := fun _ _ h => nomatch h
theorem Sys2Proof.Laws.Build.unlockChallenge (h : Sys2Proof.ReportHdr) : Sys2Proof.Laws.Build.Statement (.unlockChallenge h) := fun _ _ h => nomatch h
theorem Sys2Proof.Laws.Build.unlock (h : Sys2Proof.ReportHdr) (t : Sys2Proof.Token) : Sys2Proof.Laws.Build.Statement (.unlock h t) := fun _ _ h => nomatch h
theorem Sys2Proof.Laws.Build.placecap (ctx : Nat) (arr : Sys2Proof.DWord) (granule : Nat) (image : BitVec 128) : Sys2Proof.Laws.Build.Statement (.placecap ctx arr granule image) := fun _ _ h => nomatch h
theorem Sys2Proof.Laws.Build.objectCreate (r : Sys2Proof.ObjectReq) : Sys2Proof.Laws.Build.Statement (.objectCreate r) := fun _ _ h => nomatch h
theorem Sys2Proof.Laws.Build.objectRevoke (ctx : Nat) (name : Sys2Proof.DWord) : Sys2Proof.Laws.Build.Statement (.objectRevoke ctx name) := fun _ _ h => nomatch h
theorem Sys2Proof.Laws.Build.contextCreate (n : Nat) (desc : BitVec 2048) (arr : Sys2Proof.DWord) (granule : Nat) (debugName : Sys2Proof.DWord) : Sys2Proof.Laws.Build.Statement (.contextCreate n desc arr granule debugName) := fun _ _ h => nomatch h
theorem Sys2Proof.Laws.Build.contextDestroy (ctx : Nat) : Sys2Proof.Laws.Build.Statement (.contextDestroy ctx) := fun _ _ h => nomatch h
theorem Sys2Proof.Laws.Build.retire (type phys : Nat) : Sys2Proof.Laws.Build.Statement (.retire type phys) := fun _ _ h => nomatch h
theorem Sys2Proof.Laws.Build.scaleon (pcore : Nat) : Sys2Proof.Laws.Build.Statement (.scaleon pcore) := fun _ _ h => nomatch h
theorem Sys2Proof.Laws.Build.revokeDebug (ctx : Nat) : Sys2Proof.Laws.Build.Statement (.revokeDebug ctx) := fun _ _ h => nomatch h
theorem Sys2Proof.Laws.Build.commkey (ctx : Nat) (comm : Sys2Proof.DWord) (answers : List Sys2Proof.KeyAnswer) (acks : List Nat) (switchKeys : List (List Sys2Proof.Byte)) : Sys2Proof.Laws.Build.Statement (.commkey ctx comm answers acks switchKeys) := fun _ _ h => nomatch h
theorem Sys2Proof.Laws.Build.keyExchangeQuery (dev : Nat) : Sys2Proof.Laws.Build.Statement (.keyExchangeQuery dev) := fun _ _ h => nomatch h
theorem Sys2Proof.Laws.Build.keyInstall (dev : Nat) (name : Sys2Proof.DWord) (gen : Nat) (ct wrapped : List Sys2Proof.Byte) : Sys2Proof.Laws.Build.Statement (.keyInstall dev name gen ct wrapped) := fun _ _ h => nomatch h
theorem Sys2Proof.Laws.Build.svnRaise (stevedore : Bool) (image : Sys2Proof.Image) : Sys2Proof.Laws.Build.Statement (.svnRaise stevedore image) := fun _ _ h => nomatch h
theorem Sys2Proof.Laws.Build.deploy : Sys2Proof.Laws.Build.Statement (.deploy) := fun _ _ h => nomatch h
theorem Sys2Proof.Laws.Build.returnToken (sig : List Sys2Proof.Byte) : Sys2Proof.Laws.Build.Statement (.returnToken sig) := fun _ _ h => nomatch h
theorem Sys2Proof.Laws.Build.decommission (sig : List Sys2Proof.Byte) : Sys2Proof.Laws.Build.Statement (.decommission sig) := fun _ _ h => nomatch h
theorem Sys2Proof.Laws.Build.thresholdSet (type phys n : Nat) : Sys2Proof.Laws.Build.Statement (.thresholdSet type phys n) := fun _ _ h => nomatch h
theorem Sys2Proof.Laws.Build.powerCapSet (milliwatt : Nat) : Sys2Proof.Laws.Build.Statement (.powerCapSet milliwatt) := fun _ _ h => nomatch h
theorem Sys2Proof.Laws.Build.errorRingSetup (obj : Sys2Proof.DWord) : Sys2Proof.Laws.Build.Statement (.errorRingSetup obj) := fun _ _ h => nomatch h
theorem Sys2Proof.Laws.Build.registrationWrite (rkey : Sys2Proof.Word) (ctx : Nat) (image : BitVec 128) : Sys2Proof.Laws.Build.Statement (.registrationWrite rkey ctx image) := fun _ _ h => nomatch h
theorem Sys2Proof.Laws.Build.hostObjectWrite (i : Nat) (name : Sys2Proof.DWord) (port qp : Nat) (rkey : Sys2Proof.Word) (addr len : Nat) : Sys2Proof.Laws.Build.Statement (.hostObjectWrite i name port qp rkey addr len) := fun _ _ h => nomatch h
theorem Sys2Proof.Laws.Build.enumerationRead : Sys2Proof.Laws.Build.Statement (.enumerationRead) := fun _ _ h => nomatch h
theorem Sys2Proof.Laws.Build.stop (r : Sys2Proof.DebugReq) (slot : Option Nat) : Sys2Proof.Laws.Build.Statement (.stop r slot) := fun _ _ h => nomatch h
theorem Sys2Proof.Laws.Build.resume (r : Sys2Proof.DebugReq) (slot : Option Nat) : Sys2Proof.Laws.Build.Statement (.resume r slot) := fun _ _ h => nomatch h
theorem Sys2Proof.Laws.Build.readreg (r : Sys2Proof.DebugReq) (gid : Nat) (reg : Sys2Proof.DebugReg) : Sys2Proof.Laws.Build.Statement (.readreg r gid reg) := fun _ _ h => nomatch h
theorem Sys2Proof.Laws.Build.writereg (r : Sys2Proof.DebugReq) (gid : Nat) (reg : Sys2Proof.DebugReg) (value : List Sys2Proof.DWord) : Sys2Proof.Laws.Build.Statement (.writereg r gid reg value) := fun _ _ h => nomatch h
theorem Sys2Proof.Laws.Build.sampcfg (r : Sys2Proof.DebugReq) (ring : Sys2Proof.DWord) (n : Option Nat) : Sys2Proof.Laws.Build.Statement (.sampcfg r ring n) := fun _ _ h => nomatch h
theorem Sys2Proof.Laws.Build.capsuleCollect : Sys2Proof.Laws.Build.Statement (.capsuleCollect) := fun _ _ h => nomatch h
theorem Sys2Proof.Laws.Build.errorDetect (site : Sys2Proof.ErrorSite) (corrected : Bool) : Sys2Proof.Laws.Build.Statement (.errorDetect site corrected) := fun _ _ h => nomatch h
theorem Sys2Proof.Laws.Build.healthWindowExpire : Sys2Proof.Laws.Build.Statement (.healthWindowExpire) := fun _ _ h => nomatch h
theorem Sys2Proof.Laws.Build.powerLimit (milliwatt : Nat) : Sys2Proof.Laws.Build.Statement (.powerLimit milliwatt) := fun _ _ h => nomatch h
theorem Sys2Proof.Laws.Build.thermalThrottle (die celsius : Nat) : Sys2Proof.Laws.Build.Statement (.thermalThrottle die celsius) := fun _ _ h => nomatch h
theorem Sys2Proof.Laws.Build.thermalTrip (die : Nat) : Sys2Proof.Laws.Build.Statement (.thermalTrip die) := fun _ _ h => nomatch h
theorem Sys2Proof.Laws.Build.timeSliceSwitch (r : Sys2Proof.PilotReq) (ctx : Nat) : Sys2Proof.Laws.Build.Statement (.timeSliceSwitch r ctx) := fun _ _ h => nomatch h
theorem Sys2Proof.Laws.Build.coldReset (hm st : Sys2Proof.Image) (pass1 pass2 : List Nat) : Sys2Proof.Laws.Build.Statement (.coldReset hm st pass1 pass2) := fun _ _ h => nomatch h
theorem Sys2Proof.Laws.Build.warmReset (hm st : Sys2Proof.Image) (pass1 pass2 : List Nat) : Sys2Proof.Laws.Build.Statement (.warmReset hm st pass1 pass2) := fun _ _ h => nomatch h
theorem Sys2Proof.Laws.Build.powerLoss : Sys2Proof.Laws.Build.Statement (.powerLoss) := fun _ _ h => nomatch h
theorem Sys2Proof.Laws.Build.vendorProvisioning : Sys2Proof.Laws.Build.Statement (.vendorProvisioning) := fun _ _ h => nomatch h
theorem Sys2Proof.Laws.Build.priorityFlowControlFrame (port prio quanta : Nat) : Sys2Proof.Laws.Build.Statement (.priorityFlowControlFrame port prio quanta) := fun _ _ h => nomatch h
theorem Sys2Proof.Laws.Build.congestionNotificationPacket (port qp : Nat) : Sys2Proof.Laws.Build.Statement (.congestionNotificationPacket port qp) := fun _ _ h => nomatch h
end

