-- ==== Sys2Proof/Laws/Preds.lean ====
section
/-! SUPPORT. Predicates: a write is read back, leaves the others alone, and p7 and g7 take nothing. -/

namespace Sys2Proof.Machine

theorem bit_eq_testBit (v n : Nat) : bit v n = v.testBit n := by
  rw [bit, Nat.testBit_eq_decide_div_mod_eq]; rfl

theorem bit_toNat {n : Nat} (w : BitVec n) (u : Nat) : bit w.toNat u = w.getLsbD u := by rw [bit_eq_testBit]; rfl

theorem bit_putBit (w : Word) (t u : Nat) (b : Bool) (ht : t < 32) (hu : u < 32) : bit (putBit w t b).toNat u = if u = t then b else bit w.toNat u := by
  simp only [bit_toNat]
  have hm : (BitVec.ofNat 32 (2 ^ t)).getLsbD u = decide (u = t) := by
    simp only [BitVec.getLsbD_ofNat, hu, decide_true, Bool.true_and, Nat.testBit_two_pow]
    simp [eq_comm]
  unfold putBit
  cases b
  · simp only [Bool.false_eq_true, if_false, BitVec.getLsbD_and, BitVec.getLsbD_not, hm, hu, decide_true, Bool.true_and]
    by_cases h : u = t <;> simp [h]
  · simp only [if_true, BitVec.getLsbD_or, hm]
    by_cases h : u = t <;> simp [h]

/-- A group of which only predicates and poison marks of the small registers differ. -/
def Group.PredsOnly (g h : Group) : Prop := h = { g with p := h.p, g := h.g, miscPoison := h.miscPoison }

theorem Group.PredsOnly.trans {a b c : Group} (h : a.PredsOnly b) (k : b.PredsOnly c) : a.PredsOnly c := by
  unfold Group.PredsOnly at *; rw [k, h]

/-- Completing after predicates are written. -/
theorem Group.PredsOnly.advance {g h : Group} (e : g.PredsOnly h) (len : Nat) :
    h.advance len = { g with p := (h.advance len).p, g := (h.advance len).g, miscPoison := (h.advance len).miscPoison, pc := (h.advance len).pc, retired := (h.advance len).retired, wait := (h.advance len).wait } := by
  obtain ⟨a, b, c, rfl⟩ : ∃ a b c, h = { g with p := a, g := b, miscPoison := c } := ⟨_, _, _, e⟩
  rfl

theorem Group.setPred_spec (g : Group) (n t : Nat) (b : Bool) (ht : t < 32) :
    g.PredsOnly (g.setPred n t b) ∧ (g.setPred n t b).g = g.g ∧
    (∀ m u, u < 32 → (g.setPred n t b).pred m u = if n ≠ 7 ∧ m = n ∧ u = t then b else g.pred m u) := by
  unfold Group.setPred
  by_cases h : n = 7
  · rw [if_pos h]; exact ⟨rfl, rfl, by simp [h]⟩
  · rw [if_neg h]
    refine ⟨rfl, rfl, ?_⟩
    intro m u hu
    simp only [Group.pred, Cells.get_set]
    by_cases hm : m = n
    · subst hm
      simp only [if_true, bit_putBit _ _ _ _ ht hu, h, ne_eq, not_false_eq_true, true_and]
      by_cases hut : u = t <;> simp [hut, h]
    · simp [hm]

theorem Group.setGpred_spec (g : Group) (n : Nat) (b : Bool) (hn : n < 8) :
    g.PredsOnly (g.setGpred n b) ∧ (g.setGpred n b).p = g.p ∧
    (∀ m, m < 8 → (g.setGpred n b).gpred m = if n ≠ 7 ∧ m = n then b else g.gpred m) := by
  unfold Group.setGpred
  by_cases h : n = 7
  · rw [if_pos h]; exact ⟨rfl, rfl, by simp [h]⟩
  · rw [if_neg h]
    refine ⟨rfl, rfl, ?_⟩
    intro m hm
    have hb : (BitVec.ofNat 8 (2 ^ n)).getLsbD m = decide (m = n) := by
      simp only [BitVec.getLsbD_ofNat, hm, decide_true, Bool.true_and, Nat.testBit_two_pow]; simp [eq_comm]
    simp only [Group.gpred, bit_toNat, h, ne_eq, not_false_eq_true, true_and]
    cases b
    · simp only [Bool.false_eq_true, if_false, BitVec.getLsbD_and, BitVec.getLsbD_not, hb, hm, decide_true, Bool.true_and]
      by_cases h2 : m = n <;> simp [h2, h]
    · simp only [if_true, BitVec.getLsbD_or, hb]
      by_cases h2 : m = n <;> simp [h2]

/-- Predicates written per row. -/
theorem Group.setPreds_spec (u : Bool) (code : BitVec 8) (res : List (Nat × Bool)) (g : Group) (hn : (res.map Prod.fst).Nodup)
    (ht : ∀ e ∈ res, e.1 < 32) :
    let h := res.foldl (fun g e => g.setPredField u code e.1 e.2) g
    g.PredsOnly h ∧
    (u = false → code.toNat % 8 ≠ 7 → ∀ e ∈ res, h.pred (code.toNat % 8) e.1 = e.2) ∧
    (u = true → code.toNat % 8 ≠ 7 → ∀ e, res.getLast? = some e → h.gpred (code.toNat % 8) = e.2) ∧
    (∀ n th, th < 32 → ¬ (u = false ∧ n = code.toNat % 8 ∧ ∃ e ∈ res, e.1 = th) → h.pred n th = g.pred n th) ∧
    (∀ n, n < 8 → ¬ (u = true ∧ n = code.toNat % 8) → h.gpred n = g.gpred n) := by
  induction res generalizing g with
  | nil => simp [Group.PredsOnly]
  | cons e res ih =>
    obtain ⟨t, b⟩ := e
    simp only [List.map_cons, List.nodup_cons] at hn
    have ht0 : t < 32 := ht (t, b) (by simp)
    obtain ⟨i1, i2, i3, i4, i5⟩ := ih (g.setPredField u code t b) hn.2 (fun e he => ht e (by simp [he]))
    simp only [List.foldl_cons]
    have h8 : code.toNat % 8 < 8 := Nat.mod_lt _ (by omega)
    cases u with
    | false =>
      have hs : g.setPredField false code t b = g.setPred (code.toNat % 8) t b := rfl
      obtain ⟨p1, p2, p3⟩ := Group.setPred_spec g (code.toNat % 8) t b ht0
      refine ⟨Group.PredsOnly.trans (by rw [hs]; exact p1) i1, ?_, by simp, ?_, ?_⟩
      · intro _ h7 e he
        rcases List.mem_cons.1 he with he | he
        · subst he
          rw [i4 _ _ ht0, hs, p3 _ _ ht0]
          · simp [h7]
          · rintro ⟨_, _, e, he, h⟩; exact hn.1 (by rw [← h]; exact List.mem_map_of_mem he)
        · exact i2 rfl h7 e he
      · intro n th hth hne
        rw [i4 n th hth, hs, p3 n th hth]
        · rw [if_neg]; rintro ⟨_, h1, h2⟩; exact hne ⟨rfl, h1, (t, b), by simp, h2.symm⟩
        · rintro ⟨h0, h1, e, he, h⟩; exact hne ⟨h0, h1, e, by simp [he], h⟩
      · intro n hn8 hne
        rw [i5 n hn8 hne, hs]; simp only [Group.gpred, p2]
    | true =>
      have hs : g.setPredField true code t b = g.setGpred (code.toNat % 8) b := rfl
      obtain ⟨p1, p2, p3⟩ := Group.setGpred_spec g (code.toNat % 8) b h8
      refine ⟨Group.PredsOnly.trans (by rw [hs]; exact p1) i1, by simp, ?_, ?_, ?_⟩
      · intro _ h7 e he
        cases hl : res.getLast? with
        | none =>
          have hnil : res = [] := by simpa using hl
          subst hnil
          simp only [List.getLast?_singleton, Option.some.injEq] at he
          subst he
          simp only [List.foldl_nil]
          rw [hs, p3 _ h8]; simp [h7]
        | some x =>
          rw [List.getLast?_cons, hl] at he
          simp only [Option.getD_some, Option.some.injEq] at he
          subst he
          exact i3 rfl h7 x hl
      · intro n th hth hne
        rw [i4 n th hth (by simp), hs]; simp only [Group.pred, p2]
      · intro n hn8 hne
        rw [i5 n hn8 hne, hs, p3 n hn8]
        rw [if_neg]; rintro ⟨_, h⟩; exact hne ⟨rfl, h⟩

/-- Completing with predicates written. -/
theorem preds_wrote {s : State} {f : Fields} {fm : Form} (hr : s.g.status = .running) (code : BitVec 8) (res : List (Nat × Bool))
    (hn : (res.map Prod.fst).Nodup) (ht : ∀ e ∈ res, e.1 < 32) :
    WrotePred s (s.readsAs f fm)
      ((s.readsAs f fm).done (res.foldl (fun g e => g.setPredField f.u code e.1 e.2) (s.readsAs f fm).g) f.len) f code res := by
  obtain ⟨k1, k2, k3, k4, k5⟩ := Group.setPreds_spec f.u code res (s.readsAs f fm).g hn ht
  obtain ⟨h1, h2, h3⟩ := completed_done (s := s) (f := f) (fm := fm)
    (res.foldl (fun g e => g.setPredField f.u code e.1 e.2) (s.readsAs f fm).g) f.len
    (by rw [k1]; exact (readsAs_pc s f fm).1) (by rw [k1]; exact (readsAs_pc s f fm).2) hr
  refine ⟨h1, h2, ?_, ?_, ?_, ?_, ?_⟩ <;> rw [h3]
  · exact k2
  · exact k3
  · exact k4
  · exact k5
  · exact k1.advance f.len

/-- What every instruction of the shape `State.mapPred` does. -/
theorem mapPred_wrote {s : State} {op : Nat} {f : Fields} (h : Ready op f s) (fn : Group → Row → Bool) :
    ∃ t, s.mapPred op f fn = .next t ∧
      WrotePred s (s.reads op f) t f f.d ((s.rows op f).map (fun r => (r.t, fn (s.reads op f).g r))) := by
  refine ⟨_, instr_ready h _, ?_⟩
  have := preds_wrote (s := s) (f := f) (fm := form op f) h.running f.d ((s.rows op f).map (fun r => (r.t, fn (s.reads op f).g r)))
    (rows_nodup _) (rows_lt _)
  rw [List.foldl_map] at this
  exact this

end Sys2Proof.Machine
end

