-- ==== Sys2Proof/Tests/Base.lean ====
section
/-! SUPPORT. The words of the spec and what they decode to, and the machine that the tests start from. -/

namespace Sys2Proof.Tests

open Sys2Proof Sys2Proof.Machine Sys2Proof.Claims

/-! ### Helpers -/

/-- The checks of `ReadyAs`, to be computed. -/
def readyB (op : Nat) (f : Fields) (fm : Form) (skip : Bool) (s : State) : Bool :=
  s.g.status == .running && s.g.issue op f fm skip == .ok && !(s.g.active f).isEmpty

theorem ready {op : Nat} {f : Fields} {fm : Form} {skip : Bool} {s : State} (h : readyB op f fm skip s = true) : ReadyAs op f fm skip s := by
  simp only [readyB, Bool.and_eq_true, beq_iff_eq, Bool.not_eq_true', List.isEmpty_eq_false_iff] at h
  exact ⟨h.1.1, h.1.2, h.2⟩

/-- Fields of an instruction word. -/
def fieldsOf (i : Instr) : Fields := (i.word.map Prod.snd).getD (wordOf false 0 0 0 0 .none)

/-- Every instruction of a list may execute here, as its opcode's form says. -/
def allReady (l : List (Nat × Nat × Instr)) (s : State) : Bool :=
  l.all (fun x => match x.2.2.word with | some (op, f) => readyB op f (form op f) false s | none => false)

def dataName : DWord := .ofNat 64 (2 ^ 63 + 2)
def arrName : DWord := .ofNat 64 (2 ^ 63 + 3)

/-- A capability to an object of 64 KiB, with rights 0 to 6 but for NDATOM. -/
def capOn (name : DWord) : Cap := Cap.make name 0 0x3F 0 0 4095

/-- A loaded machine: group 1 runs in context 0 with all threads active, workgroup 1 has a window of 64 KiB and four handles, k2 to k6 name a
writable object of 64 KiB at virtual 0x10000 and a capability array at 0x20000. -/
def W : State :=
  let s := State.reset.load 64 0
  let s : State := { s with
    mem := Cells.setAll memDefault s.mem [(0x30008, 0x13), (0x3000A, 0x05), (0x30010, 0x13), (0x30012, 0x06)]
    objs := Cells.put (Cells.put s.objs dataName.toNat { ObjEntry.absent with live := true, vbase := 0x10000, extent := 65536 })
      arrName.toNat { ObjEntry.absent with live := true, vbase := 0x20000, extent := 65536, caparr := true }
    wgs := [(1, { Workgroup.blank with live := true, lid := 1, members := [1], size := 65536, nHandles := 4 })] }
  s.setG { s.g with p := [(2, 0xFFFFFFFF), (4, 0xFFFFFFFF)], xbase := [(2, 16)], xbound := [(2, 32)], k := [(0, loadCap), (2, capOn dataName), (3, capOn dataName), (4, capOn arrName), (5, capOn arrName), (6, capOn dataName)] }

/-- The group of `W` with other contents. -/
def withG (h : Group → Group) : State := W.setG (h W.g)
/-- Workgroup 1 of `W` with other contents. -/
def withW (h : Workgroup → Workgroup) : State := W.setWg 1 (h (W.wgOf 1))
/-- Values in s registers, in rising order. -/
def withS (l : List (Nat × DWord)) : State := withG (fun g => { g with s := l })

/-- The same, with the form of the opcode. -/
def rdy (op : Nat) (f : Fields) (s : State) : Bool := readyB op f (form op f) false s

/-! ### Words, written out from the encoding of each statement -/

/-- `add.i32 v4, v1, v2`; `sub.i32 v4, v1, v2`; `mul.i32 v4, v1, v2`; `mulhi.i32 v4, v1, v2`; `mad.i32 v4, v1, v2, v3`; `divn.i32 v4, v1, v2`; `remn.i32 v4, v1, v2`; `min.i32 v4, v1, v2`; `max.i32 v4, v1, v2`; `abs.i32 v4, v1`; `neg.i32 v4, v1`. -/
def integerWords : List (Nat × Nat × Instr) :=
  [(64, 0xF30201043804, .add (wordOf false 0x04 0x01 0x02 0xF3 .none)),
   (64, 0xF30201043808, .sub (wordOf false 0x04 0x01 0x02 0xF3 .none)),
   (64, 0xF3020104380C, .mul (wordOf false 0x04 0x01 0x02 0xF3 .none)),
   (64, 0xF30201043810, .mulhi (wordOf false 0x04 0x01 0x02 0xF3 .none)),
   (64, 0x30201043814, .mad (wordOf false 0x04 0x01 0x02 0x03 .none)),
   (64, 0xF30201043818, .divn (wordOf false 0x04 0x01 0x02 0xF3 .none)),
   (64, 0xF3020104381C, .remn (wordOf false 0x04 0x01 0x02 0xF3 .none)),
   (64, 0xF30201043820, .min (wordOf false 0x04 0x01 0x02 0xF3 .none)),
   (64, 0xF30201043824, .max (wordOf false 0x04 0x01 0x02 0xF3 .none)),
   (64, 0xF3F301043828, .abs (wordOf false 0x04 0x01 0xF3 0xF3 .none)),
   (64, 0xF3F30104382C, .neg (wordOf false 0x04 0x01 0xF3 0xF3 .none))]


/-- `and.b32 v4, v1, v2`; `or.b32 v4, v1, v2`; `xor.b32 v4, v1, v2`; `andn.b32 v4, v1, v2`; `shl.b32 v4, v1, v2`; `shr.b32 v4, v1, v2`; `sar.i32 v4, v1, v2`; `bfx.b32 v4, v1, v2, v3`; `bfi.b32 v4, v1, v2, v3`; `popc.b32 v4, v1`; `clz.b32 v4, v1`; `ctz.b32 v4, v1`; `brev.b32 v4, v1`; `sel.b32 v4, v1, v2, !p3`; `mov.i32 v4, 1`; `movi.b32 v1, 0`; `cmp.lt.n32 p4, tid, 16`. -/
def logicWords : List (Nat × Nat × Instr) :=
  [(64, 0x58F30201043840, .and { wordOf false 0x04 0x01 0x02 0xF3 .none with ty := .b32 }),
   (64, 0x58F30201043844, .or { wordOf false 0x04 0x01 0x02 0xF3 .none with ty := .b32 }),
   (64, 0x58F30201043848, .xor { wordOf false 0x04 0x01 0x02 0xF3 .none with ty := .b32 }),
   (64, 0x58F3020104384C, .andn { wordOf false 0x04 0x01 0x02 0xF3 .none with ty := .b32 }),
   (64, 0x58F30201043850, .shl { wordOf false 0x04 0x01 0x02 0xF3 .none with ty := .b32 }),
   (64, 0x58F30201043854, .shr { wordOf false 0x04 0x01 0x02 0xF3 .none with ty := .b32 }),
   (64, 0xF30201043858, .sar (wordOf false 0x04 0x01 0x02 0xF3 .none)),
   (64, 0x5803020104385C, .bfx { wordOf false 0x04 0x01 0x02 0x03 .none with ty := .b32 }),
   (64, 0x58030201043860, .bfi { wordOf false 0x04 0x01 0x02 0x03 .none with ty := .b32 }),
   (64, 0x58F3F301043864, .popc { wordOf false 0x04 0x01 0xF3 0xF3 .none with ty := .b32 }),
   (64, 0x58F3F301043868, .clz { wordOf false 0x04 0x01 0xF3 0xF3 .none with ty := .b32 }),
   (64, 0x58F3F30104386C, .ctz { wordOf false 0x04 0x01 0xF3 0xF3 .none with ty := .b32 }),
   (64, 0x58F3F301043870, .brev { wordOf false 0x04 0x01 0xF3 0xF3 .none with ty := .b32 }),
   (64, 0x580B0201043880, .sel { wordOf false 0x04 0x01 0x02 0x0B .none with ty := .b32 }),
   (96, 0x10000F3F3FF043885, .mov (wordOf false 0x04 0xFF 0xF3 0xF3 (.imm32 0x1))),
   (96, 0x58F3F3FF013889, .movi { wordOf false 0x01 0xFF 0xF3 0xF3 (.imm32 0x0) with ty := .b32 }),
   (96, 0x10000802FFF404388D, .cmp { wordOf false 0x04 0xF4 0xFF 0x02 (.imm32 0x10) with ty := .n32 })]


/-- `fadd.f32.rne v4, v1, v2`; `fsub.f32.rne v4, v1, v2`; `fmul.f32.rne v4, v1, v2`; `(!p3) ffma.f32.rtz v4, v1, v2, 1.0`; `fmin.f32 v4, v1, v2`; `fmax.f32 v4, v1, v2`; `fcmp.lt.f32 p4, v1, v2`; `fclass.f32 v4, v1`; `fdot2.bf16x2.rne v4, v1, v2, v3`; `frcp.f32 v4, v1`; `frsq.f32 v4, v1`; `fsqrt.f32.rne v4, v1`; `fexp2.f32 v4, v1`; `flog2.f32 v4, v1`; `fsinpi.f32 v4, v1`; `fcospi.f32 v4, v1`. -/
def floatWords : List (Nat × Nat × Instr) :=
  [(64, 0x21F30201043A00, .fadd { wordOf false 0x04 0x01 0x02 0xF3 .none with ty := .f32, rnd := .rne }),
   (64, 0x21F30201043A04, .fsub { wordOf false 0x04 0x01 0x02 0xF3 .none with ty := .f32, rnd := .rne }),
   (64, 0x21F30201043A08, .fmul { wordOf false 0x04 0x01 0x02 0xF3 .none with ty := .f32, rnd := .rne }),
   (96, 0x3F8000000022FF0201045A0D, .ffma { wordOf false 0x04 0x01 0x02 0xFF (.imm32 0x3F800000) with ty := .f32, rnd := .rtz, gneg := true, gnum := 3 }),
   (64, 0x20F30201043A10, .fmin { wordOf false 0x04 0x01 0x02 0xF3 .none with ty := .f32 }),
   (64, 0x20F30201043A14, .fmax { wordOf false 0x04 0x01 0x02 0xF3 .none with ty := .f32 }),
   (64, 0x20020201043A18, .fcmp { wordOf false 0x04 0x01 0x02 0x02 .none with ty := .f32 }),
   (64, 0x20F3F301043A1C, .fclass { wordOf false 0x04 0x01 0xF3 0xF3 .none with ty := .f32 }),
   (64, 0x39030201043A20, .fdot2 { wordOf false 0x04 0x01 0x02 0x03 .none with ty := .bf16x2, rnd := .rne }),
   (64, 0x20F3F301043A40, .frcp { wordOf false 0x04 0x01 0xF3 0xF3 .none with ty := .f32 }),
   (64, 0x20F3F301043A44, .frsq { wordOf false 0x04 0x01 0xF3 0xF3 .none with ty := .f32 }),
   (64, 0x21F3F301043A48, .fsqrt { wordOf false 0x04 0x01 0xF3 0xF3 .none with ty := .f32, rnd := .rne }),
   (64, 0x20F3F301043A4C, .fexp2 { wordOf false 0x04 0x01 0xF3 0xF3 .none with ty := .f32 }),
   (64, 0x20F3F301043A50, .flog2 { wordOf false 0x04 0x01 0xF3 0xF3 .none with ty := .f32 }),
   (64, 0x20F3F301043A54, .fsinpi { wordOf false 0x04 0x01 0xF3 0xF3 .none with ty := .f32 }),
   (64, 0x20F3F301043A58, .fcospi { wordOf false 0x04 0x01 0xF3 0xF3 .none with ty := .f32 })]


/-- `cvt.dbf16.f32.rne.ovsat v2, v1`; `cvtpk.dbf16x2.f32.rne.ovsat v4, v1, v2`; `qpack.f32.fs3.rne.ovsat v4, v1, s5`; `qunpk.el0.f32.fs3.rne v5, v4, v4`; `scalegen.f32.fs3 v4, v1, s5`. -/
def conversionWords : List (Nat × Nat × Instr) :=
  [(96, 0x600000021F3F301023A81, .cvt { wordOf false 0x02 0x01 0xF3 0xF3 (.ext ⟨0, 6, 0, 0, 0, 0x00⟩) with ty := .f32, rnd := .rne }),
   (96, 0x700000021F30201043A85, .cvtpk { wordOf false 0x04 0x01 0x02 0xF3 (.ext ⟨0, 7, 0, 0, 0, 0x00⟩) with ty := .f32, rnd := .rne }),
   (96, 0x60000021F3B501043A89, .qpack { wordOf false 0x04 0x01 0xB5 0xF3 (.ext ⟨0, 0, 3, 0, 0, 0x00⟩) with ty := .f32, rnd := .rne }),
   (96, 0x60000021F30404053A8D, .qunpk { wordOf false 0x05 0x04 0x04 0xF3 (.ext ⟨0, 0, 3, 0, 0, 0x00⟩) with ty := .f32, rnd := .rne }),
   (96, 0x60000020F3B501043A91, .scalegen { wordOf false 0x04 0x01 0xB5 0xF3 (.ext ⟨0, 0, 3, 0, 0, 0x00⟩) with ty := .f32 })]


/-- `pset.b32 p1, v1, 0x4`; `plop.or p1, p2, !p3, !p7`; `pmov.get.b32 v4`; `vote.any g1, !p2`. -/
def predicateWords : List (Nat × Nat × Instr) :=
  [(96, 0x40058F3FF01013C01, .pset { wordOf false 0x01 0x01 0xFF 0xF3 (.imm32 0x4) with ty := .b32 }),
   (64, 0x40000F0B02013C04, .plop { wordOf false 0x01 0x02 0x0B 0x0F .none with mod := 1 }),
   (64, 0x58F3F3F3043C08, .pmov { wordOf false 0x04 0xF3 0xF3 0xF3 .none with ty := .b32 }),
   (64, 0x4000F3F30A013C0C, .vote { wordOf false 0x01 0x0A 0xF3 0xF3 .none with mod := 1 })]


/-- `shfl.idx.b32 v4, v1, v5`; `swpair.b32 v4, v1`; `bcast.b32 s4, v1, 7`; `redux.add.f32.rne s4, v1`; `scan.add.incl.n32 v4, v1`; `match.b32 v4, v1`. -/
def laneWords : List (Nat × Nat × Instr) :=
  [(64, 0x58F30501043C40, .shfl { wordOf false 0x04 0x01 0x05 0xF3 .none with ty := .b32 }),
   (64, 0x58F3F301043C44, .swpair { wordOf false 0x04 0x01 0xF3 0xF3 .none with ty := .b32 }),
   (96, 0x70058F3FF01B43C49, .bcast { wordOf false 0xB4 0x01 0xFF 0xF3 (.imm32 0x7) with ty := .b32 }),
   (64, 0x2100F301B43C4C, .redux { wordOf false 0xB4 0x01 0xF3 0x00 .none with ty := .f32, rnd := .rne }),
   (64, 0x800F301043C50, .scan { wordOf false 0x04 0x01 0xF3 0x00 .none with ty := .n32 }),
   (64, 0x58F3F301043C54, .matchAny { wordOf false 0x04 0x01 0xF3 0xF3 .none with ty := .b32 })]


/-- `ldx x2, v5`; `stx v6, x2`; `uni.xset x2, s5, 32`; `uni.grow 96`; `uni.shrink 32`; `uni.allotq s6`. -/
def indexWords : List (Nat × Nat × Instr) :=
  [(64, 0x58F3F305023C80, .ldx { wordOf false 0x02 0x05 0xF3 0xF3 .none with ty := .b32 }),
   (64, 0x58F3F302063C84, .stx { wordOf false 0x06 0x02 0xF3 0xF3 .none with ty := .b32 }),
   (96, 0x200000F3FFB502BC89, .xset (wordOf true 0x02 0xB5 0xFF 0xF3 (.imm32 0x20))),
   (96, 0x600000F3F3FFF3BCC1, .grow (wordOf true 0xF3 0xFF 0xF3 0xF3 (.imm32 0x60))),
   (96, 0x200000F3F3FFF3BCC5, .shrink (wordOf true 0xF3 0xFF 0xF3 0xF3 (.imm32 0x20))),
   (64, 0xF3F3F3B6BCC8, .allotq (wordOf true 0xB6 0xF3 0xF3 0xF3 .none))]


/-- `(p2) bra l_then, l_join`; `uni.call s8, func`; `uni.brx s9`; `join`; `uni.ret s8`; `(p4) exit`; `bkpt`; `yield`; `nop`; `safept sp1`; `trap 7`. -/
def controlWords : List (Nat × Nat × Instr) :=
  [(96, 0x80000000FF3F31501, .bra { wordOf false 0xF3 0xF3 0x0F 0x00 (.ext ⟨0, 0, 0, 0, 0, 0x08⟩) with gnum := 2 }),
   (96, 0x400000F3F3F3B8BD05, .call (wordOf true 0xB8 0xF3 0xF3 0xF3 (.ext ⟨0, 0, 0, 0, 0, 0x40⟩))),
   (64, 0xF3F3B9F3BD08, .brx (wordOf true 0xF3 0xB9 0xF3 0xF3 .none)),
   (64, 0xF3F3F3F33D0C, .join (wordOf false 0xF3 0xF3 0xF3 0xF3 .none)),
   (64, 0xF3F3B8F3BD10, .ret (wordOf true 0xF3 0xB8 0xF3 0xF3 .none)),
   (64, 0xF3F3F3F32514, .exit { wordOf false 0xF3 0xF3 0xF3 0xF3 .none with gnum := 4 }),
   (64, 0xF3F3F3F33D18, .bkpt (wordOf false 0xF3 0xF3 0xF3 0xF3 .none)),
   (64, 0xF3F3F3F33D1C, .yield (wordOf false 0xF3 0xF3 0xF3 0xF3 .none)),
   (64, 0xF3F3F3F33D20, .nop (wordOf false 0xF3 0xF3 0xF3 0xF3 .none)),
   (128, 0x40000000000000F3F3F3F33D26, .safept (wordOf false 0xF3 0xF3 0xF3 0xF3 (.extImm ⟨0, 0, 0, 0, 0, 0x00⟩ 0x40))),
   (96, 0x70000F3F3FFF33D29, .trap (wordOf false 0xF3 0xFF 0xF3 0xF3 (.imm32 0x7)))]


/-- `uni.smode.set 0x80`; `uni.gmode s4`; `uni.rdsys s4, cycle`; `uni.wrsys gscratch0, s5`. -/
def systemWords : List (Nat × Nat × Instr) :=
  [(96, 0x804000F3F3FFF3BD81, .smode { wordOf true 0xF3 0xFF 0xF3 0xF3 (.imm32 0x80) with mod := 1 }),
   (64, 0xF3F3F3B4BD84, .gmode (wordOf true 0xB4 0xF3 0xF3 0xF3 .none)),
   (96, 0xF3F3F3B4BD89, .rdsys (wordOf true 0xB4 0xF3 0xF3 0xF3 (.ext ⟨0, 0, 0, 0, 0, 0x00⟩))),
   (96, 0x100000000000F3F3B5F3BD8D, .wrsys (wordOf true 0xF3 0xB5 0xF3 0xF3 (.ext ⟨16, 0, 0, 0, 0, 0x00⟩)))]


/-- `mmaf.16x16x16.bf16 v16, v0, v4, v16`; `mmaf.32x8x16.bf16 v16, v0, v8, v16`; `mmaf.8x32x16.f16 v16, v0, v8, v16`; `mmaf.16x16x32.fs2.fsb3 v16, v0, v4, v16`; `mmai.16x16x32.sat.fs4.fsb4 v16, v0, v4, v16`; `mmaq.16x16x64.fs2.fsb3 v16, v0, v4, v16, v8, v9`; `ldfrag.a.16x16x64 v0, le3, s4, zero`; `stfrag.acc.16x16x16.t le5, s4, s5, v16`; `fragmov.toa.bf16.rne v32, v16`. -/
def fragmentWords : List (Nat × Nat × Instr) :=
  [(96, 0x30100400103E01, .mmaf16x16x16 { wordOf false 0x10 0x00 0x04 0x10 (.ext ⟨0, 0, 0, 0, 0, 0x00⟩) with ty := .bf16 }),
   (96, 0x30100800103E05, .mmaf32x8x16 { wordOf false 0x10 0x00 0x08 0x10 (.ext ⟨0, 0, 0, 0, 0, 0x00⟩) with ty := .bf16 }),
   (96, 0x28100800103E09, .mmaf8x32x16 { wordOf false 0x10 0x00 0x08 0x10 (.ext ⟨0, 0, 0, 0, 0, 0x00⟩) with ty := .f16 }),
   (96, 0x4C000000100400103E0D, .mmaf16x16x32 (wordOf false 0x10 0x00 0x04 0x10 (.ext ⟨0, 0, 2, 3, 0, 0x00⟩))),
   (96, 0x90004000100400103E11, .mmai { wordOf false 0x10 0x00 0x04 0x10 (.ext ⟨0, 0, 4, 4, 0, 0x00⟩) with mod := 1 }),
   (96, 0x8094C000000100400103E15, .mmaq (wordOf false 0x10 0x00 0x04 0x10 (.ext ⟨8, 9, 2, 3, 0, 0x00⟩))),
   (96, 0x30000800000F3F3B4003E21, .ldfrag (wordOf false 0x00 0xB4 0xF3 0xF3 (.ext ⟨3, 0, 0, 0, 0, 0x80⟩))),
   (96, 0x5000009000010B5B4F33E25, .stfrag (wordOf false 0xF3 0xB4 0xB5 0x10 (.ext ⟨5, 0, 0, 0, 0, 0x09⟩))),
   (64, 0x31F3F310203E28, .fragmov { wordOf false 0x20 0x10 0xF3 0xF3 .none with ty := .bf16, rnd := .rne })]


/-- `uni.tmma s8`; `uni.tcfg.ring g2, s4`; `uni.tcfg.free`; `uni.tscale s8`; `taccrd v16, 1, s4`; `taccwr 1, s4, v16`; `uni.tepi s8`; `uni.tstat s4`; `uni.tdrain.wait`; `uni.tdrain.abort`. -/
def tileWords : List (Nat × Nat × Instr) :=
  [(96, 0xF3F3B8F3BE81, .tmma (wordOf true 0xF3 0xB8 0xF3 0xF3 (.ext ⟨0, 0, 0, 0, 0, 0x00⟩))),
   (96, 0xF3F3B402BE85, .tcfgRing (wordOf true 0x02 0xB4 0xF3 0xF3 (.ext ⟨0, 0, 0, 0, 0, 0x00⟩))),
   (96, 0x10000F3F3F3F3BE85, .tcfgFree (wordOf true 0xF3 0xF3 0xF3 0xF3 (.ext ⟨0, 0, 0, 0, 0, 0x01⟩))),
   (96, 0xF3F3B8F3BE89, .tscale (wordOf true 0xF3 0xB8 0xF3 0xF3 (.ext ⟨0, 0, 0, 0, 0, 0x00⟩))),
   (96, 0x10000000000F3F3B4103E8D, .taccrd (wordOf false 0x10 0xB4 0xF3 0xF3 (.ext ⟨1, 0, 0, 0, 0, 0x00⟩))),
   (96, 0x1000000000010F3B4F33E91, .taccwr (wordOf false 0xF3 0xB4 0xF3 0x10 (.ext ⟨1, 0, 0, 0, 0, 0x00⟩))),
   (96, 0xF3F3B8F3BE95, .tepi (wordOf true 0xF3 0xB8 0xF3 0xF3 (.ext ⟨0, 0, 0, 0, 0, 0x00⟩))),
   (64, 0xF3F3F3B4BE98, .tstat (wordOf true 0xB4 0xF3 0xF3 0xF3 .none)),
   (64, 0xF3F3F3F3BE9C, .tdrainWait (wordOf true 0xF3 0xF3 0xF3 0xF3 .none)),
   (64, 0x4000F3F3F3F3BE9C, .tdrainAbort { wordOf true 0xF3 0xF3 0xF3 0xF3 .none with mod := 1 })]


/-- `ld.w32.acq.dev.rem v4, k3, v1, s6`; `st.w64 k3, v1, s6, v8.d`; `ldt le4, v6, v2.d, s8`; `stt.rel.dev le4, v2.d, s8, v7`; `uni.ldu.w64.acq.dev s4, k3, s5, s6`; `atom.add.rlx.dev.n32 v5, k2, v1, s6, v2`; `red.add.rel.dev.n32 k3, v1, s6, v2`; `fence.acq.dev.rem`; `pref.w64.l2 k3, v1, s6`; `uni.capld k5, k3, zero, s6`; `uni.capst k3, zero, s6, k5`; `uni.caprestr k5, k3, s4, s5, s6`; `uni.capq.base s4, k3`; `uni.llock.dev g2, k4, zero, s6`; `uni.lunlk.dev k4, zero, s6`. -/
def memoryWords : List (Nat × Nat × Instr) :=
  [(96, 0x302004E0000F3B601043F01, .ld (wordOf false 0x04 0x01 0xB6 0xF3 (.ext ⟨3, 2, 0, 0, 0, 0x4E⟩))),
   (96, 0x3030000000008B601F33F05, .st (wordOf false 0xF3 0x01 0xB6 0x08 (.ext ⟨3, 3, 0, 0, 0, 0x00⟩))),
   (96, 0x40000000000F3B802063F09, .ldt (wordOf false 0x06 0x02 0xB8 0xF3 (.ext ⟨4, 0, 0, 0, 0, 0x00⟩))),
   (96, 0x400006C000007B802F33F0D, .stt (wordOf false 0xF3 0x02 0xB8 0x07 (.ext ⟨4, 0, 0, 0, 0, 0x6C⟩))),
   (96, 0x303004C0000F3B6B5B4BF11, .ldu (wordOf true 0xB4 0xB5 0xB6 0xF3 (.ext ⟨3, 3, 0, 0, 0, 0x4C⟩))),
   (96, 0x200002C000802B601053F15, .atom { wordOf false 0x05 0x01 0xB6 0x02 (.ext ⟨2, 0, 0, 0, 0, 0x2C⟩) with ty := .n32 }),
   (96, 0x300006C000802B601F33F19, .red { wordOf false 0xF3 0x01 0xB6 0x02 (.ext ⟨3, 0, 0, 0, 0, 0x6C⟩) with ty := .n32 }),
   (96, 0x4E0000F3F3F3F33F1D, .fence (wordOf false 0xF3 0xF3 0xF3 0xF3 (.ext ⟨0, 0, 0, 0, 0, 0x4E⟩))),
   (96, 0x30300040000F3B601F33F59, .pref (wordOf false 0xF3 0x01 0xB6 0xF3 (.ext ⟨3, 3, 0, 0, 0, 0x04⟩))),
   (96, 0x30500000000F3B6F3F3BF2D, .capld (wordOf true 0xF3 0xF3 0xB6 0xF3 (.ext ⟨3, 5, 0, 0, 0, 0x00⟩))),
   (96, 0x30500000000F3B6F3F3BF31, .capst (wordOf true 0xF3 0xF3 0xB6 0xF3 (.ext ⟨3, 5, 0, 0, 0, 0x00⟩))),
   (96, 0x30500000000B6B5B4F3BF35, .caprestr (wordOf true 0xF3 0xB4 0xB5 0xB6 (.ext ⟨3, 5, 0, 0, 0, 0x00⟩))),
   (96, 0x30000010000F3F3F3B4BF39, .capq (wordOf true 0xB4 0xF3 0xF3 0xF3 (.ext ⟨3, 0, 0, 0, 0, 0x01⟩))),
   (96, 0x400000C0000F3B6F302BF5D, .llock (wordOf true 0x02 0xF3 0xB6 0xF3 (.ext ⟨4, 0, 0, 0, 0, 0x0C⟩))),
   (96, 0x400000C0000F3B6F3F3BF61, .lunlk (wordOf true 0xF3 0xF3 0xB6 0xF3 (.ext ⟨4, 0, 0, 0, 0, 0x0C⟩)))]


/-- `uni.bar.sync`; `uni.bar.arrive s4`; `uni.bar.wait s4`; `uni.abar.init.dev vault, s6, 96`; `uni.abar.arrive s4, vault, s6`; `uni.abar.wait vault, s5, s6`; `uni.abar.sync rvault, s6`; `uni.abar.inval vault, s6`; `uni.waitc.copy 2`; `uni.bufacq.fill 3, s4`; `uni.bufacq.drain 3`; `uni.bufrel.fill 3`; `uni.bufrel.drain 3`; `uni.bufwait.full 3`; `uni.bufstate s4, 3`. -/
def syncWords : List (Nat × Nat × Instr) :=
  [(96, 0xF3F3F3F3BF21, .barSync (wordOf true 0xF3 0xF3 0xF3 0xF3 (.ext ⟨0, 0, 0, 0, 0, 0x00⟩))),
   (96, 0x10000F3F3F3B4BF21, .barArrive (wordOf true 0xB4 0xF3 0xF3 0xF3 (.ext ⟨0, 0, 0, 0, 0, 0x01⟩))),
   (96, 0x20000F3F3B4F3BF21, .barWait (wordOf true 0xF3 0xB4 0xF3 0xF3 (.ext ⟨0, 0, 0, 0, 0, 0x02⟩))),
   (128, 0x60000000184000FFB6F3F3BF26, .abarInit { wordOf true 0xF3 0xF3 0xB6 0xFF (.extImm ⟨0, 0, 0, 0, 0, 0x18⟩ 0x60) with mod := 1 }),
   (96, 0x14000F3B6F3B4BF25, .abarArrive { wordOf true 0xB4 0xF3 0xB6 0xF3 (.ext ⟨0, 0, 0, 0, 0, 0x01⟩) with mod := 1 }),
   (96, 0x24000F3B6B5F3BF25, .abarWait { wordOf true 0xF3 0xB5 0xB6 0xF3 (.ext ⟨0, 0, 0, 0, 0, 0x02⟩) with mod := 1 }),
   (96, 0x38000F3B6F3F3BF25, .abarSync { wordOf true 0xF3 0xF3 0xB6 0xF3 (.ext ⟨0, 0, 0, 0, 0, 0x03⟩) with mod := 2 }),
   (96, 0x44000F3B6F3F3BF25, .abarInval { wordOf true 0xF3 0xF3 0xB6 0xF3 (.ext ⟨0, 0, 0, 0, 0, 0x04⟩) with mod := 1 }),
   (96, 0x20000000000F3F3F3F3BF29, .waitc (wordOf true 0xF3 0xF3 0xF3 0xF3 (.ext ⟨2, 0, 0, 0, 0, 0x00⟩))),
   (96, 0x30000000000F3F3B4F3BF49, .bufacqFill (wordOf true 0xF3 0xB4 0xF3 0xF3 (.ext ⟨3, 0, 0, 0, 0, 0x00⟩))),
   (96, 0x30000010000F3F3F3F3BF49, .bufacqDrain (wordOf true 0xF3 0xF3 0xF3 0xF3 (.ext ⟨3, 0, 0, 0, 0, 0x01⟩))),
   (96, 0x30000000000F3F3F3F3BF4D, .bufrelFill (wordOf true 0xF3 0xF3 0xF3 0xF3 (.ext ⟨3, 0, 0, 0, 0, 0x00⟩))),
   (96, 0x30000010000F3F3F3F3BF4D, .bufrelDrain (wordOf true 0xF3 0xF3 0xF3 0xF3 (.ext ⟨3, 0, 0, 0, 0, 0x01⟩))),
   (96, 0x30000020000F3F3F3F3BF51, .bufwait (wordOf true 0xF3 0xF3 0xF3 0xF3 (.ext ⟨3, 0, 0, 0, 0, 0x02⟩))),
   (96, 0x30000000000F3F3F3B4BF55, .bufstate (wordOf true 0xB4 0xF3 0xF3 0xF3 (.ext ⟨3, 0, 0, 0, 0, 0x00⟩)))]


/-- `uni.strmset 3, s8`; `uni.strmctl.start 3`; `uni.strmctl.stop 3`; `uni.strmctl.query s4, 3`; `uni.strmctl.free 3`; `uni.cpy s8`. -/
def engineWords : List (Nat × Nat × Instr) :=
  [(96, 0x30000000000F3F3B8F3BF3D, .strmset (wordOf true 0xF3 0xB8 0xF3 0xF3 (.ext ⟨3, 0, 0, 0, 0, 0x00⟩))),
   (96, 0x30000000000F3F3F3F3BF41, .strmctlStart (wordOf true 0xF3 0xF3 0xF3 0xF3 (.ext ⟨3, 0, 0, 0, 0, 0x00⟩))),
   (96, 0x30000010000F3F3F3F3BF41, .strmctlStop (wordOf true 0xF3 0xF3 0xF3 0xF3 (.ext ⟨3, 0, 0, 0, 0, 0x01⟩))),
   (96, 0x30000020000F3F3F3B4BF41, .strmctlQuery (wordOf true 0xB4 0xF3 0xF3 0xF3 (.ext ⟨3, 0, 0, 0, 0, 0x02⟩))),
   (96, 0x30000030000F3F3F3F3BF41, .strmctlFree (wordOf true 0xF3 0xF3 0xF3 0xF3 (.ext ⟨3, 0, 0, 0, 0, 0x03⟩))),
   (96, 0xF3F3B8F3BF45, .cpy (wordOf true 0xF3 0xB8 0xF3 0xF3 (.ext ⟨0, 0, 0, 0, 0, 0x00⟩)))]


/-- `uni.spawn sumtask, s4, s5`; `uni.sync`; `uni.texit`; `uni.pedrd.elem s4, s5`; `pedcmp.b32 v4, v1, v2`; `rng.mixed.n64 v4.d, v6.d`; `uni.alloco.check k5, s4, g1`; `uni.freeo k5`; `uni.logw 0x0102, s4`; `uni.rdecl s4, 3`; `uni.rview.fin s4, 0, s5`; `racc.f32 1, v4, v6`; `rapp.b64 3, v4.d`. -/
def taskWords : List (Nat × Nat × Instr) :=
  [(96, 0x30000002B5B4F3BF81, .spawn (wordOf true 0xF3 0xB4 0xB5 0x02 (.ext ⟨0, 0, 0, 0, 0, 0x30⟩))),
   (64, 0xF3F3F3F3BF84, .sync (wordOf true 0xF3 0xF3 0xF3 0xF3 .none)),
   (64, 0xF3F3F3F3BF88, .texit (wordOf true 0xF3 0xF3 0xF3 0xF3 .none)),
   (64, 0x8000F3F3B5B4BF8C, .pedrd { wordOf true 0xB4 0xB5 0xF3 0xF3 .none with mod := 2 }),
   (64, 0x58F30201043F90, .pedcmp { wordOf false 0x04 0x01 0x02 0xF3 .none with ty := .b32 }),
   (64, 0x18F3F306043F94, .rng { wordOf false 0x04 0x06 0xF3 0xF3 .none with ty := .n64 }),
   (64, 0x400001F3B405BF98, .alloco { wordOf true 0x05 0xB4 0xF3 0x01 .none with mod := 1 }),
   (64, 0xF3F3F305BF9C, .freeo (wordOf true 0x05 0xF3 0xF3 0xF3 .none)),
   (96, 0x10200000000F3F3B4F3BFA1, .logw (wordOf true 0xF3 0xB4 0xF3 0xF3 (.ext ⟨1, 2, 0, 0, 0, 0x00⟩))),
   (96, 0x30000000000F3F3F3B4BFA5, .rdecl (wordOf true 0xB4 0xF3 0xF3 0xF3 (.ext ⟨3, 0, 0, 0, 0, 0x00⟩))),
   (96, 0xF3B5F3B4BFA9, .rview (wordOf true 0xB4 0xF3 0xB5 0xF3 (.ext ⟨0, 0, 0, 0, 0, 0x00⟩))),
   (96, 0x10000000020F30604F33FAD, .racc { wordOf false 0xF3 0x04 0x06 0xF3 (.ext ⟨1, 0, 0, 0, 0, 0x00⟩) with ty := .f32 }),
   (96, 0x30000000060F3F304F33FB1, .rapp { wordOf false 0xF3 0x04 0xF3 0xF3 (.ext ⟨3, 0, 0, 0, 0, 0x00⟩) with ty := .b64 })]


/-- `uni.coll s8`; `uni.collq s4, s6`; `uni.amerge s8`; `uni.qmeet s4, k5, k6, s6, s7, s8`; `uni.qround.poll s4, k5, k6, s6, s7, s8`; `uni.qround.wait s4, k5, k6, s6, s7, 160`; `uni.qresync s4, k5, s6`; `uni.launch s6, 4, s8`; `uni.postres.max.n64 s4`; `uni.evmark.b64 s4, 0x51`. -/
def collectiveWords : List (Nat × Nat × Instr) :=
  [(96, 0xF3F3B8F3BFC1, .coll (wordOf true 0xF3 0xB8 0xF3 0xF3 (.ext ⟨0, 0, 0, 0, 0, 0x00⟩))),
   (96, 0xF3F3B6B4BFC5, .collq (wordOf true 0xB4 0xB6 0xF3 0xF3 (.ext ⟨0, 0, 0, 0, 0, 0x00⟩))),
   (96, 0xF3F3B8F3BFC9, .amerge (wordOf true 0xF3 0xB8 0xF3 0xF3 (.ext ⟨0, 0, 0, 0, 0, 0x00⟩))),
   (96, 0x50600000000B8B7B6B4BFCD, .qmeet (wordOf true 0xB4 0xB6 0xB7 0xB8 (.ext ⟨5, 6, 0, 0, 0, 0x00⟩))),
   (96, 0x50600000000B8B7B6B4BFD1, .qroundPoll (wordOf true 0xB4 0xB6 0xB7 0xB8 (.ext ⟨5, 6, 0, 0, 0, 0x00⟩))),
   (128, 0xA0050600004000FFB7B6B4BFD2, .qroundWait { wordOf true 0xB4 0xB6 0xB7 0xFF (.extImm ⟨5, 6, 0, 0, 0, 0x00⟩ 0xA0) with mod := 1 }),
   (96, 0x50000000000F3F3B6B4BFD5, .qresync (wordOf true 0xB4 0xB6 0xF3 0xF3 (.ext ⟨5, 0, 0, 0, 0, 0x00⟩))),
   (96, 0x40000000000F3F3B8B6BFD9, .launch (wordOf true 0xB6 0xB8 0xF3 0xF3 (.ext ⟨4, 0, 0, 0, 0, 0x00⟩))),
   (96, 0x18F3F3B4F3BFDD, .postres { wordOf true 0xF3 0xB4 0xF3 0xF3 (.ext ⟨0, 0, 0, 0, 0, 0x00⟩) with ty := .n64 }),
   (96, 0x510060F3FFB4F3BFE1, .evmark { wordOf true 0xF3 0xB4 0xFF 0xF3 (.imm32 0x51) with ty := .b64 })]


/-- `uni.ctxop.preempt s4, s5`; `uni.ctxop.resume s4, s5`; `uni.ctxop.kill s4, s5`; `uni.ctxop.mapdone s4, s5`; `uni.ctxop.tlbinv s4, s5`; `uni.ctxop.trapres s4, s5`; `uni.ctxop.flags s4, s5`; `uni.ctxop.state s4, s5`. -/
def contextWords : List (Nat × Nat × Instr) :=
  [(96, 0xF3F3B5B4BFE5, .ctxopPreempt (wordOf true 0xB4 0xB5 0xF3 0xF3 (.ext ⟨0, 0, 0, 0, 0, 0x00⟩))),
   (96, 0x10000F3F3B5B4BFE5, .ctxopResume (wordOf true 0xB4 0xB5 0xF3 0xF3 (.ext ⟨0, 0, 0, 0, 0, 0x01⟩))),
   (96, 0x20000F3F3B5B4BFE5, .ctxopKill (wordOf true 0xB4 0xB5 0xF3 0xF3 (.ext ⟨0, 0, 0, 0, 0, 0x02⟩))),
   (96, 0x30000F3F3B5B4BFE5, .ctxopMapdone (wordOf true 0xB4 0xB5 0xF3 0xF3 (.ext ⟨0, 0, 0, 0, 0, 0x03⟩))),
   (96, 0x40000F3F3B5B4BFE5, .ctxopTlbinv (wordOf true 0xB4 0xB5 0xF3 0xF3 (.ext ⟨0, 0, 0, 0, 0, 0x04⟩))),
   (96, 0x50000F3F3B5B4BFE5, .ctxopTrapres (wordOf true 0xB4 0xB5 0xF3 0xF3 (.ext ⟨0, 0, 0, 0, 0, 0x05⟩))),
   (96, 0x60000F3F3B5B4BFE5, .ctxopFlags (wordOf true 0xB4 0xB5 0xF3 0xF3 (.ext ⟨0, 0, 0, 0, 0, 0x06⟩))),
   (96, 0x70000F3F3B5B4BFE5, .ctxopState (wordOf true 0xB4 0xB5 0xF3 0xF3 (.ext ⟨0, 0, 0, 0, 0, 0x07⟩)))]



end Sys2Proof.Tests
end

