-- ==== Sys2Proof/Tests/Slice0.lean ====
section
/-! SUPPORT. Words of every family decode to the instructions that the spec's encodings say; ill-formed terms are refused; single steps give the
results that the spec's rules and examples give. -/

namespace Sys2Proof.Tests

open Sys2Proof Sys2Proof.Machine Sys2Proof.Claims

set_option maxRecDepth 100000

/-! ### Decoding: the words of `Tests.Base` -/

theorem test_decode_integer : integerWords.all (fun x => decodeTableWord x.1 x.2.1 == some x.2.2) = true := by decide

theorem test_decode_logic : logicWords.all (fun x => decodeTableWord x.1 x.2.1 == some x.2.2) = true := by decide

theorem test_decode_float : floatWords.all (fun x => decodeTableWord x.1 x.2.1 == some x.2.2) = true := by decide

theorem test_decode_conversion : conversionWords.all (fun x => decodeTableWord x.1 x.2.1 == some x.2.2) = true := by decide

theorem test_decode_predicate : predicateWords.all (fun x => decodeTableWord x.1 x.2.1 == some x.2.2) = true := by decide

theorem test_decode_lane : laneWords.all (fun x => decodeTableWord x.1 x.2.1 == some x.2.2) = true := by decide

theorem test_decode_index : indexWords.all (fun x => decodeTableWord x.1 x.2.1 == some x.2.2) = true := by decide

theorem test_decode_control : controlWords.all (fun x => decodeTableWord x.1 x.2.1 == some x.2.2) = true := by decide

theorem test_decode_system : systemWords.all (fun x => decodeTableWord x.1 x.2.1 == some x.2.2) = true := by decide

theorem test_decode_fragment : fragmentWords.all (fun x => decodeTableWord x.1 x.2.1 == some x.2.2) = true := by decide

theorem test_decode_tile : tileWords.all (fun x => decodeTableWord x.1 x.2.1 == some x.2.2) = true := by decide

theorem test_decode_memory : memoryWords.all (fun x => decodeTableWord x.1 x.2.1 == some x.2.2) = true := by decide

theorem test_decode_sync : syncWords.all (fun x => decodeTableWord x.1 x.2.1 == some x.2.2) = true := by decide

theorem test_decode_engine : engineWords.all (fun x => decodeTableWord x.1 x.2.1 == some x.2.2) = true := by decide

theorem test_decode_task : taskWords.all (fun x => decodeTableWord x.1 x.2.1 == some x.2.2) = true := by decide

theorem test_decode_collective : collectiveWords.all (fun x => decodeTableWord x.1 x.2.1 == some x.2.2) = true := by decide

theorem test_decode_context : contextWords.all (fun x => decodeTableWord x.1 x.2.1 == some x.2.2) = true := by decide

/-- LD of 64 bits; NOP with a type field that is not zero; LEN 11 and an opcode of no row are the illegal instruction. -/
theorem test_decode_refuses :
    decodeTableWord 64 0x700 = none ∧ decodeTableWord 64 (0xF3F3F3F33D20 + 2 ^ 51) = none ∧ decodeTableWord 64 3 = some (.unassignedOpcode 3) ∧
    decodeTableWord 64 0x7FC = some (.unassignedOpcode 0x7FC) := by decide

/-! ### Ill-formed terms, one for each check -/

def addWord : Fields := wordOf false 4 1 2 0xF3 .none

theorem test_wf_accepts : (Instr.add addWord).wf = true ∧ (Instr.nop (wordOf false 0xF3 0xF3 0xF3 0xF3 .none)).wf = true := by decide
theorem test_wf_length : illegalField 0x001 { addWord with tail := .ext ⟨0, 0, 0, 0, 0, 0⟩ } = some .length := by decide
theorem test_wf_guard : illegalField 0x001 { addWord with gneg := true } = some .guard := by decide
theorem test_wf_uniform : illegalField 0x103 { wordOf true 1 0x0A 0xF3 0xF3 .none with mod := 1 } = some .uniform := by decide
theorem test_wf_mod : illegalField 0x003 { addWord with mod := 2 } = some .mod := by decide
theorem test_wf_type : illegalField 0x001 { addWord with ty := .f32 } = some .type := by decide
theorem test_wf_rounding : illegalField 0x001 { addWord with rnd := .rtz } = some .rounding := by decide
theorem test_wf_operand : illegalField 0x001 { addWord with c := 3 } = some .operand := by decide
theorem test_wf_immediate : illegalField 0x001 { addWord with tail := .imm32 5 } = some .immediate := by decide
theorem test_wf_hold : illegalField 0x001 { addWord with hold := 1, he := 3 } = some .hold := by decide
theorem test_wf_fex : illegalField 0x001 { addWord with fex := 4 } = some .fex := by decide
theorem test_wf_extension : illegalField 0x1CA (wordOf true 0xF3 0xF3 0xF3 0xF3 (.ext ⟨0, 9, 0, 0, 0, 0⟩)) = some .extension := by decide
theorem test_wf_sub_operation : (Instr.barArrive (wordOf true 0xB4 0xF3 0xF3 0xF3 (.ext ⟨0, 0, 0, 0, 0, 0⟩))).wf = false := by decide
theorem test_wf_unassigned : unassigned 0x7FC = true ∧ unassigned 3 = true := by decide

/-! ### Single steps -/

/-- Values of v registers by register and thread, with every result of the step written. -/
def withV (l : List (Nat × Nat × Nat)) : State := withG (fun g => { g with v := l.map (fun e => (32 * e.1 + e.2.1, .ofNat 32 e.2.2)) })
/-- The group after an instruction, with its results in flight written. -/
def after (i : Instr) (s : State) : Group :=
  match exec i s with
  | .next t => t.g.pending.foldl Group.arrive { t.g with pending := [] }
  | _ => Group.blank
def v4 (i : Instr) (s : State) (t : Nat) : Nat := (after i s).vreg 4 t
/-- v1 and v2 of thread 0. -/
def two (a b : Nat) : State := withV [(1, 0, a), (2, 0, b)]
def raw (f : Fields) : Fields := { f with ty := .b32 }

-- R96: wrap, saturation, carry.
theorem test_add_wraps : v4 (.add addWord) (two 0x7FFFFFFF 1) 0 = 0x80000000 := by decide
theorem test_add_saturates : v4 (.add { addWord with mod := 1 }) (two 0x7FFFFFFF 1) 0 = 0x7FFFFFFF := by decide
theorem test_sub_saturates : v4 (.sub { addWord with mod := 1, ty := .n32 }) (two 1 2) 0 = 0 := by decide
theorem test_mulhi_signed : v4 (.mulhi addWord) (two 0xFFFFFFFF 2) 0 = 0xFFFFFFFF := by decide
theorem test_mulhi_natural : v4 (.mulhi { addWord with ty := .n32 }) (two 0xFFFFFFFF 2) 0 = 1 := by decide
theorem test_abs_least : v4 (.abs { addWord with b := 0xF3 }) (two 0x80000000 0) 0 = 0x80000000 := by decide
-- R97: division truncates towards zero; by zero it gives all ones and the dividend, and sets DZ.
theorem test_divn_truncates : v4 (.divn addWord) (two 0xFFFFFFF9 2) 0 = 0xFFFFFFFD := by decide
theorem test_remn_sign : v4 (.remn addWord) (two 0xFFFFFFF9 2) 0 = 0xFFFFFFFF := by decide
theorem test_divn_by_zero : v4 (.divn addWord) (two 7 0) 0 = 0xFFFFFFFF := by decide
theorem test_divn_least : v4 (.divn addWord) (two 0x80000000 0xFFFFFFFF) 0 = 0x80000000 := by decide
theorem test_remn_by_zero : v4 (.remn addWord) (two 7 0) 0 = 7 := by decide
-- R98
theorem test_shl_by_width : v4 (.shl (raw addWord)) (two 1 32) 0 = 0 := by decide
theorem test_sar_beyond_width : v4 (.sar addWord) (two 0x80000000 40) 0 = 0xFFFFFFFF := by decide
theorem test_bfx_sign : v4 (.bfx { raw addWord with c := 3, mod := 1 }) (withV [(1, 0, 0x80000000), (2, 0, 28), (3, 0, 9)]) 0 = 0xFFFFFFF8 := by decide
theorem test_bfi : v4 (.bfi { raw addWord with c := 3 }) (withV [(1, 0, 0xFFFFFFFF), (2, 0, 0), (3, 0, 0x0804)]) 0 = 0xFFFFF00F := by decide
theorem test_clz_zero : v4 (.clz { raw addWord with b := 0xF3 }) (two 0 0) 0 = 32 := by decide
theorem test_brev : v4 (.brev { raw addWord with b := 0xF3 }) (two 3 0) 0 = 0xC0000000 := by decide
-- R99
theorem test_cmp_natural : (after (.cmp { addWord with c := 2, ty := .n32 }) (two 0xFFFFFFFF 1)).p = [(2, 0xFFFFFFFF)] := by decide

-- R100, R101: rounding to nearest even; the sign of zero; NaN against a number.
theorem test_fadd_ties_to_even : v4 (.fadd { addWord with ty := .f32, rnd := .rne }) (two 0x3F800001 0x33800000) 0 = 0x3F800002 := by decide
theorem test_fadd_down : v4 (.fadd { addWord with ty := .f32, rnd := .rdn }) (two 0x3F800000 0xBF800000) 0 = 0x80000000 := by decide
theorem test_fmul : v4 (.fmul { addWord with ty := .f32, rnd := .rtz }) (two 0x40400000 0xC0000000) 0 = 0xC0C00000 := by decide
theorem test_ffma_rounds_once : v4 (.ffma { addWord with ty := .f32, rnd := .rne, c := 3 }) (withV [(1, 0, 0x3F800001), (2, 0, 0x3F800001), (3, 0, 0xBF800002)]) 0 = 0x28800000 := by decide
theorem test_fmin_nan : v4 (.fmin { addWord with ty := .f32 }) (two 0x7FC00000 0x40000000) 0 = 0x40000000 := by decide
theorem test_fsqrt : v4 (.fsqrt { addWord with ty := .f32, rnd := .rne, b := 0xF3 }) (two 0x40800000 0) 0 = 0x40000000 := by decide

-- R113, R114, R117, R118, R120
theorem test_pmov_get : v4 (.pmov (raw { addWord with a := 0xF3, b := 0xF3 })) W 5 = 0x94 := by decide
theorem test_vote_any : (after (.vote { addWord with d := 1, a := 0x02, b := 0xF3, mod := 1 }) W).gpred 1 = true := by decide
theorem test_swpair : v4 (.swpair (raw { addWord with b := 0xF3 })) (withV [(1, 6, 5), (1, 7, 9)]) 6 = 9 := by decide
theorem test_shfl_up_edge : v4 (.shfl (raw { addWord with mod := 1 })) (withV [(1, 0, 5), (2, 0, 1)]) 0 = 5 := by decide
theorem test_scan_exclusive : v4 (.scan { addWord with ty := .n32, b := 0xF3, c := 0, mod := 1 }) (withV [(1, 0, 3), (1, 1, 4)]) 2 = 7 := by decide

/-- The digest of "abc" in FIPS 180-4, byte 0 lowest. -/
theorem test_sha256 : sha256 [0x61, 0x62, 0x63] = 0xAD1500F261FF10B49C7A1796A36103B02322AE5DDE404141EACF018FBF1678BA := by decide +kernel

end Sys2Proof.Tests
end

