-- ==== Sys2Proof/Tests/Witness.lean ====
section
/-! SUPPORT. For every obligation with hypotheses, states and operands that meet them. -/

namespace Sys2Proof.Tests

open Sys2Proof Sys2Proof.Machine Sys2Proof.Claims

set_option maxRecDepth 100000
set_option Elab.async false

/-! ### Arithmetic, predicates, index registers, allotment -/

theorem test_meets_IntegerInstructionsComplete : allReady integerWords W = true ∧ allReady logicWords W = true := by decide +kernel

def addCc (u : Bool) : Fields := { (if u then wordOf true 0xB4 0xB1 0xB2 2 .none else wordOf false 4 1 2 2 .none) with mod := 2 }

theorem test_meets_AddSubDivRemComplete : ∀ u, rdy 0x001 (addCc u) W = true ∧ rdy 0x002 (addCc u) W = true := by decide +kernel

theorem test_meets_FloatInstructionsComplete : allReady floatWords W = true := by decide +kernel

def pmovSet : Fields := { wordOf false 0xF3 1 0xF3 0xF3 .none with mod := 1, ty := .b32 }

theorem test_meets_PredicateInstructionsComplete : allReady predicateWords W = true ∧ rdy 0x102 pmovSet W = true := by decide +kernel

def voteBallot : Fields := { wordOf false 0xB4 2 0xF3 0xF3 .none with mod := 2 }

theorem test_meets_VotesAndLanesComplete : allReady laneWords W = true ∧ rdy 0x103 voteBallot W = true := by decide +kernel

def stxWord : Fields := wordOf false 6 2 0xF3 0xF3 .none
def xsetTop : Fields := wordOf true 2 0xB5 0xFF 0xF3 (.imm32 1)

theorem test_meets_IndexInstructionsComplete : allReady indexWords W = true ∧
    (rdy 0x121 stxWord W = true ∧ Cells.get false W.g.miscPoison (miscKey 2 2) = false) ∧
    (let s := withS [(5, 175)]
     rdy 0x122 xsetTop s = true ∧ s.g.uval xsetTop 0xB5 = 175 ∧ s.g.uval xsetTop 0xB5 + s.g.uval xsetTop 0xFF = 176) := by decide +kernel

def toAllot (n : Word) : Fields := wordOf true 0xF3 0xFF 0xF3 0xF3 (.imm32 n)

theorem test_meets_AllotmentInstructionsComplete :
    (let s := withG (fun g => { g with allot := 32 })
     let f := toAllot 176
     rdy 0x130 f s = true ∧ allotOk (s.g.uval f f.a) = true ∧ s.g.growReq = none ∧
     ((s.reads 0x130 f).pairGroups s.g.core s.g.berth).all (fun e => e.1 == s.cur || e.2.growReq.isNone) = true ∧
     s.g.allot < s.g.uval f f.a ∧ s.g.uval f f.a - s.g.allot ≤ (s.reads 0x130 f).freeRegs s.g.core s.g.berth) ∧
    (let f := toAllot 32
     rdy 0x130 f W = true ∧ allotOk (W.g.uval f f.a) = true ∧ W.g.growReq = none ∧ W.g.uval f f.a ≤ W.g.allot ∧
     rdy 0x131 f W = true ∧ (W.g.pending.all (fun d => d.quads.all (fun q => q / 8 < W.g.uval f f.a))) = true) ∧
    rdy 0x132 (wordOf true 0xB6 0xF3 0xF3 0xF3 .none) W = true := by decide +kernel

/-! ### Control flow, mode and system registers -/

def braWord (u : Bool) (guard : BitVec 3) : Fields := { wordOf u 0xF3 0xF3 0x0F 0x00 (.ext ⟨0, 0, 0, 0, 0, 8⟩) with gnum := guard }
def half : State := withG (fun g => { g with p := [(2, 0xFFFF), (4, 0xFFFF)] })
def mergeOn : List RsEntry := [⟨true, 0xFFFFFFFF, some 0, 0⟩]

theorem test_meets_BranchesComplete : allReady controlWords W = true ∧ rdy 0x140 (braWord true 7) W = true ∧
    (let s := half
     let taken : Word := .ofNat 32 (threadMask (s.rows 0x140 (braWord false 2)))
     rdy 0x140 (braWord false 2) s = true ∧ s.g.cur &&& ~~~taken ≠ 0 ∧ s.g.spilled = 0 ∧ s.g.stack.length + 2 ≤ hwEntries) ∧
    (let taken : Word := .ofNat 32 (threadMask (W.rows 0x140 (braWord false 2)))
     W.g.cur &&& ~~~taken = 0) := by decide +kernel

def exitWord (u : Bool) (guard : BitVec 3) : Fields := { wordOf u 0xF3 0xF3 0xF3 0xF3 .none with gnum := guard }

/-- What `WholeStack` says. -/
def wholeB (r : State) (all : List RsEntry) (seen : Nat) (mark : Option Word) : Bool :=
  all.length == r.g.spilled + r.g.stack.length && decide (all.length ≤ maxEntries) && all.drop r.g.spilled == r.g.stack &&
    (List.range r.g.spilled).all (fun i => seen ≤ i ||
      (match all[i]?, deepEntry r (r.g.spilled - 1 - i) with
       | some e, some (e', p) => e == e' && (!p || (match mark with | some pc => e.join != some pc | none => false))
       | _, _ => false))
theorem whole_of {r : State} {all : List RsEntry} {seen : Nat} {mark : Option Word} (h : wholeB r all seen mark = true) : WholeStack r all seen mark := by
  simp only [wholeB, Bool.and_eq_true, beq_iff_eq, decide_eq_true_eq, List.all_eq_true, List.mem_range, Bool.or_eq_true] at h
  obtain ⟨⟨⟨h1, h2⟩, h3⟩, h4⟩ := h
  refine ⟨h1, h2, h3, fun i e hi hs he => ?_⟩
  rcases h4 i hi with h | h
  · omega
  · rw [he] at h
    split at h
    · next e1 e2 p he1 he2 =>
      cases he1
      simp only [Bool.and_eq_true, beq_iff_eq, Bool.or_eq_true, Bool.not_eq_true'] at h
      obtain ⟨rfl, h⟩ := h
      refine ⟨p, he2, fun hp => ?_⟩
      rcases h with h | h
      · rw [h] at hp; cases hp
      · split at h
        · next pc => exact ⟨pc, rfl, by simpa using h⟩
        · cases h
    · cases h

/-- A stack of hardware's entries, with one more in k2's window, whose bytes are 0. -/
def spilledStack : List RsEntry := RsEntry.ofImage 0 :: List.replicate hwEntries ⟨true, 0xFFFFFFFF, some 0, 0⟩

/-- Stacks with and without an entry in k2's window; groups that end with no workgroup, block or stack, and one that must wait for a child. -/
theorem test_meets_JoinsAndExitsComplete :
    (∀ x ∈ [(0, List.replicate hwEntries ⟨true, 0xFFFFFFFF, some 0, 0⟩), (1, spilledStack)],
     let s := withG (fun g => { g with spilled := x.1, stack := x.2.drop x.1 })
     rdy 0x143 (exitWord false 7) s = true ∧
     wholeB (s.reads 0x143 (exitWord false 7)) x.2 (joinSeen s.g.pc s.g.live x.2) (some s.g.pc) = true) ∧
    (let gone : Word := .ofNat 32 (threadMask (half.rows 0x145 (exitWord false 4)))
     rdy 0x145 (exitWord false 4) half = true ∧ half.g.cur &&& ~~~gone ≠ 0) ∧
    (let s := withG (fun g => { g with cur := 0xFFFF, stack := mergeOn })
     let gone : Word := .ofNat 32 (threadMask (s.rows 0x145 (exitWord false 7)))
     rdy 0x145 (exitWord false 7) s = true ∧ s.g.cur &&& ~~~gone = 0 ∧
     wholeB (s.reads 0x145 (exitWord false 7)) mergeOn (exitSeen (s.g.live &&& ~~~gone) mergeOn) none = true ∧
     (exitTo (s.g.live &&& ~~~gone) mergeOn).isSome = true) ∧
    (let s : State := { withG (fun g => { g with wg := none, block := 2 }) with wgs := [] }
     let gone : Word := .ofNat 32 (threadMask (s.rows 0x145 (exitWord false 7)))
     rdy 0x145 (exitWord true 7) s = true ∧ rdy 0x145 (exitWord false 7) s = true ∧ s.g.cur &&& ~~~gone = 0 ∧
     wholeB (s.reads 0x145 (exitWord false 7)) [] (exitSeen (s.g.live &&& ~~~gone) []) none = true ∧
     exitTo (s.g.live &&& ~~~gone) [] = none ∧ s.g.pedDepth = 0 ∧ s.g.wg = none ∧ (s.block s.g.block).live = false) ∧
    (let s := (withG (fun g => { g with pedDepth := 1 })).setBlock 1 { W.block 1 with items := [.strand 0 [], .child 1 false [], .strand 1 []] }
     rdy 0x145 (exitWord true 7) s = true ∧ s.g.pedDepth ≠ 0 ∧ (s.block s.g.block).live = true ∧
     ¬ ((s.block s.g.block).noChild = true ∧ s.quiet = true)) := by decide +kernel

def smodeWord (m : BitVec 2) : Fields := { wordOf true 0xF3 0xB4 0xF3 0xF3 .none with mod := m }

theorem test_meets_HintsAndModesComplete : W.preempting W.g.ctx = false ∧ allReady systemWords W = true ∧ W.g.dividing = false ∧
    Cells.get false W.g.miscPoison (miscKey 4 0) = false ∧
    (let s := withS [(4, 0x80)]
     rdy 0x160 (smodeWord 1) s = true ∧ modeOk ((s.g.mode ||| .ofNat 32 (s.g.uval (smodeWord 1) 0xB4)) &&& modeMask) = true) ∧
    (let s := withS [(4, 0x7)]
     rdy 0x160 (smodeWord 0) s = true ∧ modeOk (.ofNat 32 (s.g.uval (smodeWord 0) 0xB4) &&& modeMask) = false) := by decide +kernel

/-! ### Memory and capabilities -/

/-- A load's places are known and no access fails. -/
def clean : Loads → Bool | .ok _ [] => true | _ => false
/-- A store is issued. -/
def issued : Issued → Bool | .ok _ => true | _ => false

/-- `W` with p2 true in thread 0 only, and values in s registers. -/
def one (l : List (Nat × DWord)) : State := withG (fun g => { g with p := [(2, 1)], s := l })

/-- k3 offset v1 + s6, w32, acquire, device, remote. -/
def ldWord : Fields := { wordOf false 0x04 0x01 0xB6 0xF3 (.ext ⟨3, 2, 0, 0, 0, 0x4E⟩) with gnum := 2 }
def lduWord : Fields := wordOf true 0xB4 0xB5 0xB6 0xF3 (.ext ⟨3, 3, 0, 0, 0, 2 <<< 5 ||| 3 <<< 2⟩)

/-- The last four bytes, and the last eight, of the object. -/
theorem test_meets_LoadsComplete :
    (let s := one [(6, 65532)]
     rdy 0x1C0 ldWord s = true ∧ ldWord.ext.fe = 0 ∧ memSpace s 0x1C0 ldWord = some (.obj (capOn dataName)) ∧
     (s.reads 0x1C0 ldWord).accCheck (some (.obj (capOn dataName))) [rRead] (2 ^ ldWord.ext.sz) (ldWord.ext.ord != 0) (memAccs s 0x1C0 ldWord) = .ok ∧
     (s.reads 0x1C0 ldWord).isPeer (.obj (capOn dataName)) = false ∧
     clean ((s.reads 0x1C0 ldWord).loads (.obj (capOn dataName)) (2 ^ ldWord.ext.sz) false false (memAccs s 0x1C0 ldWord)) = true) ∧
    (let s := one [(6, 65528)]
     rdy 0x1C4 lduWord s = true ∧ memSpace s 0x1C4 lduWord = some (.obj (capOn dataName)) ∧
     (s.reads 0x1C4 lduWord).accCheck (some (.obj (capOn dataName))) [rRead] (2 ^ lduWord.ext.sz) (lduWord.ext.ord != 0) (memAccs s 0x1C4 lduWord) = .ok ∧
     (s.reads 0x1C4 lduWord).isPeer (.obj (capOn dataName)) = false ∧
     clean ((s.reads 0x1C4 lduWord).loads (.obj (capOn dataName)) (2 ^ lduWord.ext.sz) false false (memAccs s 0x1C4 lduWord)) = true) := by decide +kernel

/-- LD `.fe` or `.fec` of four bytes of the own window. -/
def ldFe (fe : Nat) : Fields := { wordOf false 0x04 0x01 0xB6 0xF3 (.ext ⟨0, .ofNat 8 (2 + 16 * fe), 0, 0, 0, 0⟩) with gnum := 2, mod := 1 }

theorem test_meets_FullEmptyLoadsComplete : ∀ fe ∈ [1, 2],
    (let f := ldFe fe
     let s := (one [(6, 65520)]).setWg 1 { W.wgOf 1 with full := [(4095, true)] }
     rdy 0x1C0 f s = true ∧ f.ext.fe = fe ∧ memSpace s 0x1C0 f = some (.own 1) ∧ s.g.feDone = [] ∧
     (s.reads 0x1C0 f).accCheck (some (.own 1)) [rRead] (2 ^ f.ext.sz) true (memAccs s 0x1C0 f) = .ok ∧
     clean ((s.reads 0x1C0 f).loads (.own 1) 16 false false (memAccs s 0x1C0 f)) = true ∧ (s.reads 0x1C0 f).stores = [] ∧
     (match (s.reads 0x1C0 f).loads (.own 1) 16 false false (memAccs s 0x1C0 f) with
      | .ok [(0, some l)] [] => granOf l == some (1, 4095)
      | _ => false) = true) := by decide +kernel

def stWord : Fields := { wordOf false 0xF3 0x01 0xB6 0x08 (.ext ⟨3, 3, 0, 0, 0, 3 <<< 5 ||| 3 <<< 2⟩) with gnum := 2 }
def redWord : Fields := { wordOf false 0xF3 0x01 0xB6 0x02 (.ext ⟨3, 0, 0, 0, 0, 3 <<< 5 ||| 3 <<< 2⟩) with gnum := 2, ty := .n32 }

theorem test_meets_StoresComplete :
    (let s := one [(6, 65528)]
     let sp : Space := .obj (capOn dataName)
     readyB 0x1C1 stWord (form 0x1C1 stWord) true s = true ∧ memSpace s 0x1C1 stWord = some sp ∧
     (s.reads 0x1C1 stWord).accCheck (some sp) [rWrite] (2 ^ stWord.ext.sz) (stWord.ext.ord != 0 || stWord.ext.fe != 0) (memAccs s 0x1C1 stWord) = .ok ∧
     stWord.ext.ord = 3 ∧ s.quiet = true ∧
     issued ((s.reads 0x1C1 stWord).issueStores sp ⟨false, stWord.ext.fe == 2, false, s.g.entry⟩ (2 ^ stWord.ext.sz) false (stPuts s stWord)) = true) ∧
    (let s := one [(6, 65532)]
     let sp : Space := .obj (capOn dataName)
     rdy 0x1C6 redWord s = true ∧ memSpace s 0x1C6 redWord = some sp ∧
     (s.reads 0x1C6 redWord).accCheck (some sp) [rWrite] (4 * regsOf redWord.ty) true (memAccs s 0x1C6 redWord) = .ok ∧
     redWord.ext.ord = 3 ∧ s.quiet = true ∧
     issued ((s.reads 0x1C6 redWord).issueStores sp ⟨false, false, redWord.ty != .f32, s.g.entry⟩ (4 * regsOf redWord.ty) false (redPuts s redWord)) = true) := by
  decide +kernel

theorem test_meets_IssuedStoresHoldTheirBytes :
    issued (W.issueStores (.obj (capOn dataName)) ⟨false, false, false, 0⟩ 4 false [⟨65532, [1, 2, 3, 4], none, false⟩]) = true := by decide +kernel

/-- A pending store of one part. -/
def pending (kind : StoreKind) (q : Part) : PStore :=
  { gid := 1, ctx := 0, lid := 1, core := 0, kind := kind, parts := [q], tag := false, setFull := false, entry := 0, pc := 0, seq := 0, op := 0, va := 0x10000, obj := none, sched := 0, owner := 0 }

/-- What `allLocal` says. -/
def allLocalB (l : List Part) : Bool :=
  let loc (x : Loc) : Bool := match x with | .mem _ => true | .vault _ _ => true | _ => false
  (bytesOf l).all (fun b => loc b.1) && (redsOf l).all (fun r => r.1.all loc)
theorem allLocal_of {l : List Part} (h : allLocalB l = true) : allLocal l := by
  have loc : ∀ x : Loc, (match x with | .mem _ => true | .vault _ _ => true | _ => false) = true → isLocal x := by
    intro x hx
    cases x with
    | mem pa => exact .inl ⟨pa, rfl⟩
    | vault w off => exact .inr ⟨w, off, rfl⟩
    | _ => cases hx
  simp only [allLocalB, Bool.and_eq_true, List.all_eq_true] at h
  exact ⟨fun b hb => loc _ (h.1 b hb), fun r hr x hx => loc _ (h.2 r hr x hx)⟩

def plainPart : Part := ⟨[(.mem 0x50000, 1), (.mem 0x50001, 2), (.mem 0x50000, 3)], [], false, none⟩

/-- The object behind k2 has generation 0: the store that names generation 3 comes too late. -/
theorem test_meets_PerformedStoreWritesItsBytes : ∀ gen ∈ [0, 3],
    let p := { pending .plain plainPart with obj := some (dataName.toNat, gen) }
    let s : State := { W with stores := [p] }
    s.stores[0]? = some p ∧ p.kind = .plain ∧ s.storeReady 0 = true ∧ s.current p = (gen == 0) ∧ s.meetDrops p = false ∧
    p.parts = [plainPart] ∧ allLocalB p.parts = true ∧ plainPart.shadow = none ∧ lastByte (bytesOf p.parts) (.mem 0x50000) = some 3 := by decide +kernel

def atomWord : Fields := { wordOf false 0x05 0x01 0xB6 0x02 (.ext ⟨2, 0, 0, 0, 0, 4 <<< 5 ||| 3 <<< 2⟩) with gnum := 2, ty := .n32 }

theorem test_meets_AtomicsComplete : let s := one [(6, 65532)]
    let f := atomWord
    let sp : Space := .obj (capOn dataName)
    let r := s.reads 0x1C5 f
    rdy 0x1C5 f s = true ∧ memSpace s 0x1C5 f = some sp ∧ ((r.obj (objKey s.g.ctx dataName)).checked && !(capOn dataName).has rNdatom) = false ∧
    r.accCheck (some sp) [rRead, rWrite] (4 * regsOf f.ty) true (memAccs s 0x1C5 f) = .ok ∧ f.ext.ord = 4 ∧ s.quiet = true ∧
    r.isPeer sp = false ∧ (capOn dataName).has rNdatom = false ∧
    (match r.loads sp (4 * regsOf f.ty) false true (memAccs s 0x1C5 f) with
     | .ok ls [] => !r.ownPending ls && (match atomItems s f ls with | [(_, some _, _)] => true | _ => false) &&
         (match r.atoms f (4 * regsOf f.ty) sp false none (atomItems s f ls) with | some (s2, _) => s2.g.status == .running | none => false)
     | _ => false) = true := by decide +kernel

/-- The object is checked. -/
theorem test_meets_AtomicsComplete_checked : let s := (one [(6, 65532)]).setObj dataName.toNat { W.obj dataName.toNat with checked := true }
    let f := atomWord
    let sp : Space := .obj (capOn dataName)
    let r := s.reads 0x1C5 f
    rdy 0x1C5 f s = true ∧ memSpace s 0x1C5 f = some sp ∧ ((r.obj (objKey s.g.ctx dataName)).checked && !(capOn dataName).has rNdatom && !r.isPeer sp) = true ∧
    r.meetHeld (objKey s.g.ctx dataName) = false ∧ r.accCheck (some sp) [rRead, rWrite] (4 * regsOf f.ty) true (memAccs s 0x1C5 f) = .ok ∧ s.quiet = true ∧
    (match r.loads sp (4 * regsOf f.ty) false true (memAccs s 0x1C5 f) with
     | .ok ls [] => (match atomItems s f ls with
         | [(row, some p, _)] => (r.atoms f (4 * regsOf f.ty) sp true none (atomItems s f ls)).isSome &&
             (aopApply (f.ext.num2.toNat % 16) f.ty (r.readNat p) (r.g.aopOperand f (f.ext.num2.toNat % 16) (4 * regsOf f.ty) row).1
               (r.g.aopOperand f (f.ext.num2.toNat % 16) (4 * regsOf f.ty) row).2).isSome
         | _ => false)
     | _ => false) = true := by decide +kernel

theorem test_meets_FencesAndPrefetchesComplete : let fence (x : BitVec 8) : Fields := wordOf false 0xF3 0xF3 0xF3 0xF3 (.ext ⟨0, 0, 0, 0, 0, x⟩)
    (rdy 0x1C7 (fence 0x4E) W = true ∧ (fence 0x4E).ext.ord = 2) ∧ (rdy 0x1C7 (fence 0x6E) W = true ∧ (fence 0x6E).ext.ord = 3 ∧ W.quiet = true) ∧
    rdy 0x1D6 (wordOf false 0xF3 0x01 0xB6 0xF3 (.ext ⟨3, 3, 0, 0, 0, 4⟩)) W = true := by decide +kernel

def capldWord : Fields := wordOf true 0xF3 0xF3 0xB6 0xF3 (.ext ⟨4, 5, 0, 0, 0, 0⟩)
def caprestrWord : Fields := wordOf true 0xF3 0xB4 0xB5 0xB6 (.ext ⟨3, 5, 0, 0, 0, 0⟩)

theorem test_meets_CapabilityInstructionsComplete :
    (let s := withS [(6, 65520)]
     let r := s.reads 0x1CB capldWord
     let at_ := r.capAt capldWord rCapLoad
     rdy 0x1CB capldWord s = true ∧ at_.2.2 = .ok ∧
     (match r.loads (.obj at_.1) 16 true false [⟨0, at_.2.1⟩] with | .ok [(0, some p)] [] => !r.ownPending [(0, some p)] | _ => false) = true) ∧
    (let s := withS [(6, 65520)]
     let r := s.reads 0x1CC capldWord
     let at_ := r.capAt capldWord rCapStore
     let k := s.g.kreg capldWord.ext.num2.toNat
     rdy 0x1CC capldWord s = true ∧ at_.2.2 = .ok ∧ capldWord.ext.ord ≠ 3 ∧
     issued (r.issueStores (.obj at_.1) ⟨k.tag, false, false, s.g.entry⟩ 16 true [⟨at_.2.1, toLE 16 k.image.toNat, none, false⟩]) = true) ∧
    (∀ e ∈ [(0, 65536), (65520, 16)], let s := withS [(4, .ofNat 64 e.1), (5, .ofNat 64 e.2), (6, 0xFF)]
     let c := s.g.kreg caprestrWord.ext.num1.toNat
     let start := s.g.uval caprestrWord 0xB4
     let len := s.g.uval caprestrWord 0xB5
     rdy 0x1CD caprestrWord s = true ∧ c.tag = true ∧ start % 16 = 0 ∧ len % 16 = 0 ∧ 16 ≤ len ∧ start + len = c.length ∧
     (windowExp (c.start + start) len).isSome = true) ∧
    (∀ x ∈ [0, 1, 2, 3], rdy 0x1CE (wordOf true 0xB4 0xF3 0xF3 0xF3 (.ext ⟨3, 0, 0, 0, 0, .ofNat 8 x⟩)) W = true) := by decide +kernel

/-! ### Synchronisation -/

def barWord : Fields := wordOf true 0xB4 0xB4 0xF3 0xF3 (.ext ⟨0, 0, 0, 0, 0, 0⟩)

/-- The phase counter is about to wrap in the third and fifth state. -/
theorem test_meets_BarriersComplete :
    (rdy 0x1C8 barWord W = true ∧ W.quiet = true ∧ W.g.wg = some 1 ∧ W.g.wait = .none ∧ (W.wgOf 1).broken = false ∧ W.cur ∉ (W.wgOf 1).arrived ∧
     (∀ m ∈ (W.wgOf 1).members, m ∈ (W.wgOf 1).arrived ∨ m = W.cur) ∧ W.cur ∈ (W.wgOf 1).members) ∧
    (let s := withW (fun w => { w with members := [1, 2], arrived := [2] })
     rdy 0x1C8 barWord s = true ∧ s.cur ∉ (s.wgOf 1).arrived ∧ (∀ m ∈ (s.wgOf 1).members, m ∈ (s.wgOf 1).arrived ∨ m = s.cur)) ∧
    (let s : State := (withW (fun w => { w with phase := 0 })).setG { W.g with wait := .barrier 0xFFFFFFFF }
     rdy 0x1C8 barWord s = true ∧ s.g.wg = some 1 ∧ s.g.wait = .barrier 0xFFFFFFFF ∧ phaseDone (s.wgOf 1).phase 0xFFFFFFFF = true) ∧
    phaseDone ((withW (fun w => { w with phase := 1 })).wgOf 1).phase (((withW (fun w => { w with phase := 1 })).g.sreg (opNum barWord.a)).setWidth 32) = true ∧
    (let s : State := withG (fun g => { g with wg := none, taskPhase := 0xFFFFFFFF })
     rdy 0x1C8 barWord s = true ∧ s.quiet = true ∧ s.g.wg = none) ∧
    (let s := withW (fun w => { w with broken := true })
     rdy 0x1C8 barWord s = true ∧ s.quiet = true ∧ s.g.wg = some 1 ∧ (s.wgOf 1).broken = true ∧ s.g.wait = .none) := by decide +kernel

def abarWord_ : Fields := { wordOf true 0xB4 0xB5 0xB6 0xFF (.extImm ⟨0, 0, 0, 0, 0, 0⟩ 0x7FFFFFFF) with mod := 1 }

/-- A window whose last granule is a live object: PENDING, EXPECT 2, PHASE all ones. -/
def abarred (pending : Byte) : State :=
  (withS [(6, 65520)]).setWg 1 { W.wgOf 1 with abars := [65520], vault := [(65520, 0), (65523, 8), (65524, pending), (65528, 2), (65532, 0xFF), (65533, 0xFF), (65534, 0xFF), (65535, 0xFF)] }

theorem test_meets_AbarInstructionsComplete :
    (let s := withS [(6, 65520)]
     rdy 0x1C9 abarWord_ s = true ∧ s.g.wg = some 1 ∧ abarWord_.mod = 1 ∧ s.g.uval abarWord_ 0xB6 % 2 ^ 32 = 65520 ∧ 65520 + 16 = (s.wgOf 1).size ∧
     s.g.uval abarWord_ abarWord_.c + 1 = 2 ^ 31 ∧ s.abarLive 1 65520 = false) ∧
    (∀ p ∈ [1, 2], let s := abarred (.ofNat 8 p)
     rdy 0x1C9 abarWord_ s = true ∧ s.abarLive 1 65520 = true ∧ s.abarBroken 1 65520 = false ∧ s.quiet = true ∧ s.g.wait = .none ∧
     s.abarWord 1 65520 1 = p ∧ s.abarWord 1 65520 2 = 2 ∧ s.abarWord 1 65520 3 + 1 = 2 ^ 32) ∧
    phaseDone ((abarred 1).abarPhase 1 65520) (((withS [(5, 0xFFFFFFFE), (6, 65520)]).g.sreg (opNum abarWord_.a)).setWidth 32) = true := by decide +kernel

def handleWord (n x : Nat) : Fields := wordOf true 0xB6 0xB4 0xF3 0xF3 (.ext ⟨.ofNat 8 n, 0, 0, 0, 0, .ofNat 8 x⟩)
def withHandle (st : Nat) : State := (withS [(4, 0x00010000 * 16)]).setWg 1 { W.wgOf 1 with handles := if st = 0 then [] else [(3, ⟨st, 0, 1⟩)] }

theorem test_meets_CountersAndHandlesComplete :
    (let f := wordOf true 0xF3 0xF3 0xF3 0xF3 (.ext ⟨0, 2, 0, 0, 0, 0⟩)
     rdy 0x1CA f W = true ∧ W.g.count f.ext.num2.toNat = f.ext.num1.toNat) ∧
    (let s := withHandle 0
     let f := handleWord 3 0
     let off := s.g.uval f f.a % 2 ^ 16
     let len := s.g.uval f f.a / 2 ^ 16 % 2 ^ 16
     rdy 0x1D2 f s = true ∧ s.g.wg = some 1 ∧ f.ext.num1.toNat + 1 = (s.wgOf 1).nHandles ∧ 1 ≤ len ∧ len ≤ 240 ∧ 4096 * (off + len) = (s.wgOf 1).size ∧
     ((s.wgOf 1).handle f.ext.num1.toNat).state = hFree) ∧
    (rdy 0x1D2 (handleWord 3 1) (withHandle 2) = true ∧ (((withHandle 2).wgOf 1).handle 3).state = hFull) ∧
    (rdy 0x1D3 (handleWord 3 0) (withHandle 1) = true ∧ (((withHandle 1).wgOf 1).handle 3).state = hFilling ∧ (withHandle 1).quiet = true) ∧
    (rdy 0x1D3 (handleWord 3 1) (withHandle 3) = true ∧ (((withHandle 3).wgOf 1).handle 3).state = hDraining ∧ (withHandle 3).quiet = true) ∧
    (rdy 0x1D4 (handleWord 3 2) (withHandle 2) = true ∧ (((withHandle 2).wgOf 1).handle 3).state = (handleWord 3 2).ext.xsub.toNat) ∧
    rdy 0x1D5 (handleWord 3 0) (withHandle 2) = true := by decide +kernel

def lockWord : Fields := wordOf true 2 0xF3 0xB6 0xF3 (.ext ⟨4, 0, 0, 0, 0, 12⟩)

/-- The last line of an object: free, held by this workgroup, held by another. -/
theorem test_meets_LineLocksComplete :
    let r := (withS [(6, 65535)]).reads 0x1D7 lockWord
    let key := lineKey (objKey 0 (r.lockAt lockWord).1.name) (r.lockAt lockWord).2.1
    ∀ held ∈ [0, 3, 9], let s : State := { withS [(6, 65535)] with locks := if held = 0 then [] else [(key, held)] }
      rdy 0x1D7 lockWord s = true ∧ rdy 0x1D8 lockWord s = true ∧ lockOwner s.g s.cur = 3 ∧ Cells.get 0 s.locks key = held ∧
      (∀ op ∈ [0x1D7, 0x1D8], let r := s.reads op lockWord
        (r.lockAt lockWord).2.2 = .ok ∧ r.portCheck s.g.ctx (r.lockAt lockWord).1 (r.lockAt lockWord).2.1 1 false = none ∧
        r.isPeer (.obj (r.lockAt lockWord).1) = false) ∧
      s.quiet = true ∧ (s.locks.filter (fun e => e.2 == 3)).length < lockMax ∧ s.locks.length < lockTable := by decide +kernel

/-! ### Engines -/

/-- A 64-byte image from its fields: offset and value. -/
def image (l : List (Nat × Nat)) : BitVec 512 := .ofNat 512 ((l.map (fun e => e.2 * 2 ^ (8 * e.1))).sum)
/-- Its eight s registers. -/
def inRegs (first : Nat) (i : BitVec 512) : List (Nat × DWord) := (List.range 8).map (fun k => (first + k, .ofNat 64 (i.toNat / 2 ^ (64 * k))))

/-- Layout entry: an object behind k3, elements of 32 bits, one dimension of 16. -/
def layoutImage : BitVec 512 := image [(12, 16), (16, 1), (20, 1), (24, 1), (28, 1), (48, 7), (56, 0x319)]
/-- A state with that layout entry. -/
def laidOut (s : State) : State := s.setLaunch 1 { s.launch 1 with lrec := { (s.launch 1).lrec with lcount := 1 }, layouts := [layoutImage] }

/-- A stream of 17 elements from 0 up: the last one lies outside the layout. -/
def streamImage : BitVec 512 := image [(20, 17), (22, 1), (24, 1), (26, 1), (28, 1), (30, 1)]
def strmsetWord : Fields := wordOf true 0xF3 0xB8 0xF3 0xF3 (.ext ⟨3, 0, 0, 0, 0, 0⟩)
def bound (active : Bool) (pos : Nat) : Stream := { Stream.free with bound := true, image := streamImage, active := active, pos := pos, remain := 17 - pos }

theorem test_meets_StreamInstructionsComplete :
    (let s := laidOut (withS (inRegs 8 streamImage))
     rdy 0x1CF strmsetWord s = true ∧ s.g.image strmsetWord.a = streamImage ∧ s.g.streamOk 3 streamImage = true ∧
     ((s.reads 0x1CF strmsetWord).layout (imgByte streamImage 39)).isSome = true ∧ (s.g.stream 3).bound = false ∧
     (s.reads 0x1CF strmsetWord).streamsOn s.g.core < streamRecords) ∧
    (let s := laidOut (withG (fun g => { g with streams := [(3, bound false 0)] }))
     let f := wordOf true 0xB4 0xF3 0xF3 0xF3 (.ext ⟨3, 0, 0, 0, 0, 0⟩)
     rdy 0x1D0 f s = true ∧ (s.g.stream 3).bound = true ∧ (s.g.stream 3).held = false ∧ (s.g.stream 3).active = false ∧ (s.g.stream 3).done = false ∧ s.quiet = true ∧ s.g.count 2 < 255) := by
  decide +kernel

/-- The last element inside the layout, and the one beyond it. -/
theorem test_meets_StreamReadsComplete : ∀ pos ∈ [15, 16],
    let s : State := laidOut (withG (fun g => { g with streams := [(3, bound true pos)], oq := [(0, List.replicate 62 (5, false))] }))
    let u : State := { s with cur := 1 }
    let st := (s.grp 1).stream 3
    (s.grp 1).status = .running ∧ st.bound = true ∧ st.active = true ∧ st.held = false ∧ st.done = false ∧ st.fault = none ∧ st.mode ≠ 1 ∧
    (u.layout (imgByte st.image 39)).isSome = true ∧ (Cells.get [] (s.grp 1).oq (st.queue 3)).length + 2 = queueDepth ∧
    (match u.layout (imgByte st.image 39) with
     | some l => (match u.readElem l (st.coordAt st.pos (toSigned 32 ((Cells.get [] (s.grp 1).oq (8 + imgByte st.image 42)).headD (0, false)).1.toNat)) with
         | .val x p => x == (if pos = 16 then 7 else 0) && p == false
         | _ => false)
     | none => false) = true := by decide +kernel

/-- Two rows of 64 bytes from k2 to the end of the own window. -/
def copyImage : BitVec 512 := image [(16, 65408), (24, 2), (26, 0x100), (28, 64), (32, 2), (36, 64), (40, 64), (48, 6), (50, 0xFFFF)]
def cpyWord : Fields := wordOf true 0xF3 0xB8 0xF3 0xF3 (.ext ⟨0, 0, 0, 0, 0, 0⟩)

theorem test_meets_CopiesAreAccepted : ∀ h ∈ [0xFFFF, 3],
    let i := .ofNat 512 (copyImage.toNat - (0xFFFF - h) * 2 ^ 400)
    let s := withS (inRegs 8 i)
    let r := s.reads 0x1D1 cpyWord
    rdy 0x1D1 cpyWord s = true ∧ s.g.image cpyWord.a = i ∧ imgBytes i 0 8 = 0 ∧ copyOk i = true ∧ imgBytes i 24 2 = 2 ∧ imgBytes i 26 2 = 0x100 ∧ s.g.wg = some 1 ∧
    r.copyCheck (s.g.kreg 2) none rRead (copySpan i false) = .ok ∧ r.copyCheck (s.g.kreg 0x100) (some 1) rWrite (copySpan i true) = .ok ∧
    copyHandle i = h ∧ (s.wgOf 1).nHandles = 4 ∧ s.quiet = true ∧ s.g.count 0 < 255 := by decide +kernel

/-! ### Register fragments -/

/-- Format slots: BF16, none, two of FP8, I8, three of FP4 with scales of each kind. -/
def slotsOf : List Word := [0x81, 0, 0x83, 0x84, 0x87, 0x50195, 0x501A5, 0x401B5]
def slotted (s : State) : State := s.setLaunch 1 { s.launch 1 with lrec := { (s.launch 1).lrec with slots := slotsOf } }

def mmaWord (ty : Ty) (fs fsb xsub : Nat) : Fields :=
  { wordOf false 16 0 8 16 (.ext ⟨32, 33, .ofNat 3 fs, .ofNat 3 fsb, 0, .ofNat 8 xsub⟩) with ty := ty }

/-- A fragment instruction that meets R139 here, and is ready. -/
def fragReady (op : Nat) (f : Fields) (slots : State → Fields → Chk) (xv xs : State → Fields → List Nat) (s : State) : Bool :=
  rdy op f s && s.g.fragPre (form op f) f (slots s f) (xv s f) (xs s f) == .ok

def fp8Slots (s : State) (f : Fields) : Chk :=
  (slotCheck (s.slot f.ext.fslot) [3, 4] 0 (slotSkind (s.slot f.ext.fslot) == 0)).and
    (slotCheck (s.slot f.ext.fslotb) [3, 4] 0 (slotSkind (s.slot f.ext.fslotb) == 0))
def fp4Slots (s : State) (f : Fields) : Chk :=
  Chk.all [slotCheck (s.slot f.ext.fslot) [5, 6] 0 (slotSkind (s.slot f.ext.fslot) != 0),
    slotCheck (s.slot f.ext.fslotb) [5, 6] 0 (slotSkind (s.slot f.ext.fslotb) != 0), Chk.when (isTensor s f == (f.ext.xsub == 0)) (.trap .illegal)]
def scaleRegs (_ : State) (f : Fields) : List Nat := [f.ext.num1.toNat, f.ext.num2.toNat]
def tensorReg (s : State) (f : Fields) : List Nat := if isTensor s f then [opNum f.ext.xsub] else []

/-- MMAQ with scales of one number, and with a tensor scale in s5. -/
theorem test_meets_FragmentMultiplicationsComplete :
    fragReady 0x180 (mmaWord .bf16 0 0 0) noSlots noRegs noRegs W = true ∧ fragReady 0x181 (mmaWord .f16 0 0 0) noSlots noRegs noRegs W = true ∧
    fragReady 0x182 (mmaWord .bf16 0 0 0) noSlots noRegs noRegs W = true ∧ fragReady 0x183 (mmaWord .i32 2 3 0) fp8Slots noRegs noRegs (slotted W) = true ∧
    fragReady 0x185 (mmaWord .i32 5 6 0) fp4Slots scaleRegs tensorReg (slotted W) = true ∧
    fragReady 0x185 (mmaWord .i32 7 6 0xB5) fp4Slots scaleRegs tensorReg (slotted W) = true := by decide +kernel

theorem test_meets_IntegerFragmentsComplete :
    fragReady 0x184 (mmaWord .i32 4 4 0) (fun s f => (slotCheck (s.slot f.ext.fslot) [7] 0 true).and (slotCheck (s.slot f.ext.fslotb) [7] 0 true))
      noRegs noRegs (slotted W) = true := by decide +kernel

/-- Accumulators of shape 16x16x16, at row 0 and column 8 of a layout of 16 columns and one row. -/
def ldfragWord : Fields := wordOf false 16 0xB4 0xB5 0xF3 (.ext ⟨0, 0, 0, 0, 0, 8⟩)
def stfragWord : Fields := wordOf false 0xF3 0xB4 0xB5 16 (.ext ⟨0, 0, 0, 0, 0, 8⟩)

theorem test_meets_FragmentMovesComplete :
    (∀ m ∈ [0, 1, 2], let f : Fields := { wordOf false 32 16 0xF3 0xF3 .none with ty := (if m = 2 then .b32 else .bf16), rnd := (if m = 2 then .dyn else .rne), mod := .ofNat 2 m }
      rdy 0x18A f W = true ∧ W.g.fragPre (form 0x18A f) f .ok [] [] = .ok) ∧
    (let s := laidOut (withS [(4, 8)])
     let f := ldfragWord
     let r := s.reads 0x188 f
     let q := fragOf f.ext.xsub.toNat (s.slot f.ext.fslot)
     let l := (r.layout f.ext.num1.toNat).getD (Layout.ofImage 0)
     let accs := r.fragAccs l f.ext.xsub.toNat (s.g.uval f f.a) (s.g.uval f f.b) q
     rdy 0x188 f s = true ∧ s.g.fragPre (form 0x188 f) f (s.fragSlot f) [] [] = .ok ∧ (r.layout f.ext.num1.toNat).isSome = true ∧ accs.length = 8 ∧
     r.layoutCheck l (r.layoutSpace l) rRead q.bytes false accs = .ok ∧ r.layoutSpace l = some (.obj (capOn dataName)) ∧
     r.isPeer (.obj (capOn dataName)) = false ∧ clean (r.loads (.obj (capOn dataName)) q.bytes false false accs) = true) ∧
    (let s := laidOut (withS [(4, 8)])
     let f := stfragWord
     let r := s.reads 0x189 f
     let x := f.ext.xsub.toNat
     let q := fragOf x (s.slot f.ext.fslot)
     let l := (r.layout f.ext.num1.toNat).getD (Layout.ofImage 0)
     let accs := r.fragAccs l x (s.g.uval f f.a) (s.g.uval f f.b) q
     readyB 0x189 f (form 0x189 f) true s = true ∧ s.g.fragPre (form 0x189 f) f (s.fragSlot f) [] [] = .ok ∧ (r.layout f.ext.num1.toNat).isSome = true ∧
     r.layoutSpace l = some (.obj (capOn dataName)) ∧ q.w ≠ 4 ∧ r.layoutCheck l (r.layoutSpace l) rWrite q.bytes false accs = .ok ∧
     issued (r.issueStores (.obj (capOn dataName)) ⟨false, false, false, s.g.entry⟩ q.bytes false
       (accs.map (fun (a : TAcc) => ⟨a.off, toLE q.bytes (element q.w (a.t / 32) (((s.rows 0x189 f).map Row.c).getD (a.t % 32) 0)), none,
         Cells.get false s.g.vPoison (32 * (f.c.toNat + a.t / 32 * q.w / 32) + a.t % 32)⟩))) = true) := by decide +kernel

def ldtWord : Fields := { wordOf false 6 0x02 0xB8 0xF3 (.ext ⟨0, 0, 0, 0, 0, 0⟩) with gnum := 2 }
def sttWord : Fields := { wordOf false 0xF3 0x02 0xB8 0x07 (.ext ⟨0, 0, 0, 0, 0, 3 <<< 5 ||| 3 <<< 2⟩) with gnum := 2 }

/-- v2 holds the thread's number: under p2 in thread 0 alone column 0 is read, under p2 in all threads those from 16 on lie beyond the layout. -/
theorem test_meets_LayoutAccessesComplete :
    (∀ p ∈ [1, 0xFFFFFFFF], let s := laidOut (withG (fun g => { g with p := [(2, .ofNat 32 p)], v := (List.range 31).map (fun t => (65 + t, .ofNat 32 (t + 1))) }))
     let f := ldtWord
     let l := (s.layout f.ext.num1.toNat).getD (Layout.ofImage 0)
     let fm : Form := { form 0x1C2 f with d := .dst [.v, .ix, .zero] 1 }
     let r := s.readsAs f fm
     let cs := (s.rowsAs f fm).map (fun x => (x.t, coords x.a (s.g.uval f f.b)))
     let accs := (cs.filter (fun c => l.inside c.2)).map (fun c => (⟨c.1, r.layoutOff l (l.addr c.2)⟩ : TAcc))
     readyB 0x1C2 f fm false s = true ∧ (s.layout f.ext.num1.toNat).isSome = true ∧ layoutPre (some l) f.d f f.ext.sx = .ok ∧
     r.layoutCheck l (r.layoutSpace l) rRead l.bytes (f.ext.ord != 0) accs = .ok ∧ r.layoutSpace l = some (.obj (capOn dataName)) ∧
     r.isPeer (.obj (capOn dataName)) = false ∧ clean (r.loads (.obj (capOn dataName)) l.bytes false false accs) = true) ∧
    (let s := laidOut (one [])
     let f := sttWord
     let l := (s.layout f.ext.num1.toNat).getD (Layout.ofImage 0)
     let fm : Form := { form 0x1C3 f with c := .gen f 1 }
     let r := s.readsAs f fm
     let cs := (s.rowsAs f fm).zipIdx.filter (fun e => l.inside (coords e.1.a (s.g.uval f f.b)))
     let offs := cs.map (fun e => r.layoutOff l (l.addr (coords e.1.a (s.g.uval f f.b))))
     readyB 0x1C3 f fm true s = true ∧ (s.layout f.ext.num1.toNat).isSome = true ∧ layoutPre (some l) f.c f false = .ok ∧ l.bits ≠ 4 ∧ f.ext.ord = 3 ∧ s.quiet = true ∧
     r.layoutCheck l (r.layoutSpace l) rWrite l.bytes (f.ext.ord != 0) ((cs.zip offs).map (fun e => (⟨e.1.1.t, e.2⟩ : TAcc))) = .ok ∧
     r.layoutSpace l = some (.obj (capOn dataName)) ∧
     issued (r.issueStores (.obj (capOn dataName)) ⟨false, false, false, s.g.entry⟩ l.bytes false
       ((cs.zip offs).map (fun e => ⟨e.2, toLE l.bytes e.1.1.c, none, s.g.dataPoison f fm (s.rowsAs f fm).length e.1.1.t e.1.2⟩))) = true) := by decide +kernel

/-! ### The tile engine -/

/-- A ring at the start of workgroup 1's window, with two tiles and these commands, and handles in these states. -/
def ringed (run : Option RunCmd) (cmds : List (BitVec 512)) (handles : List (Nat × Handle)) : Workgroup :=
  let r : Ring := ⟨0, 0, 16, 2, ScaleRegs.reset, ScaleRegs.reset, run, []⟩
  let w := { W.wgOf 1 with ring := some r, handles := handles }
  (cmds.zipIdx.foldl (fun w e => w.poke (256 + 64 * e.2) 64 e.1.toNat) w).poke 0 4 cmds.length

def withRing (run : Option RunCmd) (cmds : List (BitVec 512)) (handles : List (Nat × Handle)) : State := W.setWg 1 (ringed run cmds handles)

/-- Layout entry 0: BF16 elements of 16 columns and 16 rows in the window, from 0x8000 on. -/
def tileLayout : BitVec 512 := image [(0, 0x8000), (12, 16), (16, 16), (20, 1), (24, 1), (28, 1), (32, 32), (56, 0x52)]
def tiled (s : State) : State :=
  s.setLaunch 1 { s.launch 1 with lrec := { (s.launch 1).lrec with lcount := 1, slots := slotsOf }, layouts := [tileLayout] }

/-- C of 16 by 16 in tile 1, one chunk of BF16 operands in handles 0 and 1. -/
def mmaImage : BitVec 512 := image [(8, 1), (12, 1), (17, 0), (18, 1), (26, 1), (33, 1), (34, 1), (42, 1)]
def scaleImage : BitVec 512 := image [(8, 3), (16, 5), (32, 6)]
/-- Tile 1 of 16 by 16, stored as BF16 with rounding RNE. -/
def epiImage : BitVec 512 := image [(8, 9), (20, 0x21), (22, 0xFF)]
def ofKind (i : BitVec 512) (kind : Nat) : BitVec 512 := .ofNat 512 (i.toNat + kind + 2 ^ 32)

def cmdWord : Fields := wordOf true 0xF3 0xB8 0xF3 0xF3 .none
def withCmd (i : BitVec 512) : State := tiled ((withS (inRegs 8 i)).setWg 1 (ringed none (List.replicate 15 scaleImage) []))

/-- A ring with room for one command. -/
def appendable (op : Nat) (i : BitVec 512) : Bool :=
  let s := withCmd i
  match (s.wgOf 1).ring with
  | some r => rdy op cmdWord s && s.g.wg == some 1 && s.g.image cmdWord.a == i && (s.wgOf 1).backlog r + 1 == r.n && s.g.count 1 < 255 && s.quiet
  | none => false

def ringOf (s : State) : Ring := (s.wgOf 1).ring.getD ⟨0, 0, 0, 0, ScaleRegs.reset, ScaleRegs.reset, none, []⟩

theorem test_meets_TileCommandsAreAppended :
    (appendable 0x1A0 mmaImage = true ∧ ((withCmd mmaImage).reads 0x1A0 cmdWord).mmaCheck 1 (ringOf (withCmd mmaImage)) mmaImage = .ok) ∧
    (appendable 0x1A2 scaleImage = true ∧ imgBytes scaleImage 0 8 = 0 ∧ imgBytes scaleImage 8 1 < 4 ∧ imgBytes scaleImage 9 7 = 0 ∧
      imgBytes scaleImage 28 4 = 0 ∧ imgBytes scaleImage 44 20 = 0) ∧
    (appendable 0x1A5 epiImage = true ∧ ((withCmd epiImage).reads 0x1A5 cmdWord).epiCheck 1 (ringOf (withCmd epiImage)) epiImage = .ok) := by decide +kernel

def tcfgWord : Fields := wordOf true 2 0xB4 0xF3 0xF3 (.ext ⟨0, 0, 0, 0, 0, 0⟩)
def taccWord (d c : BitVec 8) : Fields := wordOf false d 0xB4 0xF3 c (.ext ⟨1, 0, 0, 0, 0, 0⟩)
def uni0 (x : BitVec 8) : Fields := wordOf true 0xB4 0xF3 0xF3 0xF3 (.ext ⟨0, 0, 0, 0, 0, x⟩)

/-- The largest ring and all tiles, claimed where the core has them and where the workgroup holds a ring already; the last place of a tile. -/
theorem test_meets_TileInstructionsComplete :
    (∀ held ∈ [false, true],
      let s := (withS [(4, .ofNat 64 (1024 * 2 ^ 32 + 4 * 2 ^ 48))]).setWg 1 { (if held then ringed none [] [] else W.wgOf 1) with size := 69632 }
      let a := s.g.uval tcfgWord tcfgWord.a
      let used := (s.reads 0x1A1 tcfgWord).ringsOn (s.wgOf 1).core
      rdy 0x1A1 tcfgWord s = true ∧ a / 2 ^ 51 = 0 ∧ bits a 50 48 = 4 ∧ bits a 47 32 = 1024 ∧ 1024 = 2 ^ Nat.log2 1024 ∧ a % 2 ^ 32 % 4096 = 0 ∧
      a % 2 ^ 32 + 256 + 64 * 1024 ≤ (s.wgOf 1).size ∧
      (decide ((s.wgOf 1).ring = none ∧ leastFree (used.map (fun e => e.2.number)) < maxRings ∧ (used.map (fun e => e.2.tiles)).sum + 4 ≤ maxTiles) = !held)) ∧
    (let s := withRing none [] []
     rdy 0x1A1 (uni0 1) s = true ∧ (s.wgOf 1).backlog (ringOf s) = 0 ∧ rdy 0x1A7 (uni0 0) s = true) ∧
    (let s := (withS [(4, .ofNat 64 (112 + 112 * 2 ^ 32))]).setWg 1 (ringed none [ofKind scaleImage 2] [])
     let a := s.g.uval (taccWord 16 0xF3) 0xB4
     s.g.wg = some 1 ∧ (s.wgOf 1).ring.isSome = true ∧ a % 2 ^ 32 = 112 ∧ a / 2 ^ 32 = 112 ∧ (ringOf s).tiles = 2 ∧ (s.wgOf 1).tileBusy (ringOf s) 1 = false ∧
     rdy 0x1A3 (taccWord 16 0xF3) s = true ∧ s.g.fragPre (form 0x1A3 (taccWord 16 0xF3)) (taccWord 16 0xF3) .ok [] [] = .ok ∧
     rdy 0x1A4 (taccWord 0xF3 16) s = true ∧ s.g.fragPre (form 0x1A4 (taccWord 0xF3 16)) (taccWord 0xF3 16) .ok [] [] = .ok) ∧
    (rdy 0x1A6 (uni0 0) W = true ∧ rdy 0x1A6 (uni0 0) (withRing none [] []) = true) := by decide +kernel

/-- A state whose engine serves ring 0 of workgroup 1, which stands on core 0 and is not saved. -/
def served (s : State) : Bool :=
  (s.wgOf 1).ring.isSome && (s.wgOf 1).live && !s.parked 1 && (s.core (s.wgOf 1).core).served == (ringOf s).number

def running (c : RunCmd) : State := tiled (withRing (some c) [ofKind mmaImage 1] [(0, ⟨hFull, 8, 1⟩), (1, ⟨hFull, 9, 1⟩)])

theorem test_meets_MmaStepsComplete :
    (let s := tiled (withRing none [ofKind mmaImage 1] [])
     served s = true ∧ (ringOf s).run = none ∧ (s.wgOf 1).backlog (ringOf s) = 1 ∧ cmdKind ((s.wgOf 1).command (ringOf s) 0) = 1) ∧
    (∀ x ∈ [(0, 0), (0, 2), (1, 0)], let c : RunCmd := ⟨0, 0, x.1 == 1, x.1 == 1, x.2, false, none⟩
     let s := running c
     let r := ringOf s
     let i := (s.wgOf 1).command r 0
     let h := slotHandles i c.oslot
     let kc := pairChunk (s.slotIn (s.wgOf 1).lid (cmdSlotA i)) (s.slotIn (s.wgOf 1).lid (cmdSlotB i))
     let wg := if c.holdA then s.wgOf 1 else (s.wgOf 1).moveBoth h hDraining
     let c1 : RunCmd := { c with holdA := true, holdB := true, status := if c.status = 0 ∧ s.needsCache wg i = true then 2 else c.status }
     served s = true ∧ r.run = some c ∧ cmdKind i = 1 ∧ (c.holdA = true ∨ (s.wgOf 1).bothIn h hFull = true) ∧
     1 ≤ 64 / kc ∧ (c.chdone + 1) % (aDesc i).ksl = 0 ∧
     (match chunksRun 1 i kc 1 (s.setWg 1 (wg.setRing { r with run := some c1 })) with
      | some v => (match (v.wgOf 1).ring with | some r2 => r2.run.isSome && (r2.run.map RunCmd.chdone) == some 1 && cmdKch i == 1 | none => false)
      | none => false) = true) ∧
    (let s : State := (tiled (withRing none [ofKind mmaImage 1] [])).setCore 0 { Core.blank with served := 16 }
     ¬ ((s.core 0).served < 16 ∧ (s.core 0).served ∈ s.readyRings 0) ∧ (ringOrder (s.core 0).served).find? (s.readyRings 0).contains = some 0) ∧
    (let s : State := (tiled (withRing none [ofKind mmaImage 1] [])).setCore 0 { Core.blank with served := 0 }
     (s.core 0).served < 16 ∧ (s.core 0).served ∈ s.readyRings 0) ∧
    (withRing none [] []).readyRings 0 = [] := by decide +kernel

theorem test_meets_OtherCommandsComplete :
    (∀ x ∈ [(epiImage, 3), (scaleImage, 2)], let s := tiled (withRing none [ofKind x.1 x.2] [])
     served s = true ∧ (ringOf s).run = none ∧ (s.wgOf 1).canStart (ringOf s) = true ∧ cmdKind ((s.wgOf 1).command (ringOf s) 0) = x.2) ∧
    (∀ st ∈ [0, 3], let c : RunCmd := ⟨1, 1, false, false, st, true, none⟩
     let s := running c
     (s.wgOf 1).ring.isSome = true ∧ (ringOf s).run = some c ∧ c.finished = true ∧ s.parked 1 = false ∧
     (statusCause c.status).isSome = (st == 3) ∧ (s.grp 1).status = .running) := by decide +kernel

/-! ### Conversion -/

def cvtWord (m fs ovf : Nat) : Fields :=
  { wordOf false 4 1 0xF3 (if m = 1 then 3 else 0xF3) (.ext ⟨0, if m = 0 then 6 else 0, .ofNat 3 fs, 0, .ofNat 2 ovf, 0⟩) with ty := .f32, rnd := .rne, mod := .ofNat 2 m }
def packWord (b c : BitVec 8) (fs ovf : Nat) : Fields :=
  { wordOf false 4 1 b c (.ext ⟨0, 0, .ofNat 3 fs, 0, .ofNat 2 ovf, 0⟩) with ty := .f32, rnd := .rne }

/-- Thread 0 alone converts; v1 holds 1.0, or the largest number of FP32. -/
def toConvert (v : Word) : State := slotted (withG (fun g => { g with cur := 1, v := [(32, v)], s := [(5, 0x3F800000)] }))

def cvtPre (s : State) (f : Fields) : Chk :=
  if f.mod = 0 then .ok else slotCheck (s.slot f.ext.fslot) cvtFmts f.ext.ovf.toNat (f.ext.xsub.toNat % 8 < perReg (slotFmt (s.slot f.ext.fslot)))
def cvtpkPre (s : State) (f : Fields) : Chk :=
  if f.mod = 0 then .ok else slotCheck (s.slot f.ext.fslot) cvtFmts f.ext.ovf.toNat (2 * (f.ext.xsub.toNat % 4) < perReg (slotFmt (s.slot f.ext.fslot)))
def qunpkPre (s : State) (f : Fields) : Chk :=
  slotCheck (s.slot f.ext.fslot) packFmts 0 (slotSkind (s.slot f.ext.fslot) != 0 && f.ext.xsub.toNat % 8 < perReg (slotFmt (s.slot f.ext.fslot)) &&
    (slotSkind (s.slot f.ext.fslot) == 3 || f.c == 0xF3))

/-- Every form's checks pass; under OVF 11 a conversion of 1.0 gives a result and one of the largest number none. -/
theorem test_meets_ConversionsComplete :
    let s := toConvert 0x3F800000
    (∀ m ∈ [0, 1, 2], rdy 0x0A0 (cvtWord m 2 0) s = true ∧ cvtPre s (cvtWord m 2 0) = .ok) ∧
    (∀ m ∈ [0, 1], rdy 0x0A1 (cvtWord m 2 0) s = true ∧ cvtpkPre s (cvtWord m 2 0) = .ok) ∧
    (∀ op ∈ [0x0A2, 0x0A4], rdy op (packWord 0xB5 0xF3 7 3) s = true ∧ packCheck (s.slot 7) (packWord 0xB5 0xF3 7 3) = .ok ∧
      rdy op (packWord 0xF3 0xF3 6 0) s = true ∧ packCheck (s.slot 6) (packWord 0xF3 0xF3 6 0) = .ok) ∧
    (rdy 0x0A3 (packWord 4 0xF3 6 0) s = true ∧ qunpkPre s (packWord 4 0xF3 6 0) = .ok ∧ rdy 0x0A3 (packWord 4 0xB5 7 0) s = true ∧
      qunpkPre s (packWord 4 0xB5 7 0) = .ok) ∧
    (∀ v ∈ [0x3F800000, 0x7F7FFFFF], let s := toConvert (.ofNat 32 v)
      let f := cvtWord 0 0 3
      rdy 0x0A0 f s = true ∧ (allSome ((s.rows 0x0A0 f).map (fun r => (r.t, s.g.convert (targetOfTy ((cvtTarget f).getD f.ty)) .rne 0 3 (s.g.valueOf f.ty r.a))))).isSome =
        (v == 0x3F800000)) := by decide +kernel

/-! ### Traps -/

/-- The launch gives every cause this disposition; the context has one save slot and a fault ring of 16 records in the object behind k3. -/
def trapping (d : Nat) : State :=
  let s := W.setLaunch 1 { W.launch 1 with lrec := { loadRecord with traps := .ofNat 128 ((List.range 64).map (fun i => d * 4 ^ i)).sum } }
  s.setCtx 0 { s.ctx 0 with saven := 1, fault := dataName, faultn := 16 }

theorem test_meets_TrapsAreTaken : W.g.status = .running ∧ rdy 0x146 (wordOf false 0xF3 0xF3 0xF3 0xF3 .none) W = true ∧
    rdy 0x14A (wordOf false 0xF3 0xFF 0xF3 0xF3 (.imm32 7)) W = true ∧ rdy 0x14A (wordOf true 0xF3 0xFF 0xF3 0xF3 (.imm32 7)) W = true ∧
    (let s := trapping 0
     s.g.status = .running ∧ (s.launch s.g.lid).lrec.disposition .illegal = 0 ∧ Cause.illegal ≠ .race ∧ s.slotOf s.cur = some 0 ∧ s.meetQ = [] ∧
     (match (trapCrumbed s .illegal).faultRecord s.g.ctx ⟨4, Cause.illegal.code, 0, s.g.seq, s.g.pc, 0, []⟩ with
      | .written s1 => !s1.pinGone s.g.ctx (s1.ctx s.g.ctx).save (coreImage * (s1.partCores s.g.ctx).length) true
      | _ => false) = true) ∧
    (∀ d ∈ [1, 2, 3], (trapping d).g.status = .running ∧ ((trapping d).launch (trapping d).g.lid).lrec.disposition .illegal = d) := by decide +kernel

/-! ### Tasks, pedigrees and keyed allocation -/

/-- `W` with the object behind k3 as record object, heap and log of context 0. -/
def tasked (s : State) : State := s.setCtx 0 { s.ctx 0 with trec := dataName, trecn := 4, heap := dataName }

def spawnWord : Fields := wordOf true 0xF3 0xB4 0xB5 0x00 (.ext ⟨0, 0, 0, 0, 0, 4⟩)
def bare (x : BitVec 8) : Fields := wordOf true x 0xB4 0xF3 0xF3 .none

/-- The deepest parent that may spawn, with its last index and the deque's last place. -/
theorem test_meets_TasksComplete :
    (let s := (tasked (withG (fun g => { g with pedIdx := 65534, pedDepth := 62, s := [(4, 0xFFFFFFFFFFFFFFFF), (5, 1)] }))).setCore 0
       { Core.blank with deque := List.replicate 255 0 }
     rdy 0x1E0 spawnWord s = true ∧ s.g.pedIdx ≠ 65535 ∧ s.g.pedDepth < 63 ∧ (s.g.pc + ofs24 spawnWord).toNat < (s.g.kreg 0).length ∧
     (s.core s.g.core).deque.length + 1 = dequeSize ∧ s.freeRecord s.g.ctx = some 0 ∧ s.quiet = true ∧
     (s.objRun (s.ctx s.g.ctx).trec (recordSize * 0) recordSize).isSome = true ∧ s.g.lid < 2 ^ 64 ∧ s.g.uval spawnWord spawnWord.a < 2 ^ 64) ∧
    (let s := withG (fun g => { g with pedBlk := 32766 })
     rdy 0x1E1 (bare 0xF3) s = true ∧ s.g.pedBlk ≠ 32767 ∧ (s.block s.g.block).closing = false ∧ (s.block s.g.block).noChild = true) ∧
    (let s := W.setBlock 1 { W.block 1 with closing := true, items := [] }
     rdy 0x1E1 (bare 0xF3) s = true ∧ (s.block s.g.block).closing = true ∧ (s.block s.g.block).items = []) ∧
    (rdy 0x1E2 (bare 0xF3) (withG (fun g => { g with wg := none })) = true ∧ (withG (fun g => { g with wg := none })).g.wg = none) := by decide +kernel

/-- The strand whose views a reducer updates is there, as `hasStrand` says. -/
def hasStrandB (s : State) : Bool :=
  match (s.block s.g.block).items, (s.block s.g.block).items.reverse with | .strand _ _ :: _, .strand _ _ :: _ => true | _, _ => false

theorem hasStrand_of {s : State} (h : hasStrandB s = true) : hasStrand s := by
  unfold hasStrandB at h
  split at h
  · next n v l n' v' l' h1 h2 => exact ⟨⟨n, v, l, h1⟩, n', v', l', h2⟩
  · cases h

def pedrdWord (m : Nat) : Fields := { wordOf true 0xB4 0xB5 0xF3 0xF3 .none with mod := .ofNat 2 m }
/-- A position of depth `depth`; s5 names element `d`. -/
def atDepth (depth d : Nat) : State := tasked (withG (fun g => { g with pedDepth := depth, recNo := 1, s := [(5, .ofNat 64 d)] }))

theorem test_meets_PedigreesComplete :
    (∀ m ∈ [0, 1], rdy 0x1E3 (pedrdWord m) W = true) ∧
    (∀ x ∈ [(3, 0), (3, 4), (3, 5)], let s := atDepth x.1 x.2
      rdy 0x1E3 (pedrdWord 2) s = true ∧ (let d := s.g.uval (pedrdWord 2) 0xB5 % 2 ^ 7; d = x.2 ∧ (d < 1 ∨ s.g.pedDepth < d))) ∧
    (∀ x ∈ [(3, 1), (3, 3)], let s := atDepth x.1 x.2
      let d := s.g.uval (pedrdWord 2) 0xB5 % 2 ^ 7
      rdy 0x1E3 (pedrdWord 2) s = true ∧ 1 ≤ d ∧ d ≤ s.g.pedDepth ∧ (s.objRun (s.ctx s.g.ctx).trec (recordSize * s.g.recNo + (32 + 4 * (d - 1))) 4).isSome = true) ∧
    (rdy 0x1E3 (pedrdWord 3) (atDepth 0 0) = true ∧ (atDepth 0 0).g.pedDepth = 0) ∧
    (let s := atDepth 1 0
     rdy 0x1E3 (pedrdWord 3) s = true ∧ s.g.pedDepth ≠ 0 ∧ (s.objRun (s.ctx s.g.ctx).trec (recordSize * s.g.recNo + 0) 8).isSome = true) ∧
    allReady taskWords W = true ∧ hasStrandB W = true ∧ (W.growView (W.viewKey logKey true) W.g.core 256).viewFault (W.viewKey logKey true).same = none := by
  decide +kernel

def allocoWord (m : Nat) : Fields := { wordOf true 5 0xB4 0xF3 1 .none with mod := .ofNat 2 m }
def freeoWord : Fields := wordOf true 5 0xF3 0xF3 0xF3 .none
def keyedName : DWord := 5

/-- The smallest object, and one that the heap has no place for; the last generation of an object. -/
theorem test_meets_KeyedAllocationComplete :
    (∀ x ∈ [(16, true), (65536, true), (65552, false)], let s := tasked (withG (fun g => { g with s := [(4, .ofNat 64 x.1)], pedKey := 4 }))
      let f := allocoWord 1
      let size := s.g.uval f f.a
      let len := (roundLength size).1
      let name : DWord := .ofNat 64 ((s.g.pedKey + (s.launch s.g.lid).lrec.delta * (s.g.allocs + 1)) % Config.p)
      rdy 0x1E6 f s = true ∧ size = x.1 ∧ size % 16 = 0 ∧ 16 ≤ size ∧ size ≤ 2 ^ 40 ∧ (s.obj (objKey s.g.ctx name)).live = false ∧
      (s.obj (objKey s.g.ctx name)).retired = false ∧
      (match s.heapPlace s.g.ctx len with
       | some va => x.2 && (match (s.reads 0x1E6 f).zeroVirt s.g.ctx (len / 65536 + 1) va len with | .ok _ => true | _ => false)
       | none => !x.2) = true) ∧
    (let c := Cap.make keyedName 255 3 0 0 0
     let s := (withG (fun g => { g with k := [(0, loadCap), (5, c)] })).setObj (objKey 0 keyedName) { ObjEntry.absent with live := true, vbase := 0x10000, extent := 16, gen := 255 }
     rdy 0x1E7 freeoWord s = true ∧ s.g.kreg 5 = c ∧ Cells.get false s.g.miscPoison (miscKey 3 5) = false ∧ c.tag = true ∧ c.has rWrite = true ∧
     c.name.toNat < 2 ^ 61 ∧ (s.obj (objKey s.g.ctx c.name)).live = true ∧ (s.obj (objKey s.g.ctx c.name)).gen = c.gen ∧ s.quiet = true) := by decide +kernel

/-- Reducers of the four kinds: a sum of FP32, the least of I32, the last of two places of OR, an append. -/
def reduced (s : State) : State := s.setLaunch 1 { s.launch 1 with lrec := { (s.launch 1).lrec with reds := [1, 0x22, 0x100000053, 0x12] } }
def rviewWord (n x : Nat) : Fields := wordOf true 0xB4 0xF3 0xB5 0xF3 (.ext ⟨.ofNat 8 n, 0, 0, 0, 0, .ofNat 8 x⟩)
def raccWord (n : Nat) (ty : Ty) (c : BitVec 8) : Fields := { wordOf false 4 4 0xF3 c (.ext ⟨.ofNat 8 n, 0, 0, 0, 0, 0⟩) with ty := ty }

theorem test_meets_ReducersComplete :
    (∀ x ∈ [(0, 0, 0), (0, 1, 0), (1, 2, 0), (2, 3, 1), (3, 4, 0)], let s := reduced (withS [(5, .ofNat 64 x.2.2)])
      let f := rviewWord x.1 x.2.1
      let d := s.reducer f.ext.num1.toNat
      let i := s.g.uval f f.b % 2 ^ 32
      rdy 0x1EA f s = true ∧ redKind d ≠ 0 ∧ ((s.viewOf f.ext.num1.toNat d).read d (f.ext.xsub.toNat % 8) i (rndCode s.g.rred)).isSome = true ∧ i + 1 = redCount d ∧
      (s.reads 0x1EA f).viewFault ((s.reads 0x1EA f).viewKey f.ext.num1.toNat (redKind d == 2)).same = none) ∧
    (∀ x ∈ [(0, Ty.f32, 0xF3), (1, .i32, 6), (2, .b64, 0xF3)], let s := reduced W
      let f := raccWord x.1 x.2.1 (.ofNat 8 x.2.2)
      let d := s.reducer f.ext.num1.toNat
      rdy 0x1EB f s = true ∧ hasStrandB s = true ∧ redKind d ≠ 0 ∧ isAppend d = false ∧ f.ty = redTy d ∧ (redKind d = 2 ∨ f.c = 0xF3) ∧
      (s.rows 0x1EB f).all (fun r => decide (r.b < redCount d)) = true ∧
      ((s.reads 0x1EB f).growView ((s.reads 0x1EB f).viewKey f.ext.num1.toNat (redKind d == 2)) s.g.core 48).viewFault
        ((s.reads 0x1EB f).viewKey f.ext.num1.toNat (redKind d == 2)).same = none) ∧
    (let s := reduced W
     let f : Fields := { raccWord 3 .b64 0xF3 with d := 0xF3 }
     rdy 0x1EC f s = true ∧ hasStrandB s = true ∧ isAppend (s.reducer f.ext.num1.toNat) = true) ∧
    (∀ e ∈ [Member.strand 0 [], .child 0 true []], let s := W.setBlock 1 { W.block 1 with closing := true, items := [e, .strand 1 []] }
      let b := s.block 1
      b.live = true ∧ b.closing = true ∧ b.items = [e, .strand 1 []] ∧ (match e with | .strand _ _ => true | .child _ ended _ => ended) = true ∧
      ((s.viewCrumbs (s.grp b.gid).core (e.owns b)).growAll b (s.grp b.gid).core).viewFault
        (fun v => e.owns b v || (v.lid == b.lid && v.recNo == b.recNo && v.strand == 0)) = none) := by decide +kernel

def ovfName : DWord := .ofNat 64 (2 ^ 63 + 8)

/-- The pool of core 0 is full: views go to an object whose page is not mapped. -/
def overflowing : State :=
  let s := (reduced W).setCtx 0 { W.ctx 0 with viewovf := ovfName }
  { s with objs := Cells.put s.objs ovfName.toNat { ObjEntry.absent with live := true, vbase := 0x90000, extent := 2 ^ 20 }
           viewSpaces := [⟨0, 1, 9, 0, 0, 0, 0, 65536⟩] }

theorem test_viewFault : let s := overflowing
    let key := s.viewKey 1 false
    (s.growView key s.g.core 64).viewFault key.same = some 0x90000 := by decide +kernel

/-! ### Collectives and meetings -/

/-- Bytes of the object behind k2, k3 and k6, from an offset on. -/
def withBytes (s : State) (off : Nat) (l : List Byte) : State :=
  { s with mem := Cells.setAll memDefault s.mem (l.zipIdx.map (fun e => (0x50000 + off + e.2, e.1))) }

/-- Context 0 may use collectives; tile 0 is one page; the object behind k3 is a communicator of one rank, of this device. -/
def collective (s : State) : State :=
  let s := s.setLaunch 1 { s.launch 1 with lrec := { (s.launch 1).lrec with tiles := [1] } }
  withBytes (s.setCtx 0 { s.ctx 0 with colln := 1 }) 0 [1]

/-- All-reduce of 1024 numbers of FP32, TAG 7, and a merge of 256 rows of two values; the status granules end the window. -/
def collImage : BitVec 512 := image [(0, 3), (12, 65504), (32, 1024), (36, 7)]
def amImage : BitVec 512 := image [(0, 3), (8, 2), (12, 65504), (32, 256), (36, 7)]

def amWord_ : Fields := wordOf true 0xF3 0xB8 0xF3 0xF3 .none

theorem test_meets_CollectivesComplete :
    (∀ am ∈ [false, true], let op := if am then 0x1F2 else 0x1F0
      let i := if am then amImage else collImage
      let s := collective (withS (inRegs 8 i))
      let r := s.reads op amWord_
      let c := s.g.kreg (cdCcap i)
      rdy op amWord_ s = true ∧ s.g.wg = some 1 ∧ s.g.image amWord_.a = i ∧ r.collCheck am i = .ok ∧ s.quiet = true ∧ s.g.count 3 < 255 ∧ s.g.collShare = [] ∧
      s.colls = [] ∧ cdRank i < 1 ∧
      (match r.loads (.obj c) 64 false false [⟨0, 0⟩], r.loads (.obj c) 4 false false [⟨0, 64 + 4 * cdRank i⟩] with
       | .ok [(0, some l)] [], .ok [(0, some m)] [] =>
         leNat ((l.take 4).map (fun x => (r.ownByte x).1)) == 1 && l.all (fun x => !(r.ownByte x).2) && r.collRunCheck am i 1 ((r.loadNat m).1 % 256) == .ok
       | _, _ => false) = true) ∧
    rdy 0x1F1 (wordOf true 0xB4 0xB6 0xF3 0xF3 .none) W = true := by decide +kernel

/-- The image of one number. -/
def oneImage : BitVec 512 := image [(0, 3), (12, 65504), (32, 1), (36, 7)]
def member (mismatch : Bool) (source : Option (List Byte)) : CollMember :=
  { rank := 0, amerge := false, image := oneImage, ctx := 0, wg := some 1, packet := none, lid := 1, gids := [(1, 0)], data := Cap.null, mismatch := mismatch, source := source, poison := [], done := false, paused := none, pc := 0, seq := 0 }
def instanceOf (m : CollMember) (status : Option Nat) : State :=
  (collective W).setColl 4 { CollInst.blank with live := true, comm := dataName, tag := 7, members := [m], nmem := 1, status := status }

theorem test_meets_CollectiveStepsComplete :
    (∀ b ∈ [false, true], let m := member b none
      let s := instanceOf m none
      let c := s.coll 4
      c.live = true ∧ c.status = none ∧ s.collRuns c = true ∧ s.collArrived m = true ∧ s.reachable (s.rankDevice c.comm 0) = true ∧ c.remote = [] ∧
      c.members.length + c.remote.length = c.nmem ∧ (startStatus c false = if b then 1 else 0) ∧ m.source = none ∧ m.attached = false ∧
      (match s.collSource c.nmem m with | .ok _ => true | _ => false) = true) ∧
    (let m := member false (some [0, 0, 128, 63])
     let s := instanceOf m (some 0)
     let c := s.coll 4
     c.live = true ∧ c.status = some 0 ∧ c.members = [m] ∧ m.done = false ∧ m.wg = some 1 ∧ m.packet = none ∧ s.collRuns c = true ∧ s.collArrived m = true ∧
     m.source.isSome = true ∧ c.remote = [] ∧ (match c.contribs with | some cs => cs.all (fun x => x.poison.isEmpty) | none => false) = true ∧
     (s.wgOf 1).live = true ∧ (s.wgOf 1).killed = false ∧ (s.wgOf 1).members ≠ [] ∧
     (List.range 16).all (fun j => !(s.wgOf 1).held (cdAbofs m.image + 16 + j)) = true ∧
     (match s.collDst m c.nmem with | .ok l => (s.collWrite m c l).isSome | _ => false) = true) := by decide +kernel

def meetWord_ (op : BitVec 8) : Fields := { wordOf true 0xB4 0xB6 0xB7 0xB8 (.ext ⟨2, 6, 0, 0, 0, 0⟩) with mod := op.setWidth 2 }

/-- The object behind k2 is a live meeting of two members, both of this device, with K = 2, in round 5; round 4 is over. A member contributes no word. -/
def meeting (s : State) : State :=
  let s := withBytes s 0 [2, 0, 2, 0, 0, 1, 0, 0, 0, 0, 0, 0, 5]
  (withBytes s 1024 [4, 0, 0, 0, 1]).setMeeting (objKey 0 dataName) { Meeting.blank with live := true }

/-- A request of group 1 in the queue. -/
def asking (op rank tag : Nat) : State × MeetWait :=
  let m : MeetWait := { req := ⟨dataName, op, rank, tag, [], 0⟩, cap := capOn dataName, gid := 1, dst := 4, pc := 0, seq := 0, copyTo := capOn dataName, copyOfs := 65440, copyLen := 96, packet := none, ctx := 0, ret := 0, held := false, paused := none, skip := false }
  ({ meeting W with meetQ := [m] }, m)

/-- The hypotheses of `Askable` for the only request of the queue. -/
def askable (x : State × MeetWait) : Bool :=
  let s := x.1
  let m := x.2
  s.meetQ[0]? == some m && m.paused.isNone && (s.portCheck m.ctx m.cap 0 0 false).isNone && s.reachable (s.obj (objKey m.ctx m.req.obj)).home &&
    (s.obj (objKey m.ctx m.req.obj)).home == s.devnum && (s.mtFault (objKey m.ctx m.req.obj) m.req none).isNone && !s.logging m.ctx &&
    (s.grp m.gid).status == .running && !m.skip && !s.onHold (s.obj (objKey m.ctx m.req.obj)).home

theorem askable_of {x : State × MeetWait} (h : askable x = true) : Askable x.1 0 x.2 := by
  obtain ⟨s, m⟩ := x
  simp only [askable, Bool.and_eq_true, beq_iff_eq, Option.isNone_iff_eq_none, Bool.not_eq_true'] at h
  obtain ⟨⟨⟨⟨⟨⟨⟨⟨⟨h1, h2⟩, h3⟩, h4⟩, h5⟩, h6⟩, h7⟩, h8⟩, h9⟩, h10⟩ := h
  exact ⟨h1, h2, .inr rfl, h3, h4, h5, h6, h7, by rw [h8]; decide, h9, h10⟩

theorem test_meets_MeetingsComplete :
    (let s := withS [(6, 5), (7, 65532), (8, 1)]
     let f := meetWord_ 0
     let r := s.reads 0x1F3 f
     rdy 0x1F3 f s = true ∧ s.quiet = true ∧ r.replayRoom s.g.ctx = true ∧ (s.g.kreg 2).check [rRead, rWrite] = .ok ∧ (s.g.kreg 6).check [rRead] = .ok ∧ s.g.uval f f.c = 1 ∧
     s.g.uval f f.b % 4 = 0 ∧ (s.g.kreg 6).covers (s.g.uval f f.b) (4 * s.g.uval f f.c) = true ∧
     (match r.loads (.obj (s.g.kreg 6)) 4 false false [⟨0, s.g.uval f f.b⟩] with | .ok [(0, some l)] [] => l.all (fun x => !(r.ownByte x).2) | _ => false) = true) ∧
    (∀ m ∈ [0, 1], let s := withS [(6, 5), (7, 65440), (8, 96)]
      let f := meetWord_ (.ofNat 8 m)
      rdy 0x1F4 f s = true ∧ (s.reads 0x1F4 f).replayRoom s.g.ctx = true ∧ (s.g.kreg 2).check [rRead, rWrite] = .ok ∧ (s.g.kreg 6).check [rWrite] = .ok ∧ s.g.uval f f.c = 96 ∧ s.g.uval f f.b % 16 = 0 ∧
      (s.g.kreg 6).covers (s.g.uval f f.b) (s.g.uval f f.c) = true) ∧
    (rdy 0x1F5 (meetWord_ 0) W = true ∧ (W.reads 0x1F5 (meetWord_ 0)).replayRoom W.g.ctx = true) ∧
    (askable (asking 0 1 5) = true ∧ ((asking 0 1 5).1.contribute (objKey 0 dataName) 1 5 0 [] none).isSome = true) ∧
    askable (asking 1 1 0) = true ∧
    (∀ op ∈ [2, 3], ∀ c ∈ [(4, 0), (5, 6), (2, 7)], askable (asking op 0 c.1) = true ∧ (asking op 0 c.1).1.roundCode (objKey 0 dataName) c.1 = c.2) ∧
    (let s := (asking 2 0 4).1
     let m := (asking 2 0 4).2
     let b := s.roundBytes (objKey m.ctx m.req.obj) m.req.tag m.copyLen
     (match s.engineRun m.ctx m.copyTo none true (b.length / 65536 + 1) m.copyOfs b.length with
      | .ok l => (match s.engineWrite m.copyTo l b (s.grp m.gid).entry m.gid m.ctx (s.grp m.gid).lid (s.grp m.gid).core m.pc m.seq with
         | some u => (u.grp m.gid).status == .running && !u.logging m.ctx && !l.any (fun x => s.held x.2)
         | none => false)
      | _ => false) = true) ∧
    (let s : State := { meeting W with routes := [(3, 1)] }
     let key := s.meetKey dataName
     (3 : Nat) ≠ s.devnum ∧ s.reachable 3 = true ∧ (s.obj key).live = true ∧ (s.obj key).home = s.devnum ∧
     (∀ op ∈ [0, 1, 2], s.mtFault key ⟨dataName, op, 1, 5, [], 3⟩ none = none) ∧
     (s.contribute key 1 5 3 [] none).isSome = true ∧ (∀ c ∈ [(4, 0), (5, 6), (2, 7)], s.roundCode key c.1 = c.2)) := by decide +kernel

/-! ### Launches, packets and placement -/

def meetName : DWord := .ofNat 64 (2 ^ 63 + 4)

/-- The bytes of numbers in physical memory: address, bytes, value. -/
def cellsOf (l : List (Nat × Nat × Nat)) : List (Nat × Byte) :=
  (l.flatMap (fun e => (toLE e.2.1 e.2.2).zipIdx.map (fun b => (e.1 + b.2, b.1)))).filter (fun e => e.2 != 0)
/-- Numbers in physical memory; a zero byte is not written. -/
def withMem (s : State) (l : List (Nat × Nat × Nat)) : State := { s with mem := (cellsOf l).foldl (fun m e => Cells.put m e.1 e.2) s.mem }

/-- Context 0 has queue 0, whose descriptor begins the object behind k2: 16 slots, index 7 is the next packet, completions and capabilities in the
object behind k4; capability 0 is on the ring's object, 1 on a third object, 2 on the code. `packet` is in the slot, published. -/
def queued (copy : Nat) (packet : List (Nat × Nat)) (more : List (Nat × Nat × Nat)) : State :=
  let cap (n : Nat) (c : Cap) : Nat × Nat × Nat := (0x60000 + 16 * n, 16, c.image.toNat)
  let s := withMem W ([(0x30018, 8, 0x70013), (0x50000, 8, 8), (0x50008, 8, 7), (0x50010, 8, 7), (0x50018, 8, dataName.toNat), (0x50020, 8, arrName.toNat),
    (0x50028, 2, 4), (0x5002A, 1, copy), (0x50030, 8, arrName.toNat), (0x50038, 4, 3), (0x50000 + 448, 64, (image ((4, 8) :: packet)).toNat),
    cap 0 (capOn dataName), cap 1 (capOn meetName), cap 2 loadCap] ++ more)
  { s.setCtx 0 { s.ctx 0 with qn := 1, qtab := dataName, colln := 1 } with
    tags := [(0x6000, true), (0x6001, true), (0x6002, true)]
    objs := Cells.put s.objs meetName.toNat { ObjEntry.absent with live := true, vbase := 0x30000, extent := 65536 } }

/-- A launch record at offset 4096 of the ring's object: one group, no reducer, `n` capabilities. -/
def recordOf (n : Nat) : List (Nat × Nat × Nat) := [(0x51004, 2, 2), (0x51007, 1, n), (0x5100D, 1, 1), (0x51032, 1, 255), (0x51034, 1, 255)]

/-- A meeting of one member of this device, RN 2, of one number, not yet begun, in the third object. -/
def meetHeader : List (Nat × Nat × Nat) := [(0x70000, 2, 1), (0x70002, 2, 1), (0x70005, 1, 1), (0x70008, 4, 1), (0x70010, 4, 0x3F800000)]

/-- What `Starts` says of the next packet of queue 0, and the state, packet and descriptor it names. -/
def startsB (s : State) (type : Nat) : Bool :=
  match s.nextPacket 0 0, s.queue 0 0 with
  | some (p, u), some d => u.canStart p && pktType p.image == type && pktOk p.image d
  | _, _ => false
def begun (s : State) : State × Packet × Queue :=
  match s.nextPacket 0 0, s.queue 0 0 with
  | some (p, u), some d => (u.packetStart p, p, d)
  | _, _ => (s, ⟨0, 0, 0, 0, false, none⟩, Queue.ofImage 0)

theorem starts_of {s : State} {type : Nat} (h : startsB s type = true) : Starts s (begun s).1 0 0 type (begun s).2.1 (begun s).2.2 := by
  unfold startsB at h
  unfold begun
  split at h
  · next p u d hp hd =>
    simp only [Bool.and_eq_true, beq_iff_eq] at h
    exact ⟨⟨u, hp, h.1.1, rfl⟩, hd, h.1.2, h.2⟩
  · cases h

def launchWord : Fields := wordOf true 0xB4 0xB8 0xF3 0xF3 (.ext ⟨2, 0, 0, 0, 0, 0⟩)
def nopImage : BitVec 512 := image [(0, 0)]

/-- The image of a LAUNCH that is executed, at a queue with room, and at a full one. -/
def launching (widx : Nat) : State :=
  let q := queued 0 [] [(0x50000, 8, widx)]
  q.setG { q.g with s := inRegs 8 nopImage }

def postWord (m : Nat) : Fields := { wordOf true 0xF3 0xB4 0xF3 0xF3 .none with mod := .ofNat 2 m }

theorem test_meets_LaunchesComplete :
    (∀ x ∈ [(22, false), (23, true)], let s := launching x.1
      let f := launchWord
      let r := s.reads 0x1F6 f
      let c := s.g.kreg 2
      rdy 0x1F6 f s = true ∧ s.g.image f.a = nopImage ∧ f.ext.num1 = 2 ∧ imgBytes nopImage 4 4 = 0 ∧
      r.accCheck (some (.obj c)) [rRead, rWrite] 64 false [⟨0, c.start⟩] = .ok ∧ s.quiet = true ∧ r.isPeer (.obj c) = false ∧
      (match r.loads (.obj c) 64 false true [⟨0, c.start⟩] with
       | .ok [(0, some l)] [] =>
         let d := Queue.ofImage (.ofNat 512 (r.readNat l))
         !r.ownPending [(0, some l)] && l.all (fun y => !r.poisonAt y) && decide (d.slots ≤ d.widx - d.ridx) == x.2 && (r.obj d.ring.toNat).live &&
           decide (64 * d.slots ≤ (r.obj d.ring.toNat).extent) && (x.2 || (match r.publish c c.start l d nopImage with | some u => u.g.status == .running | none => false))
       | _ => false) = true) ∧
    (∀ m ∈ [0, 1, 2], let s := (withS [(4, 5)]).setLaunch 1 { W.launch 1 with lrec := { loadRecord with rescap := 0, resofs := 65528 }, caps := [capOn dataName] }
      let f := postWord m
      let r := s.reads 0x1F7 f
      let l := s.launch s.g.lid
      let c := l.caps.getD l.lrec.rescap Cap.null
      rdy 0x1F7 f s = true ∧ l.lrec.rescap ≠ 255 ∧ r.accCheck (some (.obj c)) [rWrite] 8 true [⟨0, l.lrec.resofs⟩] = .ok ∧ s.quiet = true ∧
      issued (r.issueStores (.obj c) ⟨false, false, true, s.g.entry⟩ 8 false
        [⟨l.lrec.resofs, [], some (if f.mod = 0 then 2 else if f.mod = 1 then 4 else 0, .n64, s.g.uval f f.a), false⟩]) = true) ∧
    (allReady [(64, 0, .evmark (wordOf true 0xF3 0xB4 0xB5 0xF3 .none))] W = true) ∧
    (∀ killed ∈ [false, true], let q := queued 0 [] []
      let s : State := { q with groups := [], blocks := [], launches := [(1, { q.launch 1 with killed := killed, index := 7 })] }
      let l := s.launch 1
      l.live = true ∧ s.launchBusy 1 = false ∧ s.attachedBusy 1 = false ∧ l.killed = killed ∧ l.nWg ≤ l.nextWg ∧ (s.ctx l.ctx).state = .running ∧
      ((s.writeReducers l l.views (List.range 16)).bind (fun s1 => (s1.appendLog l.ctx []).bind (fun s2 => (s2.freeLaunch 1).launchStatus l 1 stOk))).isSome = true ∧
      ((s.freeLaunch 1).launchStatus l 1 stKilled).isSome = true) := by decide +kernel

/-- A COPY of 16 bytes between the ends of the ring's object; one core of the die is live. -/
def copyPacketState : State :=
  { queued 1 [(0, 2), (8, 65488), (16, 65504), (28, 16), (32, 1), (36, 16), (40, 16), (48, 4), (50, 0xFFFF)] [] with fusedOff := (List.range 319).map (· + 1) }

def depended (failed : Bool) : State :=
  let q := queued 0 [] [(0x50010, 8, 7)]
  { q with packets := [⟨0, 0, 7, image [(0, 3), (1, 2), (8, 1), (20, 6)], true, none⟩], failed := if failed then [(0, 0, 6)] else [] }

/-- A graph at node `n`: node 0 ends it, node 1 goes on to node 0. -/
def graphed (n : Nat) (result : Option Nat) : State :=
  { queued 0 [] (recordOf 1 ++ [(0x52000, 8, 4096), (0x5200C, 2, 0xFFFF), (0x52040, 8, 4096)]) with
    graphs := [{ ctx := 0, queue := 0, index := 7, gcap := capOn dataName, gofs := 8192, node := n, steps := 0, maxsteps := 5, lid := 0, result := result }] }

/-- A COLL packet of one number; the third object is the communicator. -/
def collPacketState : State :=
  queued 0 [(0, 5), (8, 4096)] [(0x70000, 1, 1), (0x51000, 64, (image [(0, 1), (10, 1), (32, 1), (36, 7)]).toNat)]

def meetPacketState (opc : Nat) : State :=
  let q := queued 0 [(0, 6), (8, opc), (10, 1), (24, 65532)] meetHeader
  if opc = 0 then q else q.setMeeting (objKey 0 meetName) { Meeting.blank with live := true }

/-- What `Meets` says. -/
def meetsB (s : State) (opc : Nat) : Bool :=
  let s1 := (begun s).1
  startsB s 6 && mpOpc (begun s).2.1.image == opc && decide (opc < 4) && !s1.onHold (s1.obj (objKey 0 meetName)).home &&
    (match (s1.queueCap (begun s).2.2 (imgBytes (begun s).2.1.image 10 2)).bind (s1.mpKey 0) with | some key => key == objKey 0 meetName | none => false)
theorem meets_of {s : State} {opc : Nat} (h : meetsB s opc = true) : Meets s (begun s).1 0 0 opc (begun s).2.1 (begun s).2.2 (objKey 0 meetName) := by
  simp only [meetsB, Bool.and_eq_true, beq_iff_eq, decide_eq_true_eq, Bool.not_eq_true'] at h
  obtain ⟨⟨⟨⟨h1, h2⟩, h3⟩, h5⟩, h4⟩ := h
  split at h4
  · next key hk =>
    obtain ⟨c, hc, hk⟩ := Option.bind_eq_some_iff.1 hk
    obtain rfl := eq_of_beq h4
    exact ⟨starts_of h1, h2, h3, ⟨c, hc, hk⟩, h5⟩
  · cases h4

theorem test_meets_PacketsComplete_nop :
    (let s := queued 0 [(0, 0)] []
     startsB s 0 = true ∧ ((begun s).1.packetDone 0 0 (begun s).2.1.index 0 0).isSome = true) := by decide +kernel

/-- A LAUNCH packet starts with a record of one capability; `cap` names the record, and this is the status and DETAIL that rejects it. -/
def launchStarts (cap : Nat) (bad : Option (Nat × Nat)) : Bool :=
  let s := queued 0 [(0, 1), (8, 4096), (16, cap)] (recordOf 1)
  let x := begun s
  startsB s 1 && imgBytes x.2.1.image 8 8 % 64 == 0 &&
    (match x.1.startTurn 0 0 x.2.1.index false x.2.2 (imgBytes x.2.1.image 16 2) (imgBytes x.2.1.image 8 8) with
     | .started _ _ => bad.isNone
     | .reject st det => bad == some (st, det) && (x.1.packetDone 0 0 x.2.1.index st det).isSome
     | .wait => false)

theorem test_meets_PacketsComplete_launch : launchStarts 0 none = true := by decide +kernel
theorem test_meets_PacketsComplete_reject : launchStarts 3 (some (9, 0)) = true := by decide +kernel

theorem test_meets_PacketsComplete_copy :
    (let s := copyPacketState
     let x := begun s
     startsB s 2 = true ∧ copyHandle x.2.1.image = 0xFFFF ∧ imgBytes x.2.1.image 52 4 = 0 ∧ imgBytes x.2.1.image 48 2 < 16 ∧ imgBytes x.2.1.image 44 4 < 2 ^ 16 ∧
     copyOk x.2.1.image = true ∧
     (match x.1.queueCap x.2.2 (imgBytes x.2.1.image 24 2), x.1.queueCap x.2.2 (imgBytes x.2.1.image 26 2) with
      | some sc, some dc => x.1.copyCheck sc none rRead (copySpan x.2.1.image false) == .ok && x.1.copyCheck dc none rWrite (copySpan x.2.1.image true) == .ok
      | _, _ => false) = true ∧ x.1.dieCores x.2.2.die = [0]) := by decide +kernel

theorem test_meets_PacketsComplete_depend :
    (let s := queued 0 [(0, 3), (8, 6)] []
     startsB s 3 = true ∧ imgBytes (begun s).2.1.image 8 1 ≤ 6) ∧
    (∀ b ∈ [false, true], let s := depended b
      (s.ctx 0).state = .running ∧
      (match (s.packetsOf 0 0).find? (fun p => pktType p.image == 3 && p.started && p.done.isNone) with
       | some p => pktStop p.image && (deps p.image).length == 1 && (deps p.image).all (fun x => match s.queue 0 x.1 with | some e => decide (x.2 + 1 = e.cidx) | none => false) &&
           (deps p.image).any (fun x => s.failed.contains (0, x.1, x.2)) == b && (s.packetDone 0 0 p.index (if b then 13 else 0) 0).isSome
       | none => false) = true) ∧
    (let s := queued 0 [(0, 4), (8, 8192), (20, 5)] []
     let x := begun s
     startsB s 4 = true ∧ imgBytes x.2.1.image 8 8 % 64 = 0 ∧ imgBytes x.2.1.image 20 4 ≠ 0 ∧ (x.1.queueCap x.2.2 (imgBytes x.2.1.image 16 2)).isSome = true) ∧
    (∀ y ∈ [(1, some 0), (0, some 0), (0, none), (1, some 9)], let s := graphed y.1 y.2
      (match (s.graphs.filter (fun r => r.ctx == 0 && r.queue == 0)).head?, s.queue 0 0 with
      | some r, some d => (s.ctx 0).state == .running &&
          (match s.graphNode r with
           | .ok b =>
             match y.2 with
             | some x => decide ((nextNode b (x / 256) ≠ 0xFFFF) ↔ y.1 = 1) && (s.graphEnd r (x % 256) 0).isSome
             | none => decide (r.lid = 0 ∧ r.steps ≠ r.maxsteps ∧ recField b 0 8 % 64 = 0) &&
                 (match s.startTurn 0 0 r.index true d (recField b 8 2) (recField b 0 8) with | .started _ _ => true | _ => false)
           | _ => false)
      | _, _ => false) = true) ∧
    (let s : State := { graphed 1 none with graphs := (graphed 1 none).graphs.map (fun r => { r with steps := 5 }) }
     match s.graphs with | [r] => r.steps == r.maxsteps && (match s.graphNode r with | .ok _ => true | _ => false) && (s.graphEnd r 14 0).isSome | _ => false) = true := by
  decide +kernel

theorem test_meets_PacketsComplete_coll :
    (let s := collPacketState
     let x := begun s
     startsB s 5 = true ∧ (x.1.ctx 0).colln ≠ 0 ∧
     (match x.1.queueCap x.2.2 (imgBytes x.2.1.image 16 2) with
      | some c => (match x.1.pilotRead 0 c (imgBytes x.2.1.image 8 8) 64 with
         | .ok b => let i : BitVec 512 := .ofNat 512 (leNat b)
           collFieldsOk i 1 && (match x.1.queueCap x.2.2 (cdCcap i), x.1.queueCap x.2.2 (cdDcap i) with
             | some comm, some data => (x.1.collDesc 0 i comm data).isSome
             | _, _ => false)
         | _ => false)
      | none => false) = true) := by decide +kernel

/-- The contribution of a member that is stale is answered at once. -/
theorem test_meets_PacketsComplete_meet :
    (let s := meetPacketState 0
     let s1 := (begun s).1
     let key := objKey 0 meetName
     let slots := (List.range (s1.mtRn key)).map (fun i => 1024 + 64 * s1.mtNmem key * s1.mtCount key + slotBytes (s1.mtCount key) * i + 4)
     let u := (slots.foldl (fun s o => s.mtPut key o 4 0) (s1.mtPut key 48 8 0)).mtPut key 56 1 1
     meetsB s 0 = true ∧ (s1.obj key).home = s1.devnum ∧ s1.mtGone key 0 1024 = none ∧ s1.initCheck key = none ∧
     1024 + 64 * s1.mtNmem key * s1.mtCount key + slotBytes (s1.mtCount key) * s1.mtRn key ≤ (s1.obj key).extent ∧
     (∀ o ∈ slots, s1.mtGone key o 4 = none) ∧
     ((u.setMeeting key { Meeting.blank with live := true }).packetDone 0 0 (begun s).2.1.index 0 0).isSome = true) ∧
    (let s := withMem (meetPacketState 0) [(0x70000, 2, 65)]
     meetsB s 0 = true ∧ (begun s).1.mtGone (objKey 0 meetName) 0 1024 = none ∧ (begun s).1.initCheck (objKey 0 meetName) = some 0) ∧
    (∀ opc ∈ [1, 2, 3], let s := withMem (meetPacketState opc) [(0x70030, 8, 1)]
      let s1 := (begun s).1
      let p := (begun s).2.1
      let key := objKey 0 meetName
      meetsB s opc = true ∧ (s1.obj key).home = s1.devnum ∧ s1.mtGone key 56 1 = none ∧ s1.mtHead key = none ∧
      (opc = 1 → (((s1.mtPut key 56 1 (s1.mt key 56 1 / 2 * 2)).setMeeting key Meeting.blank).packetDone 0 0 p.index 0 0).isSome = true) ∧
      (opc = 2 → imgBytes p.image 24 8 % 4 = 0 ∧
        (match s1.queueCap (begun s).2.2 (imgBytes p.image 12 2) with
         | some c => (match s1.pilotRead 0 c (imgBytes p.image 24 8) 4 with
            | .ok b => s1.mtCount key == 1 && (s1.mtFault key ⟨.ofNat 64 key, 0, 0, imgBytes p.image 16 4, [.ofNat 32 (elemOf b 4 0)], s1.devnum⟩ none).isNone && imgBytes p.image 14 2 == 0 && (match s1.contribute key 0 (imgBytes p.image 16 4) s1.devnum [.ofNat 32 (elemOf b 4 0)] none with
                | some (s2, w) => (s2.packetDone 0 0 p.index 0 (wordDetail w)).isSome
                | none => false)
            | _ => false)
         | none => false) = true) ∧
      (opc = 3 → ((s1.resync key 0 s1.devnum).1.packetDone 0 0 p.index 0 (wordDetail (s1.resync key 0 s1.devnum).2)).isSome = true)) := by decide +kernel

/-- `W` without its group; launch 1 has one workgroup, which is next. -/
def unplaced : State :=
  let s := W.setCtx 0 { W.ctx 0 with trec := dataName, trecn := 4, priv := arrName, privn := 4, saven := 4 }
  { s with groups := [], blocks := [], wgs := [], launches := [(1, { s.launch 1 with nextWg := 0 })] }

/-- `W` with save slots and private windows, on two cores. -/
def spacious (s : State) : State := s.setCtx 0 { s.ctx 0 with trec := dataName, trecn := 4, priv := arrName, privn := 9, saven := 9, part := 3 }

/-- Group 1 was saved by an eviction. -/
def evicted : State := spacious (withG (fun g => { g with status := .saved 0 .evict, slot := some 0 }))

/-- A deque entry of launch 1 whose parent is block 1. -/
def dequeEntry (s : State) : State := spacious (s.setCore 0 { s.core 0 with deque := [image [(9, 22), (10, 5), (16, 1), (20, 2), (32, 1)]] })

/-- The lane pair of group 1 is full and every group of it waits for registers. -/
def crowded : State :=
  let g (n : Nat) : Nat × Group := (n + 1, { W.g with allot := 120, wait := .growth 160, berth := n, growReq := some n })
  spacious { W with groups := (List.range 4).map g }

/-- A deterministic context's image: group 1 and its workgroup. -/
def imaged : State :=
  let s := spacious ((withG (fun g => { g with status := .saved 0 .soft, slot := some 0 })).setWg 1 { W.wgOf 1 with core := noCore })
  s.setCtx 0 { s.ctx 0 with det := true }

/-- Workgroup 1 in the save area, with its only group. -/
def stored : State := imaged.setCtx 0 { imaged.ctx 0 with det := false }

/-- A copy to be moved whole: of a COPY packet, into the own window with handle 3, or to a host object. -/
def copyOf (i : BitVec 512) (dst : Cap) (dstVault : Option Nat) (queue : Option (Nat × Nat)) (sent : Bool) : Copy :=
  { image := i, src := capOn dataName, dst := dst, srcVault := none, dstVault := dstVault, ctx := 0, lid := if queue.isSome then 0 else 1,
    gid := if queue.isSome then 0 else 1, wg := if queue.isSome then none else some 1, op := 0, entry := 0, queue := queue, pc := 0, seq := 0, pos := 0, paused := none, sent := sent }
def copying (s : State) (c : Copy) : State := s.setCore 0 { s.core 0 with copies := [c] }

def hostName : DWord := .ofNat 64 (2 ^ 63 + 2 ^ 62 + 1)
/-- Host object 0 has 64 KiB. -/
def hosting (s : State) : State := { s with hostObjs := [(0, ⟨true, hostName, 1, 5, 7, 0, 65536⟩)] }

/-- The next copy of core 0 is `c`, and its chunks can all be moved; the state after that. -/
def moved (s : State) (c : Copy) : Option State :=
  if (s.core 0).copies.find? (fun c => c.paused.isNone && !c.held s) = some c then (match s.moveChunks 0 c (c.chunks - c.pos) c.pos with | .done u => some u | _ => none) else none

/-- The state from which that copy ends. -/
def atEnd (u : State) (c : Copy) : State :=
  u.setCore 0 { u.core 0 with copies := (u.core 0).copies.map (fun x => if x == c then { c with pos := c.chunks } else x) }

/-- An image of two rows with handle 3. -/
def handled : BitVec 512 := .ofNat 512 (copyImage.toNat - (0xFFFF - 3) * 2 ^ 400)

theorem test_meets_PlacementComplete :
    (match unplaced.dispatchable 1 with | some p => (match unplaced.placeWg 1 p with | some t => !(t.wgOf unplaced.nextId).members.contains 0 | none => false) | none => false) = true ∧
    (0 < evicted.liveCores.length ∧ evicted.restorable 0 = [(1, 0)]) ∧
    (let s := imaged
     (s.restorable 0).isEmpty = true ∧ ((s.runningOn 0).findSome? (s.restoreImage 0)).isSome = true ∧ (s.ctx 0).det = true ∧ (s.grp 1).status = .saved 0 .soft ∧
     (s.grp 1).ctx = 0 ∧ (s.grp 1).core = 0) ∧
    (let s := stored
     (s.restorable 0).isEmpty = true ∧ ((s.runningOn 0).findSome? (s.restoreImage 0)).isNone = true ∧ (s.wgs.findSome? (fun e => s.restoreWg 0 e.1)).isSome = true ∧
     s.returning 1 = [1]) ∧
    (let s := dequeEntry W
     (s.restorable 0).isEmpty = true ∧ ((s.runningOn 0).findSome? (s.restoreImage 0)).isNone = true ∧ (s.wgs.findSome? (fun e => s.restoreWg 0 e.1)).isNone = true ∧
     (s.fill 0).isSome = true ∧
     (match s.filled 0 with
      | some u => (match u.bottom 0 with | some d => u.taskFits 0 d && !u.killedAbove 65 (descSblk d) | none => false)
      | none => false) = true) ∧
    (let s := crowded
     (s.fill 0).isNone = true ∧ (s.evictOne 0).isSome = true ∧
     (match evictee s 0 with
      | some gid => (match s.slotOf gid with
         | some slot => s.meetQ.isEmpty && !s.pinGone (s.grp gid).ctx (s.ctx (s.grp gid).ctx).save (coreImage * (s.partCores (s.grp gid).ctx).length + 32768 * slot) true
         | none => false)
      | none => false) = true) ∧
    ((spacious W).fill 0).isNone = true ∧ ((spacious W).evictOne 0).isNone = true := by decide +kernel

theorem test_meets_PlacementComplete_steals : ∀ task ∈ [false, true],
    let s := if task then dequeEntry W else spacious W
    (s.fill 1).isNone = true ∧ s.launches.all (fun e => match s.placement e.1 with | some p => p.core != 1 | none => true) = true ∧
    (match (s.runningOn 1).find? (fun x => (s.openCores x).contains 1 && s.mayRob x 1 0) with
     | some x => (s.stealTask x 1 0).isSome == task && (s.over x 0).count == 0 &&
         (match (s.core 0).deque.find? (fun d => s.descCtx d == x) with | some d => task && !s.killedAbove 65 (descSblk d) | none => !task)
     | none => false) = true := by decide +kernel

theorem test_meets_PlacementComplete_copies :
    (let c := copyOf (begun copyPacketState).2.1.image (capOn dataName) none (some (0, 7)) false
     let s := copying (queued 1 [] []) c
     c.toHost s = false ∧ (match moved s c with | some u => ((atEnd u c).copyEnd 0 { c with pos := c.chunks } none).isSome | none => false) = true) ∧
    (let c := copyOf handled Cap.null (some 1) none false
     let s := copying (withHandle hFilling) c
     c.toHost s = false ∧ copyHandle c.image = 3 ∧
     (match moved s c with | some u => (u.wgOf 1).live && !(u.wgOf 1).killed && ((u.wgOf 1).handle 3).state == hFilling && !(u.wgOf 1).members.isEmpty | none => false) = true) ∧
    (∀ sent ∈ [false, true], let c := copyOf copyImage (capOn hostName) none none sent
     let s := copying (hosting W) c
     c.toHost s = true ∧ (match moved s c with | some u => !sent || ((atEnd u c).copyEnd 0 { c with pos := c.chunks } none).isSome | none => false) = true) := by decide +kernel

/-! ### Contexts, results, debugging and the device -/

/-- Context 0 is a system context; context 1 has the second core, and group 2 is its only group. -/
def ruling (st : CtxState) (l : List (Nat × DWord)) (h : Group → Group) : State :=
  let s := withS (if l.any (fun e => e.1 == 5) then l else (5, 1) :: l)
  let s := (s.setCtx 0 { s.ctx 0 with sys := true }).setCtx 1 { Ctx.blank with state := st, root := loadRoot, part := 2 }
  s.setGrp 2 (h { W.g with ctx := 1, wg := none, core := 1, block := 0 })

def ctxWord (n : Nat) : Fields := wordOf true 0xB4 0xB5 0xB6 (if n = 4 then 0xB7 else 0xF3) (.ext ⟨0, 0, 0, 0, 0, .ofNat 8 n⟩)

/-- What `CtxCall` says. -/
def callB (f : Fields) (s : State) (n slot : Nat) (st : CtxState) : Bool :=
  rdy 0x1F9 f s && s.g.ctxWait == none && (s.ctx s.g.ctx).sys && s.g.uval f f.a == n + 2 ^ 16 * slot && decide (n < 64) && decide (slot < 2 ^ 32) && (s.ctx n).state == st
theorem call_of {f : Fields} {s : State} {n slot : Nat} {st : CtxState} (h : callB f s n slot st = true) : CtxCall f s n slot st := by
  simp only [callB, Bool.and_eq_true, beq_iff_eq, decide_eq_true_eq] at h
  obtain ⟨⟨⟨⟨⟨⟨h1, h2⟩, h3⟩, h4⟩, h5⟩, h6⟩, h7⟩ := h
  exact ⟨ready h1, h2, h3, h4, h5, h6, h7⟩

/-- A launch of context 1 is not complete. -/
def owing (s : State) : State := { s with launches := s.launches ++ [(2, { s.launch 1 with ctx := 1 })] }

/-- Operations 0 to 7 in states in which they act, and in states in which they do not. -/
theorem test_meets_ContextOperationsComplete :
    (∀ n ∈ [0, 1, 2, 3, 4, 5], callB (ctxWord n) (ruling .free [] id) 1 0 .free = true) ∧
    (∀ n ∈ [0, 1, 2, 3, 5], callB (ctxWord n) (ruling .lost [] id) 1 0 .lost = true) ∧
    callB (ctxWord 0) (ruling .running [] id) 1 0 .running = true ∧
    (let s := ruling .saved [] id
     callB (ctxWord 1) s 1 0 .saved = true ∧ (s.reads 0x1F9 (ctxWord 1)).blocked 1 = false) ∧
    (∀ st ∈ [CtxState.running, .saving, .saved], let s := ruling st [] id
      callB (ctxWord 2) s 1 0 st = true ∧ 1 ≠ s.g.ctx ∧ s.groups.all (fun e => e.2.ctx != 1 || e.2.wg.isNone) = true ∧ s.ending 1 = false) ∧
    (let s := owing (ruling .running [] id)
     callB (ctxWord 2) s 1 0 .running = true ∧ 1 ≠ s.g.ctx ∧ s.groups.all (fun e => e.2.ctx != 1 || e.2.wg.isNone) = true ∧ s.ending 1 = true) ∧
    (let r := ruling .killed [(4, 1)] id
     let s := r.setG { r.g with ctxWait := some 1 }
     rdy 0x1F9 (ctxWord 2) s = true ∧ (s.ctx s.g.ctx).sys = true ∧ s.g.uval (ctxWord 2) (ctxWord 2).a = 1 ∧ s.g.ctxWait = some 1 ∧ s.ending 1 = false) ∧
    (∀ st ∈ [CtxState.running, .saved], let s := ruling st [(6, 0x1FFFF)] (fun g => { g with wait := .hold 0x10000 })
      callB (ctxWord 3) s 1 0 st = true ∧ s.sideLog = [] ∧ (s.grp 2).wait = .hold 0x10000) ∧
    (∀ st ∈ [CtxState.running, .saving, .saved, .killed, .lost], callB (ctxWord 4) (ruling st [(6, 0x10000), (7, 1)] id) 1 0 st = true) ∧
    (∀ va ∈ [0x10000, 0x10040], let r := ruling .running [(6, 0x10000), (7, 1)] id
     let s : State := { r with stores := [{ pending .plain plainPart with ctx := 1, va := va }] }
     callB (ctxWord 4) s 1 0 .running = true ∧ s.rangeOwed 1 (s.g.uval (ctxWord 4) 0xB6) (s.g.uval (ctxWord 4) 0xB6 + s.g.uval (ctxWord 4) 0xB7) = (va == 0x10000)) ∧
    (∀ x ∈ [(CtxState.running, 0), (.running, 1), (.saved, 2)], let s := ruling x.1 [(5, 1 + 2 ^ 16 * 3), (6, .ofNat 64 x.2)] (fun g => { g with status := .saved 3 .handle, slot := some 3 })
      callB (ctxWord 5) s 1 3 x.1 = true ∧ (s.reads 0x1F9 (ctxWord 5)).handledIn 1 3 = some 2 ∧ (s.grp 2).status = .saved 3 .handle ∧ s.g.uval (ctxWord 5) 0xB6 = x.2) ∧
    (∀ n ∈ [6, 7], ∀ st ∈ [CtxState.free, .saving], callB (ctxWord n) (ruling st [(6, 0x700)] id) 1 0 st = true) := by decide +kernel

/-- `W` with a fault ring of 64 records in the object behind k2. -/
def faulting (s : State) : State := spacious (s.setCtx 0 { s.ctx 0 with fault := dataName, faultn := 64 })
def walkTo (va : Nat) (kind : Nat) : Walk := ⟨0, 1, 0, va, true, kind, 1, 0, 0⟩
def storeOf (kind : StoreKind) (l : Loc) (entry : Nat) (shadow : Option (Nat × Nat)) : PStore :=
  { gid := 1, ctx := 0, lid := 1, core := 0, kind := kind, parts := [⟨[(l, 1)], [], false, shadow⟩], tag := false, setFull := false, entry := entry, pc := 0, seq := 0, op := 0, va := 0x10000, obj := none, sched := 0, owner := 0 }

theorem test_meets_ResultsAndTrapsComplete :
    (∀ load ∈ [false, true], let d : Deferred := { load := load, v := [(0, 5, false)], quads := [0], s := some (47, 5, false), div := false, dz := false, pc := 0, seq := 0, skip := [], level := 0 }
      let s := withG (fun g => { g with pending := [d], vEmpty := [(0, true)], sEmpty := [(47, true)] })
      (s.grp 1).pending[0]? = some d ∧ d.load = load ∧ (s.grp 1).resident = true ∧ (s.grp 1).quadBefore 0 d = false ∧ (d.v.map Prod.fst).Nodup) ∧
    (let w := walkTo 0x1FFFF 1
     let s : State := { withG (fun g => { g with wait := .hold 0x1FFFF }) with walks := [w] }
     s.walkOrder 0 = [w] ∧ (match s.walk w.ctx w.va with | some p => p.write | none => false) = true ∧ w.kind ≠ 2 ∧ (s.grp w.gid).ctx = w.ctx ∧ (s.grp w.gid).wait = .hold w.va) ∧
    (∀ kind ∈ [1, 2, 3], let w := walkTo 0x90000 kind
      let s : State := { faulting W with walks := [w] }
      s.walkOrder 0 = [w] ∧ (s.walk w.ctx w.va).isNone = true ∧ (({ s with walks := s.walks.erase w } : State).walkFails w).isSome = true) ∧
    (let a : AsyncTrap := ⟨.poison, 0, 0⟩
     let s := withG (fun g => { g with traps := [a] })
     let g := s.grp 1
     g.traps = [a] ∧ g.status = .running ∧ g.feDone = [] ∧ s.saveWaits 1 a.cause = false ∧
     ((({ s with cur := 1 } : State).setGrp 1 { g with traps := [] }).takeTrap a.cause a.pc g.pc g.pc a.seq []).stalled = false) := by decide +kernel

theorem test_meets_ResultsAndTrapsComplete_stores :
    (∀ racing ∈ [false, true],
      let p := storeOf .checked (.mem 0x5FFFF) 2 (some (7, 0x1FFF0))
      let t (e : Word) : TaskEntry := ⟨e, 1, 0, 0, 0, 1, 1⟩
      let s : State := { faulting (tasked W) with stores := [p], shadow := [(7, shadowWord 1 0)], tasks := [(1, t 0x80000005), (2, t (if racing then 3 else 6))] }
      let u : State := { s with stores := s.stores.eraseIdx 0 }
      s.stores[0]? = some p ∧ p.kind = .checked ∧ s.storeReady 0 = true ∧ s.current p = true ∧ p.op = 0 ∧
      (match u.readShadow 7 with
       | some v => (v.raceCheck p.entry 7).1 == !racing && (!racing || ((v.raceCheck p.entry 7).2.reportRace p.gid p.ctx p.entry 7 0x1FFF0 p.pc p.seq p.core).isSome)
       | none => false) = true) ∧
    (let p := storeOf .remote (.peer arrName.toNat 65535) 0 none
     let s : State := { W.setObj arrName.toNat { W.obj arrName.toNat with home := 3 } with stores := [p], routes := [(3, 1)] }
     s.stores[0]? = some p ∧ p.kind = .remote ∧ s.storeReady 0 = true ∧ s.current p = true ∧ s.cutOff (.peer arrName.toNat 65535) = false) ∧
    (let s : State := (faulting (withG (fun g => { g with issuedSince := hardCount, wait := .hold 0 })))
     let s := (s.setCtx 0 { s.ctx 0 with state := .saving }).setCore 0 { s.core 0 with cycle := hardWait }
     let g := s.grp 1
     g.status = .running ∧ (s.ctx g.ctx).state = .saving ∧ s.meetQ = [] ∧ (match s.slotOf 1 with | some slot => !s.pinGone g.ctx (s.ctx g.ctx).save (coreImage * (s.partCores g.ctx).length + 32768 * slot) true | none => false) = true ∧ s.mustFinish 1 = false ∧ s.recorderFull g.core = false ∧ hardCount ≤ g.issuedSince ∧
     (s.ctx g.ctx).det = false ∧ g.wait.fixed = true ∧ hardWait ≤ (s.core g.core).cycle - g.lastIssue) := by decide +kernel

/-- The debug capability of context 0 is granule 0 of the object behind k4; group 1 is stopped; one core is live. -/
def debugged : State :=
  let s := withMem (withG (fun g => { g with stopped := true })) [(0x60000, 16, (Cap.make meetName 0 0x80 0 0 0).image.toNat)]
  let s := s.setCtx 0 { s.ctx 0 with debugObj := meetName }
  { s with tags := [(0x6000, true)], objs := Cells.put s.objs meetName.toNat { ObjEntry.absent with live := true, extent := 16 }, fusedOff := (List.range 319).map (· + 1) }
def debugReq : DebugReq := ⟨arrName, 0, 0⟩

theorem test_meets_DebugAndRecorderComplete :
    (let s := debugged
     (s.trust.hmUp = true ∧ s.trust.pilotUp = true) ∧ s.debugOk debugReq = true ∧ s.stoppedGroup debugReq 1 = true ∧
     (∀ r ∈ [DebugReg.v 175, .s 47, .p 7, .g 7, .x 7, .o 7, .mode, .pedKey, .pedPos], (s.regValues (s.grp 1) r).isSome = true) ∧
     (s.regPut 1 (.s 47) [5]).isSome = true ∧ (s.regPut 1 (.v 175) (List.replicate 32 6)).isSome = true ∧
     (s.obj dataName.toNat).live = true ∧ (s.obj dataName.toNat).ctx = debugReq.ctx) ∧
    (let s := W.setCtx 0 { W.ctx 0 with sampN := 10, sampRing := dataName }
     let s := s.setCore 0 { s.core 0 with scheds := [(3, { Sched.reset with issues := 1, ins := some ⟨1, 0, 0, 0, 0, 0, 0, 0⟩ })] }
     let d := Cells.get Sched.reset (s.core 0).scheds 3
     d.ins = some ⟨1, 0, 0, 0, 0, 0, 0, 0⟩ ∧ d.issues ≠ 0 ∧ (s.ctx 0).sampN ≠ 0) ∧
    (let s := W.setCore 0 { W.core 0 with cycle := 2 ^ 29 }
     bit (s.core 0).cycle 29 ≠ (s.core 0).recorder.tick) ∧
    (let s : State := { W with freezing := [0], origins := [⟨5, 1, 0, 0⟩] }
     0 ∈ s.freezing ∧ s.origins ≠ [] ∧ (s.core 0).recorder.frozen = false) ∧
    (let s : State := { debugged.setCore 0 { Core.blank with recorder := { Recorder.reset with frozen := true } } with origins := [⟨0, 1, 0, 0⟩] }
     s.origins ≠ [] ∧ ∀ c < s.liveCores.length, (s.core c).recorder.frozen = true) := by decide +kernel

/-- A flit of a sequence number, with its CRC. -/
def flitOf (seq : Nat) : BitVec 512 := let b := seq * 2 ^ 12; .ofNat 512 (b + crc32 ((toLE 64 b).take 60) * 2 ^ 480)
def ported (p : Port) : State := W.setPort 23 p
/-- A host may write the object behind k2 with key 7, and read a capsule view with key 9. -/
def registered : State := { W with regs := [(7, ⟨true, 0, capOn dataName⟩)], capViews := [(9, [1, 2, 3, 4])] }

theorem test_meets_FabricComplete :
    (let s := ported { Port.reset with expect := 4095 }
     s.portLive 23 = true ∧ (s.port 23).down = false ∧ flitOk (flitOf 4095) = true ∧ flitSeq (flitOf 4095) = (s.port 23).expect ∧
     flitOk (flitOf 0) = true ∧ flitSeq (flitOf 0) ≠ (s.port 23).expect ∧ flitOk (flitOf 0 ^^^ 1) = false) ∧
    (let s := ported { Port.reset with next := 2, replay := [mkFlit 0 0 5 0, mkFlit 1 0 5 0] }
     let f := mkFlit 0 1 4 0
     s.portLive 23 = true ∧ (s.port 23).down = false ∧ flitOk f = true ∧ flitSeq f = (s.port 23).expect ∧ flitKind f = 4 ∧
     ((s.port 23).acked (flitAck f)).replay = [mkFlit 1 0 5 0] ∧ (s.port 23).replay.length ≤ replayFlits) ∧
    (let s := ported { Port.reset with failed := 17, retrains := 3 }
     s.portLive 23 = true ∧ (s.port 23).down = false ∧ 17 ≤ (s.port 23).failed ∧ 3 ≤ (s.port 23).retrains) ∧
    (W.unanswered 255 = false ∧ (255 : Nat) < 256) ∧
    (let s := registered
     s.qpServes 1 16383 = true ∧
     (match s.hostRun 7 65528 8 [rRead, rWrite] true with | .ok l => l.length == 8 | _ => false) = true ∧
     (match s.hostRun 7 65528 8 [rWrite] true with | .ok l => l.length == 8 | _ => false) = true ∧
     (match s.hostRun 7 65529 8 [rWrite] true with | .nak => true | _ => false) = true ∧
     Cells.get [] s.capViews 7 = [] ∧ (match s.hostRun 7 65528 8 [rRead] false with | .ok _ => true | _ => false) = true ∧
     Cells.get [] s.capViews 9 ≠ [] ∧ 3 + 1 ≤ (Cells.get [] s.capViews 9).length ∧ (0x20 : Byte).toNat ∉ roceOpcodes) := by decide +kernel

def header (op : Byte) (len : Nat) : ReportHdr := ⟨1, op, .ofNat 16 len, 5, 0⟩
def oneCapsule : Capsule := { no := 4, origins := [⟨0, 1, 0, 0⟩], cores := [], meas := 0, lcs := 2, resets := 0, insts := [(0, 5)] }
def aToken (n : BitVec 256) (sig : List Byte) : Token := ⟨1, 2, 0, Config.devid, n, .ofNat 32 sig.length, sig⟩

/-- What `Heard` says. -/
theorem test_heard (s : State) (op : Byte) (len : Nat) (hl : len < 65536) (h : s.trust.powered = true ∧ s.trust.hmUp = true ∧ s.trust.pilotUp = true) :
    Heard s (header op len) op.toNat len :=
  ⟨h.1, ⟨h.2.1, h.2.2⟩, rfl, rfl, by simpa [header] using Nat.mod_eq_of_lt hl, .inl rfl⟩

/-- No kernel can show that a signature verifies: the premise of UNLOCK stands for every one that does. -/
theorem test_meets_ReportsComplete :
    (let s : State := { W with capsules := [oneCapsule], capReads := [(5, 9)] }
     (s.trust.powered = true ∧ s.trust.hmUp = true ∧ s.trust.pilotUp = true) ∧ s.trust.identity = true ∧ s.trust.leaf < 2 ^ 25 ∧
     s.findCapsule 4 = some oneCapsule ∧ oneCapsule.insts.find? (fun e => e.2 == (BitVec.ofNat 128 (5 * 2 ^ 64 + 9)).toNat / 2 ^ 64) = some (0, 5) ∧ oneCapsule.holds 0 = true ∧
     (∃ e ∈ s.capReads, e.1 = (BitVec.ofNat 128 (5 * 2 ^ 64 + 9)).toNat / 2 ^ 64 ∧ e.2.toNat = (BitVec.ofNat 128 (5 * 2 ^ 64 + 9)).toNat % 2 ^ 64)) ∧
    (∀ n sig, sig.length < 2 ^ 16 - 52 → Config.hssVerify 1 (toLE 32 (sha256 (tokenBytes (aToken n sig))).toNat) sig = true →
      let s := W.setTrust { W.trust with challenge := some n, unlocks := 63 }
      s.trust.lifecycle = .deployed ∧ s.trust.unlocks < 64 ∧ tokenOk (aToken n sig) s.trust.challenge = true) := by
  refine ⟨by decide +kernel, fun n sig hl h => ⟨rfl, show (63 : Nat) < 64 by decide, ?_⟩⟩
  have hs : sig.length % 2 ^ 32 = sig.length := Nat.mod_eq_of_lt (by omega)
  simp only [tokenOk, aToken] at h ⊢
  simp only [BitVec.toNat_ofNat, hs, List.take_length, h]
  simp [W, State.setTrust]

def placed : Cap := Cap.make dataName 0 0x47 0 0 4095
def aRequest : ObjectReq := ⟨1, .ofNat 64 (2 ^ 63 + 9), 0, 2 ^ 40, true, true, true, 255, 2 ^ 32 - 1⟩
/-- Context 1 is to be created; one object serves as all of its own, and a page of 512 MiB holds it. -/
def pinName : DWord := .ofNat 64 (2 ^ 63 + 5)
def ownArr : DWord := .ofNat 64 (2 ^ 63 + 6)
def aDescriptor : BitVec 2048 :=
  let n := pinName.toNat
  .ofNat 2048 ((([(0, loadRoot), (12, 1), (16, n), (24, n), (32, 1), (36, 1), (40, n), (48, 4), (52, 256), (56, n), (64, n), (72, n), (80, n), (88, 1), (96, n), (104, n), (112, n),
    (120, 64), (128, n), (136, 2)] : List (Nat × Nat)).map (fun e => e.2 * 2 ^ (8 * e.1))).sum)
def creating : State :=
  let s := withMem W [(0x20010, 8, 0x2000003B)]
  { s with objs := Cells.put (Cells.put s.objs pinName.toNat { ObjEntry.absent with live := true, vbase := 2 ^ 29, extent := 2 ^ 21, ctx := 1, pin := true })
             ownArr.toNat { ObjEntry.absent with live := true, vbase := 0x20000, extent := 65536, ctx := 1, caparr := true } }
/-- A communicator with keys, of this device alone. -/
def keyed : State := withMem W [(0x50000, 4, 1), (0x50004, 4, 2)]

theorem test_meets_HarbourmasterComplete :
    (W.trust.hmUp = true ∧ W.trust.pilotUp = true ∧ W.devnum ≠ 255) ∧
    (W.placeOk 0 arrName 4095 placed = true ∧ placed.rights &&& (W.obj (objKey 0 placed.name)).held = placed.rights ∧
     (W.placeCap 0 arrName 4095 placed).isSome = true) ∧
    (objectOk aRequest = true ∧ (W.obj aRequest.name.toNat).live = false ∧ (W.obj aRequest.name.toNat).retired = false) ∧
    ((W.obj (objKey 0 dataName)).live = true ∧ (W.obj (objKey 0 dataName)).ctx = 0) ∧
    (let s := creating
     s.creatable 1 aDescriptor = true ∧
     (let a := s.setCtx 1 { describedCtx aDescriptor with inst := s.ctxInst + 1 }
      let b := a.setCtx 1 { a.ctx 1 with state := if a.blocked 1 then .saved else .running }
      (b.debugObject 1 meetName ownArr 4095).isSome = true)) ∧
    ((W.ctx 0).state ≠ .free) ∧
    (let s := State.reset
     s.unitLive 5 23 = true ∧ s.unitLive 2 95 = true ∧ s.unitLive 1 311 = true ∧ 0 < s.coresLeft 311 ∧ s.unitLive 4 11 = true ∧ (∀ e ∈ s.ctxs, e.2.state = .free)) ∧
    (W.logicalCore 311 = some 287 ∧ W.mmaRuns 287 = false) ∧
    (let s := debugged.setCtx 0 { debugged.ctx 0 with debugArr := arrName, debugGranule := 4095 }
     let key := (s.ctx 0).debugObj.toNat
     (s.ctx 0).state ≠ .free ∧ (s.obj key).gen ≠ 255 ∧
     ((s.setObj key { s.obj key with gen := (s.obj key).gen + 1 }).placeDebug 0 (s.ctx 0).debugObj (s.ctx 0).debugArr (s.ctx 0).debugGranule).isSome = true) ∧
    (let s := keyed
     let o := s.obj dataName.toNat
     s.objNat dataName 4 4 = some 2 ∧ s.memberDevices dataName = some [] ∧ systemName dataName = true ∧ o.live = true ∧ o.ctx = 0 ∧ bit 2 1 = true ∧
     wrapAll (Config.random s.freeCount) (keyBind dataName o.gen) [] [] = some [] ∧ (s.objRun dataName 4 4).isSome = true) ∧
    (∀ h ∈ [false, true], let s := W.setTrust { W.trust with lifecycle := if h then .provisioned else .returned }
      s.trust.lifecycle = if h then .provisioned else .returned) ∧
    (W.unitExists 3 0x0302 = true ∧ W.unitExists 1 311 = true ∧ systemName dataName = true ∧ (W.obj dataName.toNat).live = true ∧ W.regs.length < 65536 ∧
     (BitVec.ofNat 64 (2 ^ 64 - 1)).toNat / 2 ^ 62 = 3) := by decide +kernel

/-- An image that verifies passes whatever the fuses say up to its version. -/
theorem test_image (i : Image) (h : Config.hssVerify 0 (i.bytes ++ toLE 4 i.svn.toNat) i.sig = true) : imageOk i i.svn.toNat = true := by
  simp [imageOk, h]

/-- Context 1 is to have the core that context 0 has. -/
def sharing (a b : CtxState) : State := (W.setCtx 0 { W.ctx 0 with state := a }).setCtx 1 { Ctx.blank with state := b, part := 1 }

theorem test_meets_HealthAndResetsComplete :
    ((W.grp 1).resident = true) ∧
    (((W.setHealth 1 5 { Health.reset with corrected := 1025 }).health.map Prod.fst).Nodup) ∧
    ((3 : Nat) ∉ W.tripped) ∧
    ((sharing .running .saved).meets 0 1 = true ∧ ((sharing .running .saved).ctx 1).state = .saved ∧ ((sharing .running .saved).ctx 0).state = .running) ∧
    ((sharing .saved .saved).meets 0 1 = true ∧ ((sharing .saved .saved).ctx 0).state ≠ .running ∧ (sharing .saved .saved).blocked 1 = false) ∧
    (W.trust.powered = true ∧ W.warmState.trust.wipe = false ∧ (W.ctx 0).state = .running) ∧
    (let s := W.setTrust { W.trust with lifecycle := .manufacture }
     s.trust.hmUp = true ∧ s.trust.lifecycle = .manufacture) := by decide +kernel

/-! ### Fetching and the step -/

/-- What `CodeAt` says of some bytes. -/
def codeB (t : State) (bs : List Byte) : Bool :=
  let va := (t.g.kreg 0).start + (t.g.pc.toNat + 2 ^ 32 * t.g.pcHigh.toNat)
  t.g.pc.toNat % 4 == 0 && va % 32 + bs.length ≤ 32 && (t.g.pc.toNat + 2 ^ 32 * t.g.pcHigh.toNat) + bs.length ≤ (t.g.kreg 0).length &&
    (match t.resolve (.obj (t.g.kreg 0)) va 4 false false false with
     | .ok first => first.all (fun x => !t.poisonAt x.2) && bs.length == lenOfCode (t.readNat (first.map Prod.snd) % 4)
     | _ => false) &&
    (match t.resolve (.obj (t.g.kreg 0)) va bs.length false false false with
     | .ok all => all.all (fun x => !t.poisonAt x.2) && bs == all.map (fun x => t.byteAt x.2)
     | _ => false)

theorem code_of {t : State} {bs : List Byte} (h : codeB t bs = true) : CodeAt t bs := by
  simp only [codeB, Bool.and_eq_true, beq_iff_eq, decide_eq_true_eq] at h
  obtain ⟨⟨⟨⟨h1, h2⟩, h3⟩, h4⟩, h5⟩ := h
  refine ⟨h1, ?_, h2, h3, ?_⟩
  · split at h4
    · next first e => simp only [Bool.and_eq_true, beq_iff_eq] at h4; exact ⟨first, e, h4.1, h4.2⟩
    · cases h4
  · split at h5
    · next all e => simp only [Bool.and_eq_true, beq_iff_eq] at h5; exact ⟨all, e, h5.1, h5.2⟩
    · cases h5

/-- The machine that is about to run a word of 64 bits. -/
def about (w : Nat) : State := State.reset.withFetchWord 64 w
def nopCode : Nat := 0xF3F3F3F33D20

/-- NOP; LD of 64 bits; opcode 0x1FF; a word of zeros. -/
theorem test_meets_fetching : ∀ w ∈ [nopCode, 0x700, 0x7FC, 0],
    ((about w).grp 1).status = .running ∧ codeB ((about w).turn 1) (toLE 8 w) = true := by decide +kernel

theorem test_meets_StepRunsDecodedInstruction :
    (match decode (toLE 8 nopCode) with | .ok (.nop _, 8) => true | _ => false) = true ∧
    (match decode (toLE 8 0x700) with | .error _ => true | _ => false) = true ∧
    (let s := about nopCode
     s.ready.actions.isEmpty = false ∧ s.inputs = [] ∧ (s.ready.internal.filterMap s.ready.fire).isEmpty = true ∧ s.ready.activeScheds = [(0, 0)] ∧
     s.ready.schedGroups 0 0 = [1] ∧ s.ready.tagDue (Cells.get Sched.reset (s.core 0).scheds 0) = false ∧ s.ready.unrecorded 1 = false ∧
     (match (s.ready.turn 1).fetch with | .ok i 8 => (match exec i (s.ready.turn 1) with | .next r => !r.stalled | _ => false) | _ => false) = true) := by
  decide +kernel

theorem test_meets_DecodeEncodeRoundTrip :
    (integerWords ++ floatWords ++ tileWords ++ contextWords).all (fun x => x.2.2.wf && x.2.2.word.isSome) = true := by decide +kernel

theorem test_meets_LengthsFollowTheClass :
    (match decode (toLE 8 nopCode) with
     | .ok (i, n) => i.word.isSome && n == 8
     | _ => false) = true ∧ leNat (toLE 8 0x700) % 4 ≠ 3 ∧
    (match lenClass (leNat (toLE 8 0x700) / 4 % 512) with
     | some k => !(permitted k).contains (lenOfCode (leNat (toLE 8 0x700) % 4))
     | none => false) = true := by decide +kernel

theorem test_meets_UnassignedOpcodesRaiseIllegal :
    (∀ e ∈ assignedRuns, leNat (toLE 8 0x7FC) / 4 % 512 < e.1 ∨ e.2 < leNat (toLE 8 0x7FC) / 4 % 512) ∧ toLE 8 0 = List.replicate 8 0 := by decide +kernel

theorem test_meets_MemoryCanonicalKept :
    Memory.wf (about nopCode).mem = true ∧ (match step (about nopCode) with | .next _ => true | _ => false) = true := by decide +kernel

end Sys2Proof.Tests
end

