-- ==== Sys2Proof/Tests/Witness2.lean ====
section
/-! SUPPORT. For the clauses of obligations about stores, pages, peers, guards and what waits: more states and operands that meet their hypotheses. -/

namespace Sys2Proof.Tests

open Sys2Proof Sys2Proof.Machine Sys2Proof.Claims

set_option maxRecDepth 100000
set_option Elab.async false

/-! ### No active thread -/

/-- An instruction whose guard lets no thread act, and whose checks pass. -/
def idleB (op : Nat) (f : Fields) (fm : Form) (skip : Bool) (s : State) : Bool :=
  s.g.status == .running && s.g.issue op f fm skip == .ok && (s.g.active f).isEmpty

/-- `W` with p2 and g2 false. -/
def unguarded : State := withG (fun g => { g with p := [(4, 0xFFFFFFFF)], g := 0x80 })

/-- A vector instruction and a uniform one under such a guard; a branch; LDT and STT. -/
theorem test_meets_no_thread :
    (∀ u ∈ [false, true], let f : Fields := { addCc u with gnum := 2 }
     (Instr.add f).word = some (0x001, f) ∧ 0x001 ∉ checkedFirst ∧ idleB 0x001 f (form 0x001 f) false unguarded = true) ∧
    idleB 0x140 (braWord false 2) (form 0x140 (braWord false 2)) false unguarded = true ∧
    (let s := laidOut unguarded
     match s.layout ldtWord.ext.num1.toNat, s.layout sttWord.ext.num1.toNat with
     | some l, some l' =>
       layoutPre (some l) ldtWord.d ldtWord ldtWord.ext.sx == .ok && layoutPre (some l') sttWord.c sttWord false == .ok &&
         idleB 0x1C2 ldtWord { form 0x1C2 ldtWord with d := .dst [.v, .ix, .zero] (if l.bits = 64 then 2 else 1) } false s &&
         idleB 0x1C3 sttWord { form 0x1C3 sttWord with c := .gen sttWord (if l'.bits = 64 then 2 else 1) } true s
     | _, _ => false) = true := by decide +kernel

/-! ### Issued and performed stores -/

/-- The page of the object behind k2 is not mapped; the store goes to the side log, and the one behind it in the line. -/
def unmapped : State := W.setObj dataName.toNat { W.obj dataName.toNat with vbase := 0x90000 }
def toData : Space := .obj (capOn dataName)

/-- The last bytes of the object: in memory, in the side log, at a peer; a reduction; a remote window. -/
theorem test_meets_IssuedStoresHoldTheirBytes_places :
    (∀ x ∈ [(W, 1, 0), (unmapped, 0, 1)], (match x.1.issueStores toData ⟨false, false, false, 0⟩ 4 false [⟨65532, [1, 2, 3, 4], none, false⟩] with
     | .ok t => t.stores.length == x.2.1 && t.sideLog.length == x.2.2 && t.walks.length == x.2.2
     | _ => false) = true) ∧
    (let s : State := { W.setObj dataName.toNat { W.obj dataName.toNat with home := 3 } with routes := [(3, 1)] }
     (match s.issueStores toData ⟨false, false, false, 0⟩ 4 false [⟨65532, [1, 2, 3, 4], none, false⟩] with
     | .ok t => t.stores.any (fun p => p.kind == .remote)
     | _ => false) = true) ∧
    issued (W.issueStores toData ⟨false, false, true, 0⟩ 4 false [⟨65532, [], some (0, .n32, 5), false⟩]) = true ∧
    (match W.issueStores (.remote (some 1)) ⟨false, true, false, 0⟩ 4 false [⟨65532, [1, 2, 3, 4], none, false⟩] with
     | .ok t => t.stores.any (fun p => p.kind == .remote)
     | _ => false) = true := by decide +kernel

/-- Two parts of a line: bytes of a window, and reductions of a place of memory. -/
def windowParts : List Part := [⟨[(.vault 1 65520, 7), (.vault 1 65521, 8)], [], false, none⟩, ⟨[], [([.mem 0x50000, .mem 0x50001], 0, .n32, 5)], false, none⟩]

theorem test_meets_PerformedStoreWritesItsBytes_parts :
    (∀ held ∈ [false, true], let p : PStore := { pending .plain plainPart with parts := windowParts, setFull := true, obj := some (dataName.toNat, 0) }
     let s : State := { withW (fun w => { w with handles := if held then [(3, ⟨hFilling, 8, 8⟩)] else [] }) with stores := [p] }
     s.stores[0]? = some p ∧ p.kind = .plain ∧ s.storeReady 0 = true ∧ s.current p = true ∧ s.meetDrops p = false ∧ allLocalB p.parts = true ∧
     (p.parts.all (fun q => q.shadow.isNone)) = true ∧ (redsOf p.parts).all (fun r => r.1 == [.mem 0x50000, .mem 0x50001]) = true) ∧
    (let p : PStore := { pending .plain plainPart with obj := some (dataName.toNat, 0) }
     let s : State := { (meeting W) with stores := [p] }
     s.stores[0]? = some p ∧ s.storeReady 0 = true ∧ s.current p = true ∧ allLocalB p.parts = true ∧ s.meetDrops p = true) := by decide +kernel

/-! ### Locks, streams, fragments, the recorder -/

/-- This owner holds eight lines; the table of the line's die is full. -/
theorem test_meets_LineLocksComplete_refused :
    (let r := (withS [(6, 65535)]).reads 0x1D7 lockWord
     let key := lineKey (objKey 0 (r.lockAt lockWord).1.name) (r.lockAt lockWord).2.1
     let s : State := { withS [(6, 65535)] with locks := (List.range 8).map (fun i => (i, 3)) }
     rdy 0x1D7 lockWord s = true ∧ lockOwner s.g s.cur = 3 ∧ Cells.get 0 s.locks key = 0 ∧ lockMax ≤ (s.locks.filter (fun e => e.2 == 3)).length) ∧
    ∀ (die : Nat → Nat) (key : Nat), lockTable ≤ ((List.replicate lockTable (key, 9)).filter (fun e => die e.1 == die key)).length := by
  refine ⟨by decide +kernel, fun die key => ?_⟩
  simp

/-- A gather along dimension 0 through stream 2's queue, whose entry is poisoned, and a convolution whose fourth coordinate is the extent or below it. -/
def gatherImage : BitVec 512 := image [(20, 17), (22, 1), (24, 1), (26, 1), (28, 1), (40, 1), (42, 2)]
def convImage (c3 : Nat) : BitVec 512 := image [(12, c3), (20, 17), (22, 1), (24, 1), (26, 1), (28, 1), (40, 2), (56, 0x0101)]

/-- What the hypotheses of O24 say, for an element that is read as `v`. -/
def readsAhead (i : BitVec 512) (iq : List (Word × Bool)) (v : Nat) (out : Bool) : Bool :=
  let s : State := laidOut (withG (fun g => { g with streams := [(3, { bound true 0 with image := i })], oq := (if iq.isEmpty then [] else [(10, iq)]) }))
  let u : State := { s with cur := 1 }
  let st := (s.grp 1).stream 3
  let src := 8 + imgByte st.image 42
  let q := Cells.get [] (s.grp 1).oq src
  let c := st.coordAt st.pos (toSigned 32 (q.headD (0, false)).1.toNat)
  (s.grp 1).status == .running && st.bound && st.active && !st.held && !st.done && st.fault.isNone && (st.mode != 1 || (!q.isEmpty && st.queue 3 != src)) &&
    (match u.layout (imgByte st.image 39) with
     | some l => decide ((Cells.get [] (s.grp 1).oq (st.queue 3)).length + (if l.bits = 64 then 2 else 1) ≤ queueDepth) &&
         (out == (st.mode == 2 && decide (((l.ext.getD 3 0 : Nat) : Int) ≤ c.getD 3 0))) &&
         (match u.readElem l c with | .val x p => x == v && !p | _ => false)
     | none => false)

theorem test_meets_StreamReadsComplete_modes :
    readsAhead gatherImage [(15, true)] 0 false = true ∧ readsAhead gatherImage [(16, false)] 7 false = true ∧
    readsAhead (convImage 0) [] 0 false = true ∧ readsAhead (convImage 1) [] 7 true = true := by decide +kernel

theorem test_meets_CopiesAreAccepted_marks : W.g.copyPoison 2 0x100 = .ok := by decide +kernel

/-- A fragment's object of another generation: the access fails. -/
theorem test_meets_FragmentMovesComplete_fails : ∀ write ∈ [false, true],
    (laidOut (W.setObj dataName.toNat { W.obj dataName.toNat with gen := 1 })).fragCause toData 4 write [⟨0, 0⟩] = some .capinvalid ∧
    (laidOut W).fragCause toData 4 write [⟨0, 0⟩] = none := by decide +kernel

/-- System software has asked the group to stop. -/
def withStop (s : State) : State := s.setG { s.g with stopReq := true }

/-- The recorder's queue has no room, and room for one. -/
def recording (busy : Nat) : State := W.setCore 0 { W.core 0 with recorder := { Recorder.reset with busy := busy } }

theorem test_meets_recorderFull :
    (recording 64).recorderFull (recording 64).g.core = true ∧ (recording 63).recorderFull (recording 63).g.core = false ∧
    (∀ busy ∈ [63, 64], allReady [(64, 0, .evmark (wordOf true 0xF3 0xB4 0xB5 0xF3 .none))] (recording busy) = true) ∧
    (∀ d ∈ [0, 1, 2, 3], (trapping d).recorderFull (trapping d).g.core = false) ∧
    (∀ b ∈ [false, true], let s := if b then recording 64 else recording 63
     let s := withStop s
     s.g.stopReq = true ∧ s.recorderFull s.g.core = b ∧ s.g.status = .running ∧ s.g.feDone = [] ∧ s.mustFinish 1 = false) := by decide +kernel

/-! ### Tasks, meetings, packets, placement -/

/-- The child's record lies in memory, its name in the task table is free, and the parent's own record can be read. -/
theorem test_meets_TasksComplete_record : ∀ depth ∈ [0, 62],
    let s := (tasked (withG (fun g => { g with pedIdx := 65534, pedDepth := depth, recNo := 3, s := [(4, 0xFFFFFFFFFFFFFFFF), (5, 1)] })))
    rdy 0x1E0 spawnWord s = true ∧ s.freeRecord s.g.ctx = some 0 ∧ s.ownRecordGone = false ∧ s.g.entry = 0 ∧
    (match s.objRun (s.ctx s.g.ctx).trec (recordSize * 0) recordSize true with
     | some l => l.length == recordSize && l.all (fun x => match x with | .mem _ => true | _ => false) &&
         l == (List.range recordSize).map (fun i => .mem (0x50000 + i))
     | none => false) = true ∧
    (match exec (.spawn spawnWord) s with
     | .next t => (t.core s.g.core).deque.all (fun d => descCidx d != 0)
     | _ => false) = true := by decide +kernel

theorem test_places_nodup (n : Nat) : ((List.range n).map (fun i => Loc.mem (0x50000 + i))).Nodup := by
  rw [List.nodup_map_iff (fun a b h => by injection h with h; exact Nat.add_left_cancel h)]
  exact List.nodup_range

/-- The object is a meeting at this device, and device 3 asks: INIT of a bad and of a good header, FINI, and a request of a context that keeps no log. -/
def fromPeer (header : List (Nat × Nat × Nat)) : State :=
  let s : State := withMem { W with routes := [(3, 1)] } ((0x30018, 8, 0x70013) :: header)
  { s with objs := Cells.put s.objs meetName.toNat { ObjEntry.absent with live := true, vbase := 0x30000, extent := 65536 } }

theorem test_meets_MeetingsComplete_peer : (∀ h ∈ [meetHeader, [(0x70000, 2, 65)]], let s := fromPeer h
    let key := s.meetKey meetName
    (3 : Nat) ≠ s.devnum ∧ s.reachable 3 = true ∧ (s.obj key).live = true ∧ (s.obj key).home = s.devnum ∧ s.logging (s.obj key).ctx = false ∧
    (match s.meetInit key with | .ok _ => h.length != 1 | .bad d => h.length == 1 && d == 0 | .wait _ => false) = true ∧ s.mtGone key 56 1 = none) ∧
    (let s : State := { meeting W with routes := [(3, 1)] }
     let key := s.meetKey dataName
     (match s.contribute key 1 5 3 [] none with | some (u, _) => !u.logging (u.obj key).ctx | none => false) = true ∧
     (let u := (s.resync key 1 3).1
      u.logging (u.obj key).ctx = false)) := by decide +kernel

/-- INIT of a meeting whose slots do not fit its object. -/
theorem test_meets_PacketsComplete_extent :
    (let s := withMem (meetPacketState 0) [(0x70008, 4, 0xFF01)]
     let s1 := (begun s).1
     let key := objKey 0 meetName
     meetsB s 0 = true ∧ (s1.obj key).home = s1.devnum ∧ s1.mtGone key 0 1024 = none ∧ s1.initCheck key = none ∧
     (s1.obj key).extent < 1024 + 64 * s1.mtNmem key * s1.mtCount key + slotBytes (s1.mtCount key) * s1.mtRn key ∧
     (s1.packetDone 0 0 (begun s).2.1.index 1 0xFFFFFF).isSome = true) ∧
    (let s := meetPacketState 1
     let s1 := (begun s).1
     let key := objKey 0 meetName
     meetsB s 1 = true ∧ (s1.obj key).home = s1.devnum ∧ s1.mtGone key 56 1 = none) ∧
    (∀ opc ∈ [2, 3], let s := withMem (meetPacketState opc) [(0x70030, 8, 1), (0x70038, 1, 1)]
     let s1 := (begun s).1
     let key := objKey 0 meetName
     meetsB s opc = true ∧ s1.mtLive key = true ∧ s1.mtHead key = none ∧ s1.logging (s1.obj key).ctx = false ∧
     (let u := (s1.resync key 0 s1.devnum).1
      u.logging (u.obj key).ctx = false) ∧
     (match s1.contribute key 0 0 s1.devnum [0] none with | some (u, _) => !u.logging (u.obj key).ctx | none => false) = true) ∧
    (let x := begun collPacketState
     match x.1.queueCap x.2.2 (imgBytes x.2.1.image 16 2) with
     | some c => (x.1.commWait 0 c 0 (accessId 0 0 x.2.1.index)).isNone
     | none => false) = true := by decide +kernel

theorem test_meets_PlacementComplete_more :
    (match unplaced.dispatchable 1 with | some p => (match unplaced.placeWg 1 p with | some t => (t.ctx (unplaced.launch 1).ctx).state == .running | none => false) | none => false) = true ∧
    (∀ task ∈ [false, true], let s := if task then dequeEntry W else spacious W
     0 < s.freeBerths 1 ∧ s.launches.all (fun e => !s.placesAt e.1 1) = true) := by decide +kernel

/-! ### The side log -/

/-- A side-logged store of group 1 to `va`, whose page is mapped now, and the walk it waits for. -/
def sideStore (ctx : Nat) (va : Nat) : PStore :=
  { pending .plain ⟨[(.virt ctx va, 7), (.virt ctx (va + 1), 8)], [], false, none⟩ with ctx := ctx, va := va, obj := some (dataName.toNat, 0) }
def sideWalk (va : Nat) : Walk := { walkTo va 2 with pc := 0, seq := 0 }

/-- What the side-log clause of a page walk says. -/
def sideWalks (p : PStore) (w : Walk) : Bool :=
  let s : State := { W with sideLog := [p], walks := [w] }
  let r := ({ s with walks := s.walks.erase w } : State).cachePage w.ctx w.va
  s.walkOrder 0 == [w] && (match s.walk w.ctx w.va with | some x => x.write | none => false) && w.kind == 2 &&
    s.sideLog.findIdx? (fun x => x.ctx == w.ctx && x.va == w.va && x.gid == w.gid && x.pc == w.pc && x.seq == w.seq) == some 0 && s.current p &&
    !s.meetDrops p && p.parts.all (fun x => x.shadow.isNone) && (allMapped (p.parts.map r.mapPart)).isSome

/-- The last bytes of the page. -/
theorem test_meets_ResultsAndTrapsComplete_side : sideWalks (sideStore 0 0x1FFFE) (sideWalk 0x1FFFE) = true := by decide +kernel

/-- Context 1, whose tables are those of context 0, has the same page. -/
theorem test_meets_ContextOperationsComplete_side : ∀ st ∈ [CtxState.running, .saved],
    let q := { sideStore 1 0x1FFFE with obj := none }
    let s : State := { ruling st [(6, 0x10000)] id with sideLog := [q] }
    let p := (s.reads 0x1F9 (ctxWord 3)).pageAt 1 (s.g.uval (ctxWord 3) (ctxWord 3).b)
    callB (ctxWord 3) s 1 0 st = true ∧ q.ctx = 1 ∧ p.1 ≤ q.va ∧ q.va < p.2 ∧ s.current q = true ∧ s.meetDrops q = false ∧
    q.parts.all (fun x => x.shadow.isNone) = true ∧ (allMapped (q.parts.map s.mapPart)).isSome = true := by decide +kernel

/-! ### The race filter -/

/-- What `passes` says. -/
def passesB (p : PStore) : State → List Part → Bool
  | _, [] => true
  | s, q :: l =>
    match q.shadow with
    | none => passesB p (s.applyPart q p.tag p.setFull) l
    | some x => match s.filterWrite p.gid p.ctx p.core p.entry x.1 p.pc p.seq with | .apply u => passesB p (u.applyPart q p.tag p.setFull) l | _ => false

theorem passes_of {p : PStore} {s : State} {l : List Part} (h : passesB p s l = true) : passes p s l := by
  induction l generalizing s with
  | nil => trivial
  | cons q l ih =>
    cases e : q.shadow with
    | none =>
      simp only [passesB, e] at h
      simp only [passes, e]
      exact ih h
    | some x =>
      simp only [passesB, e] at h
      simp only [passes, e]
      cases eu : s.filterWrite p.gid p.ctx p.core p.entry x.1 p.pc p.seq with
      | apply u => exact ⟨u, rfl, ih (by simpa only [eu] using h)⟩
      | race u => simp [eu] at h
      | lost u => simp [eu] at h

/-- The outcome of `Filtering`, where there is one. -/
def filterRun (p : PStore) : State → List Part → Option State
  | s, [] => some s
  | s, q :: l =>
    match q.shadow with
    | none => filterRun p (s.applyPart q p.tag p.setFull) l
    | some (key, va) =>
      match s.filterWrite p.gid p.ctx p.core p.entry key p.pc p.seq with
      | .apply u => filterRun p (u.applyPart q p.tag p.setFull) l
      | .race u => (u.reportRace p.gid p.ctx p.entry key va p.pc p.seq p.core).bind (fun v => filterRun p v l)
      | .lost u => filterRun p u l

theorem filtering_of {p : PStore} {s t : State} {l : List Part} (h : filterRun p s l = some t) : Filtering p s l t := by
  induction l generalizing s with
  | nil => cases h; exact .over _
  | cons q l ih =>
    unfold filterRun at h
    split at h
    · next e => exact .unchecked s q l t e (ih h)
    · next key va e =>
      split at h
      · next u eu => exact .applied s u q l t key va e eu (ih h)
      · next u eu =>
        obtain ⟨v, hv, hl⟩ := Option.bind_eq_some_iff.1 h
        exact .raced s u v q l t key va e eu hv (ih hl)
      · next u eu => exact .lost s u q l t key va e eu (ih h)

/-- A CHECKED store of two granules, each with its shadow word; the second granule's last writer, and one that both may follow. -/
def checkedStore : PStore :=
  { storeOf .checked (.mem 0x5FFFF) 2 none with parts := [⟨[(.mem 0x5FFE0, 1)], [], false, some (6, 0x1FFE0)⟩, ⟨[(.mem 0x5FFFF, 2)], [], false, some (7, 0x1FFF0)⟩] }
def filtering (racing : Bool) : State :=
  let t (e : Word) : TaskEntry := ⟨e, 1, 0, 0, 0, 1, 1⟩
  { faulting (tasked W) with stores := [checkedStore], shadow := [(7, shadowWord 1 0)], tasks := [(1, t 0x80000005), (2, t (if racing then 3 else 6))] }

/-- Both granules pass; the first passes and the second races. -/
theorem test_meets_ResultsAndTrapsComplete_granules : ∀ racing ∈ [false, true],
    let s := filtering racing
    let p := checkedStore
    let u : State := { s with stores := s.stores.eraseIdx 0 }
    s.stores[0]? = some p ∧ p.kind = .checked ∧ s.storeReady 0 = true ∧ s.current p = true ∧ allLocalB p.parts = true ∧ s.meetDrops p = false ∧ p.op = 0 ∧
    passesB p u p.parts = !racing ∧ (filterRun p u p.parts).isSome = true := by decide +kernel

/-- The page of the shadow object is not mapped, and the word lies there. -/
theorem test_meets_ResultsAndTrapsComplete_lost :
    let s : State := { filtering false with shadowOut := [(1, true)] }
    let u : State := { s with stores := s.stores.eraseIdx 0 }
    (match u.filterWrite 1 0 0 2 6 0 0 with | .lost _ => true | _ => false) = true ∧ (filterRun checkedStore u checkedStore.parts).isSome = true := by
  decide +kernel

/-! ### Remote windows and peers -/

def remoteOp (op : Nat) : List EngineOp := [⟨4, op, false⟩]
/-- The window of workgroup 1 as a remote one, in a store of operation 9. -/
def remoteStore (parts : List Part) : PStore := { pending .remote plainPart with parts := parts, op := 9 }
def toWindow : PStore := remoteStore [⟨[(.vault 1 65535, 7)], [], false, none⟩, ⟨[], [([.vault 1 65532], 0, .n32, 5)], false, none⟩]
def windowed (killed : Bool) : State := { (withW (fun w => { w with killed := killed })).setG { W.g with ops := remoteOp 9 } with stores := [toWindow] }

/-- The hypotheses on the counter, as `RemoteCounted` has them. -/
def countedB (s : State) (p : PStore) : Bool :=
  (s.grp p.gid).ops == remoteOp p.op && p.op != 0 && (s.stores.eraseIdx 0).all (fun q => q.gid != p.gid || q.op != p.op)

theorem test_meets_ResultsAndTrapsComplete_window : ∀ killed ∈ [false, true], let s := windowed killed
    s.stores[0]? = some toWindow ∧ toWindow.kind = .remote ∧ s.storeReady 0 = true ∧ s.current toWindow = true ∧ s.windowGone toWindow = killed ∧
    allLocalB toWindow.parts = true ∧ s.meetDrops toWindow = false ∧ toWindow.parts.all (fun q => q.shadow.isNone) = true ∧ countedB s toWindow = true := by
  decide +kernel

/-- Bytes, marked and not, and a reduction, at the end of a peer's object; with and without a route there. -/
def toPeer (poison : Bool) : PStore := remoteStore [⟨[(.peer arrName.toNat 65534, 7), (.peer arrName.toNat 65535, 8)], [], poison, none⟩]
def redToPeer : PStore := remoteStore [⟨[], [([.peer arrName.toNat 65532, .peer arrName.toNat 65533], 0, .n32, 5)], false, none⟩]
def peered (p : PStore) (up : Bool) : State :=
  { (W.setObj arrName.toNat { W.obj arrName.toNat with home := 3 }).setG { W.g with ops := remoteOp 9 } with stores := [p], routes := if up then [(3, 1)] else [] }

theorem test_meets_ResultsAndTrapsComplete_peer : (∀ poison ∈ [false, true], ∀ up ∈ [false, true], let p := toPeer poison
     let s := peered p up
     s.stores[0]? = some p ∧ p.kind = .remote ∧ s.storeReady 0 = true ∧ s.current p = true ∧ s.windowGone p = false ∧ s.meetDrops p = false ∧
     p.parts.all (fun q => q.red.isEmpty && q.shadow.isNone) = true ∧ p.tag = false ∧ p.parts.all (fun q => q.poison == poison) = true ∧
     (bytesOf p.parts).all (fun b => (match b.1 with | .peer _ _ => true | _ => false) && s.cutOff b.1 == !up) = true ∧ countedB s p = true) ∧
    (let s := peered redToPeer true
     s.stores[0]? = some redToPeer ∧ s.storeReady 0 = true ∧ s.current redToPeer = true ∧ s.windowGone redToPeer = false ∧ s.meetDrops redToPeer = false ∧
     (match redToPeer.parts with
      | [q] => q.bytes.isEmpty && q.red.length == 1 && q.shadow.isNone && !q.poison && (redsOf [q]).all (fun r => r.1.all (fun x => (match x with | .peer _ _ => true | _ => false) && !s.cutOff x))
      | _ => false) = true) ∧
    (let p : PStore := { toPeer false with obj := some (dataName.toNat, 3) }
     let s := peered p true
     s.stores[0]? = some p ∧ s.storeReady 0 = true ∧ s.current p = false ∧ (s.grp p.gid).status = .running) := by decide +kernel

/-! ### Debugging, ports, the device -/

/-- Results and a request of the stopped group are on their way to v5 and s9, and a load of v6 is held. -/
theorem test_meets_DebugAndRecorderComplete_marks :
    (let d : Deferred := { load := true, v := [(160, 5, false)], quads := [40], s := some (9, 5, false), div := false, dz := false, pc := 0, seq := 0, skip := [], level := 0 }
     let m : MeetWait := { (asking 2 0 4).2 with dst := 9 }
     let s : State := { debugged.setG { debugged.g with pending := [d] } with meetQ := [m] }
     s.debugOk debugReq = true ∧ s.stoppedGroup debugReq 1 = true ∧ (s.regPut 1 (.v 5) (List.replicate 32 1)).isSome = true ∧ (s.regPut 1 (.s 9) [1]).isSome = true ∧
     m.writes 1 (.s 9) = true ∧ (d.quads.contains 40 && (regMarks (.v 5)).contains 40) = true) ∧
    (let i : LastIssue := ⟨1, 0, 0, 0, 0, 0, 0, 0⟩
     ∀ n ∈ [0, 10], let s := W.setCtx 0 { W.ctx 0 with sampN := n, sampRing := dataName }
     let s := s.setCore 0 { s.core 0 with scheds := [(3, { Sched.reset with issues := 1, ins := some i })] }
     let d := Cells.get Sched.reset (s.core 0).scheds 3
     d.ins = some i ∧ s.tagDue d = true ∧ (s.obj (s.ctx i.ctx).sampRing.toNat).checked = false) := by decide +kernel

/-- Nine origins, and what was noted at the freeze. -/
theorem test_meets_DebugAndRecorderComplete_capsule :
    let s : State := { debugged.setCore 0 { Core.blank with recorder := { Recorder.reset with frozen := true } } with
      origins := (List.range 9).map (fun i => ⟨8 - i, 1, 0, 0⟩), frozenNote := some ⟨1, 2, 3, [(0, 5)]⟩ }
    s.origins.length = 9 ∧ s.frozenNote.isSome = true ∧ (∀ c < s.liveCores.length, (s.core c).recorder.frozen = true) := by decide +kernel

/-- A port that has asked already: a bad flit counts, and the one behind it does not; sixteen failures of either direction; the last room for a flit
to be sent again. -/
theorem test_meets_FabricComplete_asking :
    (let s := ported { Port.reset with expect := 4095, asking := true, next := 4095, replay := List.replicate (replayFlits - 1) 0 }
     s.portLive 23 = true ∧ (s.port 23).down = false ∧ (s.port 23).asking = true ∧ flitOk (flitOf 4095 ^^^ 1) = false ∧
     (flitOk (flitOf 0) = true ∧ flitSeq (flitOf 0) ≠ (s.port 23).expect) ∧ (s.port 23).replay.length < replayFlits) ∧
    (∀ p ∈ [{ Port.reset with failed := 16 }, { Port.reset with again := 16 }], let s := ported p
     s.portLive 23 = true ∧ (s.port 23).down = false ∧ (16 ≤ (s.port 23).failed ∨ 16 ≤ (s.port 23).again)) ∧
    (ported { Port.reset with retrains := 3 }).portLive 23 = true := by decide +kernel

theorem test_meets_HarbourmasterComplete_keys :
    (∀ b ∈ [false, true], let s := W.setTrust { W.trust with seed := b, identity := b }
     s.trust.hmUp = true ∧ s.trust.seed = b ∧ s.trust.identity = b ∧ (3 : Nat) ≠ s.devnum) ∧
    (keyed.objRun dataName 4 4 true).isSome = true := by decide +kernel

/-- The error ring is no CHECKED object. -/
theorem test_meets_HealthAndResetsComplete_ring : (W.obj dataName.toNat).checked = false ∧ W.errRing = none ∧ (W.grp 1).resident = true := by decide +kernel

end Sys2Proof.Tests
end

/-! ### The decoder: lengths and opcodes of the words it takes (R66, R69, R78 to R80) -/

section
namespace Sys2Proof

open Sys2Proof.Claims

theorem leNat_take (k : Nat) (bs : List Byte) : leNat (bs.take k) = leNat bs % 256 ^ k := by
  induction bs generalizing k with
  | nil => simp [leNat]
  | cons b bs ih =>
    cases k with
    | zero => simp [leNat, Nat.mod_one]
    | succ k =>
      have hb : b.toNat < 256 := b.isLt
      have hlow : (b.toNat + 256 * leNat bs) % 256 = b.toNat := by omega
      have hhigh : (b.toNat + 256 * leNat bs) / 256 = leNat bs := by omega
      simp only [List.take_succ_cons, leNat, ih, Nat.pow_succ', Nat.mod_mul, hlow, hhigh]

/-- The first word of some bytes, as the decoder reads it. -/
def firstWord (bs : List Byte) : Word := .ofNat 32 (leNat (bs.take 16))

@[simp] theorem leNat_take_len (bs : List Byte) : leNat (bs.take 16) % 4 = leNat bs % 4 := by
  rw [leNat_take]; omega

@[simp] theorem leNat_take_opcode (bs : List Byte) : leNat (bs.take 16) / 4 % 512 = leNat bs / 4 % 512 := by
  rw [leNat_take]; omega

@[simp] theorem firstWord_len (bs : List Byte) : (firstWord bs).toNat % 4 = leNat bs % 4 := by
  rw [← leNat_take_len, firstWord, BitVec.toNat_ofNat]; omega

@[simp] theorem firstWord_opcode (bs : List Byte) : (firstWord bs).toNat / 4 % 512 = leNat bs / 4 % 512 := by
  rw [← leNat_take_opcode, firstWord, BitVec.toNat_ofNat]; omega

theorem unassigned_firstWord (bs : List Byte) :
    unassigned (firstWord bs) = true ↔ leNat bs % 4 = 3 ∨ lenClass (leNat bs / 4 % 512) = none := by
  simp [unassigned]

/-- The row that `build` selects has the opcode and the fields it was selected by. -/
theorem word_of_build {op : Nat} {f : Fields} {i : Instr} (h : build op f = some i) : i.word = some (op, f) := by
  unfold build at h
  repeat' split at h
  all_goals cases h <;> rfl

/-- All that a successful decoding can be: the event of a word that is no instruction, or a legal row of the opcode table. -/
theorem decode_cases {bs : List Byte} {i : Instr} {n : Nat} (h : decode bs = .ok (i, n)) :
    (i = .unassignedOpcode (firstWord bs) ∧ unassigned (firstWord bs) = true) ∨
      ∃ op f, i.word = some (op, f) ∧ decodeFields (leNat (bs.take 16)) = .ok (op, f) ∧ illegalField op f = none ∧ n = f.len := by
  simp only [decode] at h
  split at h
  · next hu => cases h; exact .inl ⟨rfl, hu⟩
  · split at h
    · cases h
    · next op f hd =>
      split at h
      · cases h
      · next hl =>
        split at h
        · next hb => cases h; exact .inr ⟨op, f, word_of_build hb, hd, hl, rfl⟩
        · cases h

theorem decode_of_unassigned {bs : List Byte} (h : unassigned (firstWord bs) = true) :
    decode bs = .ok (.unassignedOpcode (firstWord bs), lenOfCode (leNat bs % 4)) := by
  rw [← firstWord_len]
  exact if_pos h

theorem decodeFields_word {n op : Nat} {f : Fields} (h : decodeFields n = .ok (op, f)) :
    op = n / 4 % 512 ∧ f.tail = decodeTail op (lenOfCode (n % 4)) (n / 2 ^ 64) := by
  simp only [decodeFields, baseWidths, unpackBits] at h
  split at h
  · cases h; exact ⟨rfl, rfl⟩
  · cases h
  · cases h

theorem lenOfCode_cases (c : Nat) : lenOfCode c = 8 ∨ lenOfCode c = 12 ∨ lenOfCode c = 16 := by
  unfold lenOfCode
  split <;> simp

theorem len_of_tail_eq_decodeTail {f : Fields} {op c n : Nat} (h : f.tail = decodeTail op (lenOfCode c) n) : f.len = lenOfCode c := by
  rcases lenOfCode_cases c with hc | hc | hc <;> simp only [Fields.len, h, decodeTail, hc]
  · rfl
  · by_cases hx : (op != 0x022 && (lenClass op == some .c || lenClass op == some .e)) = true <;> simp [hx]
  · by_cases hx : op = 0x022 <;> simp [hx]

theorem tailOk_of_legal {op : Nat} {f : Fields} (h : illegalField op f = none) : tailOk op f.tail = true := by
  cases ht : tailOk op f.tail with
  | true => rfl
  | false => simp [illegalField, ht] at h

theorem permitted_of_tailOk {op : Nat} {f : Fields} (h : tailOk op f.tail = true) : ∃ k, lenClass op = some k ∧ f.len ∈ permitted k := by
  unfold tailOk at h
  unfold Fields.len
  generalize lenClass op = c, f.tail = t at h ⊢
  cases c with
  | none => cases h
  | some k =>
    refine ⟨k, rfl, ?_⟩
    cases k <;> cases t <;> simp [permitted] at h ⊢

/-- R66, R69, R78: opcode and length of a word that decodes to an instruction word. -/
theorem decode_opcode_length {bs : List Byte} {i : Instr} {n op : Nat} {f : Fields} (h : decode bs = .ok (i, n)) (hw : i.word = some (op, f)) :
    op = leNat bs / 4 % 512 ∧ n = lenOfCode (leNat bs % 4) ∧ ∃ k, lenClass op = some k ∧ n ∈ permitted k := by
  obtain ⟨rfl, -⟩ | ⟨op', f', hw', hd, hl, rfl⟩ := decode_cases h
  · cases hw
  cases hw'.symm.trans hw
  obtain ⟨hop, ht⟩ := decodeFields_word hd
  rw [leNat_take_opcode] at hop
  rw [leNat_take_len] at ht
  exact ⟨hop, len_of_tail_eq_decodeTail ht, permitted_of_tailOk (tailOk_of_legal hl)⟩

/-- R78: a length that the class of an assigned opcode does not permit makes the word illegal. -/
theorem decode_error_of_length {bs : List Byte} {k : LenClass} (h3 : leNat bs % 4 ≠ 3) (hk : lenClass (leNat bs / 4 % 512) = some k)
    (hn : lenOfCode (leNat bs % 4) ∉ permitted k) : ∃ r, decode bs = .error r := by
  cases hd : decode bs with
  | error r => exact ⟨r, rfl⟩
  | ok x =>
    obtain ⟨i, n⟩ := x
    obtain ⟨-, hu⟩ | ⟨op, f, hw, -⟩ := decode_cases hd
    · simp [unassigned_firstWord, h3, hk] at hu
    · obtain ⟨rfl, rfl, k', hk', hp⟩ := decode_opcode_length hd hw
      cases hk.symm.trans hk'
      exact absurd hp hn

/-! ### The opcodes that no row of R79 assigns -/

/-- No run of assigned opcodes holds the opcode. -/
def OffRuns (op : Nat) : Prop := ∀ e ∈ assignedRuns, op < e.1 ∨ e.2 < op

theorem OffRuns.between_eq_false {op lo hi : Nat} (h : OffRuns op) (hr : ∃ e ∈ assignedRuns, e.1 ≤ lo ∧ hi ≤ e.2) : between lo hi op = false := by
  obtain ⟨e, he, hlo, hhi⟩ := hr
  have := h e he
  simp only [between, Bool.and_eq_false_iff, decide_eq_false_iff_not]
  omega

theorem OffRuns.beq_eq_false {op n : Nat} (h : OffRuns op) (hr : ∃ e ∈ assignedRuns, e.1 ≤ n ∧ n ≤ e.2) : (op == n) = false := by
  obtain ⟨e, he, hlo, hhi⟩ := hr
  have := h e he
  simp only [beq_eq_false_iff_ne, ne_eq]
  omega

/-- R79, R80: every range that a length class names lies in a run of assigned opcodes. -/
theorem OffRuns.lenClass_eq_none {op : Nat} (h : OffRuns op) : lenClass op = none := by
  simp (disch := decide) [lenClass, h.between_eq_false, h.beq_eq_false]

end Sys2Proof

/-! ### The fetch of a word whose bytes are there (R67) -/

namespace Sys2Proof.Machine

open Sys2Proof.Claims

/-- What a fetch comes to once the bytes of the word are read (R77). -/
def Fetch.ofBytes (bs : List Byte) : Fetch :=
  match decode bs with
  | .ok (i, n) => .ok i n
  | .error _ => .trap .illegal bs.length

theorem Fetch.ofBytes_of_ok {bs : List Byte} {i : Instr} {n : Nat} (h : decode bs = .ok (i, n)) : Fetch.ofBytes bs = .ok i n := by
  rw [Fetch.ofBytes, h]

theorem Fetch.ofBytes_of_error {bs : List Byte} {r : Reject} (h : decode bs = .error r) : Fetch.ofBytes bs = .trap .illegal bs.length := by
  rw [Fetch.ofBytes, h]

theorem State.codeBytes_of_resolve {s : State} {off n : Nat} {l : List (Option Nat × Loc)}
    (h : s.resolve (.obj (s.g.kreg 0)) off n false false false = .ok l) (hp : l.all (fun x => !s.poisonAt x.2) = true) (k : List Loc → Fetch) :
    s.codeBytes off n k = k (l.map Prod.snd) := by
  have hclean : l.any (fun x => s.poisonAt x.2) = false := by
    rw [List.all_eq_not_any_not] at hp
    simpa using hp
  simp [State.codeBytes, h, hclean]

theorem fetch_of_codeAt {t : State} {bs : List Byte} (h : CodeAt t bs) : t.fetch = Fetch.ofBytes bs := by
  obtain ⟨haligned, ⟨first, hfirst, hclean, hlen⟩, hblock, hwindow, all, hall, hallClean, hbytes⟩ := h
  have h8 : 8 ≤ bs.length := by rcases lenOfCode_cases (t.readNat (first.map Prod.snd) % 4) with hc | hc | hc <;> omega
  have hread : (all.map Prod.snd).map t.byteAt = bs := by rw [hbytes, List.map_map]; rfl
  simp only [State.fetch]
  rw [if_neg (by simp [haligned]), if_neg (by omega), State.codeBytes_of_resolve hfirst hclean, ← hlen, if_neg (by omega),
    if_neg (by omega), State.codeBytes_of_resolve hall hallClean, hread]
  rfl

theorem attempt_of_decode_ok {s : State} {gid : Nat} {bs : List Byte} {i : Instr} {n : Nat} (hc : CodeAt (s.turn gid) bs)
    (hd : decode bs = .ok (i, n)) : s.attempt gid = exec i (s.turn gid) := by
  simp only [State.attempt, fetch_of_codeAt hc, Fetch.ofBytes_of_ok hd]

theorem attempt_of_decode_error {s : State} {gid : Nat} {bs : List Byte} {r : Reject} (hc : CodeAt (s.turn gid) bs)
    (hd : decode bs = .error r) : s.attempt gid = .next ((s.turn gid).trap .illegal bs.length) := by
  simp only [State.attempt, fetch_of_codeAt hc, Fetch.ofBytes_of_error hd]
  rfl

@[simp] theorem State.turn_g (s : State) (gid : Nat) : (s.turn gid).g = s.grp gid := rfl

theorem exec_unassignedOpcode {s : State} (w0 : Word) (h : s.g.status = .running) :
    exec (.unassignedOpcode w0) s = .next (s.trap .illegal (lenOfCode (w0.toNat % 4))) := by
  change execUnassignedOpcode w0 s = _
  simp [execUnassignedOpcode, h]

/-- R80: what a running group's attempt of a word of an unassigned opcode comes to. -/
theorem attempt_of_offRuns {s : State} {gid : Nat} {bs : List Byte} (hr : (s.grp gid).status = .running) (hc : CodeAt (s.turn gid) bs)
    (h : OffRuns (leNat bs / 4 % 512)) : s.attempt gid = .next ((s.turn gid).trap .illegal (lenOfCode (leNat bs % 4))) := by
  have hu : unassigned (firstWord bs) = true := (unassigned_firstWord bs).2 (.inr h.lenClass_eq_none)
  rw [attempt_of_decode_ok hc (decode_of_unassigned hu), exec_unassignedOpcode _ (by simpa using hr), firstWord_len]

end Sys2Proof.Machine

/-! ### The obligations -/

namespace Sys2Proof.Claims

open Sys2Proof.Machine

/-- Settles O55: the checks that a decoded word has passed bound its length by its class, so a word of another length is no instruction. -/
theorem lengthsFollowTheClass : Obligations.LengthsFollowTheClass := by
  refine ⟨fun bs i n op f hd hw => decode_opcode_length hd hw, fun s gid bs k hc h3 hk hn => ?_⟩
  obtain ⟨r, hd⟩ := decode_error_of_length h3 hk hn
  exact attempt_of_decode_error hc hd

/-- Settles O56: outside the runs of R79 an opcode has no length class, and opcode 0x000 of a word of zeros is outside them. -/
theorem unassignedOpcodesRaiseIllegal : Obligations.UnassignedOpcodesRaiseIllegal := by
  refine ⟨fun s gid bs hr hc h => attempt_of_offRuns hr hc h, fun s gid hr hc => ?_⟩
  have hz : leNat (List.replicate 8 0) = 0 := rfl
  have hzero : OffRuns (leNat (List.replicate 8 0) / 4 % 512) := by rw [hz]; unfold OffRuns; decide
  have h := attempt_of_offRuns hr hc hzero
  rw [hz] at h
  exact h

end Sys2Proof.Claims
end

/-! ### The integer multiplication of fragments (R147) -/

section
namespace Sys2Proof.Machine

/-- A pattern that the model reads as a signed number is the two's complement integer of its low bits (R37). -/
theorem toSigned_eq_toInt (w x : Nat) : toSigned w x = (BitVec.ofNat w x).toInt := by
  simp only [toSigned, BitVec.toInt_eq_toNat_cond, BitVec.toNat_ofNat]
  cases w with
  | zero => simp [Nat.mod_one]
  | succ w =>
    rw [Nat.add_sub_cancel, Nat.pow_succ']
    push_cast
    split <;> split <;> omega

theorem wrap_eq_toNat_ofInt (w : Nat) (x : Int) : wrap w x = (BitVec.ofInt w x).toNat := by
  simp [wrap, BitVec.toNat_ofInt]

theorem ite_clamp_eq_max_min {lo hi : Int} (h : lo ≤ hi) (x : Int) :
    (if x < lo then lo else if hi < x then hi else x) = max lo (min hi x) := by
  split
  · omega
  · split <;> omega

/-- R147 in two's complement: the exact sum, clamped under `.sat` and wrapped otherwise. -/
theorem mmaiElem_eq (sat : Bool) (a b : List Nat) (i n c : Nat) :
    mmaiElem sat a b i n c =
      let x : Int := (BitVec.ofNat 32 c).toInt +
        ((List.range 32).map (fun k => (BitVec.ofNat 8 ((fragA 3).get a i k)).toInt * (BitVec.ofNat 8 ((fragB 3).get b n k)).toInt)).sum
      if sat then (BitVec.ofInt 32 (max (-2 ^ 31) (min (2 ^ 31 - 1) x))).toNat else (BitVec.ofInt 32 x).toNat := by
  have hrange : (-2 ^ 31 : Int) ≤ 2 ^ 31 - 1 := by decide
  simp only [mmaiElem, toSigned_eq_toInt, ite_clamp_eq_max_min hrange, wrap_eq_toNat_ofInt]

/-- An instruction whose own checks pass too acts on the state after its reads. -/
theorem instr_ready_of_pre {s : State} {op : Nat} {f : Fields} {pre : Chk} (h : Ready op f s) (hp : pre = .ok)
    (k : State → Form → List Row → State) : s.instr op f pre false k = .next (k (s.reads op f) (form op f) (s.rows op f)) := by
  subst hp
  exact instr_ready h k

/-- The deferred class, where each thread of a list gets a value that carries no mark. -/
theorem later_deferring {s : State} {f : Fields} {fm : Form} (hr : s.g.status = .running) (w : Nat) (l : List Nat) (val : Nat → Nat) :
    Deferring s (s.readsAs f fm) ((s.readsAs f fm).later f w (l.map (fun t => (t, val t)))) f w
      (l.map (fun t => (t, val t, false))) false false false := by
  unfold State.later
  rw [List.map_map]
  exact defer_deferring hr w _ false false false

/-- R138, R143: a fragment multiplication that passes its checks leaves every thread's run of result elements in flight. -/
theorem fragMul_deferring {s : State} {op shape : Nat} {f : Fields} {slots : Chk} {xv xs : List Nat} (h : Ready op f s)
    (hp : s.g.fragPre (form op f) f slots xv xs = .ok) (fn : Group → List Nat → List Nat → Nat → Nat → Nat → Nat) :
    ∃ t, s.fragMul op f shape slots xv xs fn = .next t ∧
      Deferring s (s.reads op f) t f 8 (threads.map (fun th => (th,
        (fragAcc shape).run (fun i n => fn (s.reads op f).g ((s.rows op f).map Row.a) ((s.rows op f).map Row.b) i n
          ((fragAcc shape).get ((s.rows op f).map Row.c) i n)) th, false))) false false false :=
  ⟨_, instr_ready_of_pre h hp _, later_deferring h.running 8 threads _⟩

end Sys2Proof.Machine

namespace Sys2Proof.Claims

open Sys2Proof.Machine

/-- Settles O27: MMAI is a fragment multiplication whose elements are the sums of R147. -/
theorem integerFragmentsComplete : Obligations.IntegerFragmentsComplete := by
  intro f s hready hpre
  obtain ⟨t, hexec, hflight⟩ := fragMul_deferring (shape := 3) hready hpre (fun _ a b i n c => mmaiElem (f.mod == 1) a b i n c)
  refine ⟨t, hexec, ?_⟩
  simpa only [mmaiElem_eq, beq_iff_eq] using hflight

end Sys2Proof.Claims
end
